-- ==== Sys2Proof/Word.lean ====
section
/-!
DEFINITION. The word types of the register file and of byte images.
-/

namespace Sys2Proof

/-- A byte is 8 bits (chapter 00, "Numbers and units"). -/
abbrev Byte := BitVec 8

/-- A register word is 32 bits (R6). -/
abbrev Word := BitVec 32

/-- A host address. -/
abbrev Addr := BitVec 64

end Sys2Proof
end

