-- ==== Sys2Proof/Syntax.lean ====
section
/-!
DEFINITION. The commands of the block: one constructor per row of the opcode table, with the operands its rule names.
The table gives no row any bits, so the operands are the quantities the rules speak of.
-/

namespace Sys2Proof

/-- A host port (chapter 08): HPA is 0, HPB is 1. -/
inductive Port where
  | hpa | hpb
  deriving DecidableEq, Repr

/-- The port's number in registers and records (R453). -/
def Port.num : Port → Nat
  | .hpa => 0
  | .hpb => 1

/-- The other host port. -/
def Port.other : Port → Port
  | .hpa => .hpb
  | .hpb => .hpa

/-- Origin codes (R181, Table 7-5). -/
inductive Origin where
  | owner (p : Port)
  | vi (v : Fin 16)
  | sentinel | service | sideband | debug | swarm | card
  deriving DecidableEq, Repr

/-- The byte of Table 7-5. -/
def Origin.code : Origin → Nat
  | .owner p => p.num
  | .vi v => 0x10 + v.val
  | .sentinel => 0x20
  | .service => 0x21
  | .sideband => 0x22
  | .debug => 0x23
  | .swarm => 0x24
  | .card => 0x25

/-- The functions that keep a capture of their own (R36, R433). -/
inductive ReadFn where
  | owner (p : Port)
  | vf (v : Fin 16)
  | smb
  deriving DecidableEq, Repr

/-- The register pairs of R433 whose low word captures the high word. -/
inductive CapPair where
  | ovrstat | etot | vault0 | vault1
  deriving DecidableEq, Repr

/-- The party that sends a register write: the Owner through a port, a VI through its VF, or JTAG (R157). -/
inductive Sender where
  | owner (p : Port)
  | vi (v : Fin 16)
  | debug
  deriving DecidableEq, Repr

/-- The sender's origin code. -/
def Sender.origin : Sender → Origin
  | .owner p => .owner p
  | .vi v => .vi v
  | .debug => .debug

/-- The ring a command came through: the Owner Submission ring, the Owner Admin ring or a VI ring (Table 9-1). -/
inductive RingId where
  | sub | adm
  | vi (v : Fin 16)
  deriving DecidableEq, Repr

/-- One sample of the fast path, every 1 us (R88, R482): 10-bit codes of BUS_VS and BULK_VS at the pin, and the signed 10-bit code
of the voltage across the shunt. -/
structure Fast where
  bus  : BitVec 10
  bulk : BitVec 10
  cur  : BitVec 10
  deriving DecidableEq, Repr

/-- What the outside and the analog paths give one frame: the inputs of phases 2 to 5 (R37, R88, R89). -/
structure FrameIn where
  /-- how many of the phases 1 to 6 complete before the next tick (5 or 6 when no overrun happens, R42) -/
  done    : Nat
  /-- AON cycles by which the frame's crystal edges run over 4,096, from which the timer chooses `d` (R28) -/
  xtal    : Int
  /-- durations of phases 1 to 6 in AON cycles (R47) -/
  cycles  : List Nat
  /-- VS0-VS23 at the pin: 12-bit codes of 0-1.5 V (R87, R89) -/
  vs      : List Nat
  /-- IS0-IS7: 12-bit codes (R89) -/
  isn     : List (BitVec 12)
  /-- the busbar group: 12-bit codes of BUS_VS and BULK_VS, and the signed one of the voltage across the shunt (R87, R89) -/
  bus     : BitVec 12
  bulk    : BitVec 12
  shunt   : BitVec 12
  /-- COC_VS: a 12-bit code -/
  coc     : BitVec 12
  /-- the rotating or on-demand item's 12-bit code -/
  rot     : BitVec 12
  /-- when the rotating item is the diode: the ADC cross-check's temperature in 1/16 degree, and the dedicated converter's result for
  the conversion that overlaps the sample, if it passed (R135) -/
  xcheck  : Int
  xover   : Option Int
  /-- with phase 2 abandoned: the rails and the other readings not converted (R43) -/
  staleVs : Nat
  staleOther : Nat
  /-- PG0-PG23 after their glitch filters -/
  pg      : Nat
  /-- the fast path's samples up to this tick that no earlier command has brought (R88) -/
  fast    : List Fast
  /-- the hot-swap gate drive is at full (R104), and the current loop limits throughout the frame (R105) -/
  gateFull : Bool
  limiting : Bool
  /-- SHELF_WARN_N and SHELF_FAIL_N are low (R113) -/
  warnLow : Bool
  failLow : Bool
  /-- SWARM reads high at the phase 4 sample (R74, R76) -/
  swarmHigh : Bool
  deriving DecidableEq, Repr

/-- How a rail crosses a level in hardware (R92): above OV_FLT, below UV_FLT, or PG deasserted. -/
inductive RailCross where
  | ov | uv | pg
  deriving DecidableEq, Repr

/-- An owner of rings and resources: the Owner (`none`) or a VI. -/
abbrev Who := Option (Fin 16)

/-- A submission entry (Table 9-3). -/
structure SqEntry where
  op     : Byte
  flags  : Byte
  cid    : BitVec 16
  rsv0   : Word
  buf    : Addr
  len    : Word
  rsv1   : Word
  params : List Word
  deriving DecidableEq, Repr

/-- What the host has configured in a function that it enables (Table 8-2, R196, R210, R212). -/
structure FnCfg where
  /-- address translation services are enabled -/
  ats : Bool
  /-- page requests are enabled, with this allocation outstanding; PF0 governs its VFs -/
  pri : Option (BitVec 16)
  /-- the completion timeout in microseconds, none while it is disabled -/
  cto : Option Nat
  deriving DecidableEq, Repr

/-- A function as reset leaves it: the completion timeout is 50 ms (R196). -/
def FnCfg.reset : FnCfg := ⟨false, none, some 50000⟩

/-- The tag of a fetched entry: the 16-bit fetch number of R155. -/
abbrev Tag := BitVec 16

/-- A start that reaches a subchannel or channel in the same cycle as its halt (R243).
(Log: DESIGN CHOICE 126) -/
inductive SameStart where
  /-- a start command, by its tag -/
  | cmd (t : Tag)
  /-- its owner's doorbell, with the value written -/
  | doorbell (v : Word)
  deriving DecidableEq, Repr

/-- The kinds of memory request (R200, Table 8-3). -/
inductive ReqKind where
  | read | write | atomic
  deriving DecidableEq, Repr

/-- The record streams (R180, R188). -/
inductive StreamId where
  | journal | log | snaps
  deriving DecidableEq, Repr


/-- Errors a device or its bus reports (R354, R355): the status each gives is that of Table 9-7. -/
inductive DevErr where
  | nackAddr | nackData | arbLost | timeout | pec | i3c
  /-- SDA stays low after `pulses` SCL pulses -/
  | stuck (pulses : Nat)
  deriving DecidableEq, Repr

/-- What the outside gives one burst of a device port (R347): nothing beyond the burst's own bytes. -/
structure BurstIn where
  /-- bytes the device accepts of a WRITE -/
  n     : Nat
  /-- bytes the device supplies to a READ, or to GETSTATUS -/
  dev   : List Byte
  /-- bytes host memory returns for a WRITE -/
  host  : List Byte
  /-- the segment entries of an indirect address list, in the order they are read (R254) -/
  segs  : List (List Byte)
  /-- the device ends the operation; on a flash program or erase: the polled WIP bit is clear -/
  ended : Bool
  /-- bytes offered beyond COUNT (R350) -/
  extra : Nat
  /-- a PEC was checked and matched; ALERT_N is asserted (R349) -/
  pec   : Bool
  alert : Bool
  /-- SCL pulses of a bus recovery that succeeded: a CONTROL's, or the port's own at a start condition (R354); 0 for none -/
  pulses : Nat
  /-- the flash's status register at the last poll -/
  poll  : Nat
  err   : Option DevErr
  /-- a host read of data or of a segment entry fails at this address (R268) -/
  hostErr : Option Nat
  deriving DecidableEq, Repr

/-- What a host access with a translation fault was for (R212). -/
inductive PgFor where
  /-- a subchannel's entry, list or data access; or the write of its latest SSR (R269) -/
  | sub (n : Fin 32)
  | ssr (n : Fin 32)
  /-- a channel's data access, descriptor fetch, or record write (R317) -/
  | chanData (n : Fin 16)
  | chanFetch (n : Fin 16)
  | chanRec (n : Fin 16)
  /-- a command's buffer -/
  | buf (t : Tag)
  deriving DecidableEq, Repr

/-- A mailbox request: one forwarded for a fetched entry, quoting its tag, or Service firmware's own (R137, R155). -/
inductive MbxReq where
  /-- the request `e` quoting the tag `t`: the entry it serves, or another (chapter 06, "A forged origin") -/
  | cmd (t : Tag) (e : SqEntry)
  /-- an event record of the Service category -/
  | record (code subject : BitVec 16) (a0 a1 a2 : Word) (a3 a4 : BitVec 64)
  /-- a heartbeat -/
  | heartbeat (v : Word)
  /-- a journal-read request for a record of a stream (Table 6-1) -/
  | journalRead (stream : StreamId) (seq : Word)
  /-- a posting to THM_REMOTE[r] (R137) -/
  | post (r : Fin 8) (v : BitVec 16)
  /-- a signing request: the SPDM request `req` of a context (R222) -/
  | sign (c : Fin 3) (req : List Byte)
  /-- anything else that Service firmware asks on its own behalf -/
  | other
  deriving DecidableEq, Repr

/-- What the outside gives a Cold reset: the store's and the clock's condition, and the levels found. -/
structure ColdIn where
  /-- the real-time clock's count -/
  rtc     : BitVec 48
  /-- the numbers of the MRAM words in which an uncorrectable error has appeared since the last reset (R176) -/
  ecc     : List (BitVec 16)
  deriving DecidableEq, Repr

/-- The commands: those with operands, then those without, each in the table's order. -/
inductive Instr where
  /-- FRAME_TICK (R37) -/
  | frameTick (f : FrameIn)
  /-- DISCIPLINE_WINDOW_END (R27) -/
  | disciplineWindowEnd (count : Nat)
  /-- FRM_TS_LO_READ (R36) -/
  | frmTsLoRead (fn : ReadFn)
  /-- SWARM_BEACON (R78) -/
  | swarmBeacon (value : BitVec 8) (own : Bool)
  /-- RAILCTL_RETRY (R61) -/
  | railctlRetry (n : Fin 24)
  /-- RAIL_FAULT (R92) -/
  | railFault (n : Fin 24) (cause : RailCross)
  /-- HS_SHORT (R105): the voltage across the shunt (uV) -/
  | hsShort (uv : Nat)
  /-- SOA_TRIP (R106): the fast path's samples up to the moment -/
  | soaTrip (l : List Fast)
  /-- REVERSE_CURRENT (R107): the reverse voltage across the shunt (uV) -/
  | reverseCurrent (uv : Nat)
  /-- INTERLOCK_TRIP (R111): the fast path's samples up to the moment -/
  | interlockTrip (l : List Fast)
  /-- SHELF_CHANGE (R113) -/
  | shelfChange (fail : Bool)
  /-- COC_OVERCAP (R123) -/
  | cocOvercap (mv : Nat)
  /-- COLLAPSE (R126) -/
  | collapse (mv : Nat)
  /-- SNAPSHOT_WRITE (R128) -/
  | snapshotWrite (bad : Option (BitVec 7))
  /-- DIODE_CONVERSION (R132) -/
  | diodeConversion (uv : Nat) (temp tempCal : Int)
  /-- THM_REMOTE_WRITE (R137) -/
  | thmRemoteWrite (p : Port) (r : Fin 8) (v : BitVec 16)
  /-- SRC_STALE (R139) -/
  | srcStale (r : Fin 8)
  /-- ALMSTAT_CLEAR (R142) -/
  | almstatClear (mask : Word)
  /-- SERVICE_SLOT_VERIFY (R152) -/
  | serviceSlotVerify (img : Option (List Byte))
  /-- MAILBOX_REQUEST (R155) -/
  | mailboxRequest (r : MbxReq)
  /-- HEARTBEAT_POST (R159) -/
  | heartbeatPost (v : Word)
  /-- AUTH_VERIFY (R162) -/
  | authVerify
  /-- STAGED_REGISTER_WRITE (R432) -/
  | stagedRegisterWrite (o : Origin) (off : Nat) (v : Word)
  /-- CHR_CTL_CHECK (R169) -/
  | chrCtlCheck (who : Sender)
  /-- CHR_CTL_COMMIT (R436) -/
  | chrCtlCommit (who : Sender)
  /-- CHR_CTL_DISCARD (R167) -/
  | chrCtlDiscard (who : Sender)
  /-- RECORD_WRITE (R178) -/
  | recordWrite (stream : StreamId) (bad : Option (BitVec 7))
  /-- JNL_READ_SELECT (R437) -/
  | jnlReadSelect (ofs : Bool) (v : Word)
  /-- LINK_UP (R189) -/
  | linkUp (p : Port) (rate : Fin 4) (x2 : Bool)
  /-- HOT_RESET (R193) -/
  | hotReset (p : Port)
  /-- DL_DOWN (R206) -/
  | dlDown (p : Port)
  /-- FAILOVER (R206) -/
  | failover (p : Port)
  /-- PERST_ASSERT (R474) -/
  | perstAssert (p : Port)
  /-- PME_TURN_OFF (R191) -/
  | pmeTurnOff (p : Port)
  /-- VI_ORPHAN (R204) -/
  | viOrphan (p : Port) (fn : Fin 17) (d3 : Bool)
  /-- VI_SERVED (R204) -/
  | viServed (p : Port) (fn : Fin 17) (cfg : FnCfg)
  /-- BAD_ACCESS (R200) -/
  | badAccess (p : Port) (fn : Fin 17) (bar2 : Bool) (off : BitVec 18) (kind : ReqKind)
  /-- UNBOUND_ACCESS (R201) -/
  | unboundAccess (p : Port) (v : Fin 16) (write : Bool)
  /-- INVALIDATION_REQUEST (R211) -/
  | invalidationRequest (p : Port) (fn : Fin 17) (pasid lo hi : Nat)
  /-- INVALIDATION_COMPLETE (R211) -/
  | invalidationComplete (p : Port) (fn : Fin 17)
  /-- TRANSLATION_FAULT (R212) -/
  | translationFault (g : PgFor) (addr : Nat) (write : Bool) 
  /-- PAGE_REQUEST_RESPONSE (R213) -/
  | pageRequestResponse (g : PgFor) (ok : Bool)
  /-- PRI_TIMEOUT (R213) -/
  | priTimeout (g : PgFor)
  /-- VF_FLR (R216) -/
  | vfFlr (p : Port) (v : Fin 16)
  /-- PF_FLR (R217) -/
  | pfFlr (p : Port)
  /-- SMB_UNSUPPORTED (R219) -/
  | smbUnsupported (cmd : Byte)
  /-- SET_ENDPOINT_ID (R220) -/
  | setEndpointId (eid : Byte) (pec : Bool)
  /-- GET_ENDPOINT_ID (R220) -/
  | getEndpointId (pec : Bool)
  /-- GET_MCTP_VERSION_SUPPORT (R220) -/
  | getMctpVersionSupport (ty : Byte) (pec : Bool)
  /-- GET_MESSAGE_TYPE_SUPPORT (R220) -/
  | getMessageTypeSupport (pec : Bool)
  /-- GET_VERSION (R221) -/
  | getVersion (c : Fin 3)
  /-- GET_CAPABILITIES (R221) -/
  | getCapabilities (c : Fin 3) (req : List Byte)
  /-- NEGOTIATE_ALGORITHMS (R221) -/
  | negotiateAlgorithms (c : Fin 3) (req : List Byte)
  /-- GET_DIGESTS (R221) -/
  | getDigests (c : Fin 3) (req : List Byte)
  /-- GET_CERTIFICATE (R221) -/
  | getCertificate (c : Fin 3) (req : List Byte)
  /-- CHALLENGE (R221) -/
  | challenge (c : Fin 3) (req : List Byte)
  /-- GET_MEASUREMENTS (R222) -/
  | getMeasurements (c : Fin 3) (req : List Byte)
  /-- SPDM_UNSUPPORTED (R221) -/
  | spdmUnsupported (c : Fin 3) (req : List Byte)
  /-- SMBCFG_WRITE (R454) -/
  | smbcfgWrite (p : Port) (v : Word)
  /-- RING_ENABLE (R226) -/
  | ringEnable (r : RingId)
  /-- RING_DISABLE (R226) -/
  | ringDisable (r : RingId)
  /-- RING_DRAINED (R226) -/
  | ringDrained (r : RingId)
  /-- SQ_DOORBELL (R227) -/
  | sqDoorbell (r : RingId) (v : Word)
  /-- CQ_DOORBELL (R232) -/
  | cqDoorbell (r : RingId) (v : Word)
  /-- ENTRY_FETCH (R228) -/
  | entryFetch (bytes : List Byte)
  /-- COALESCE_TIMEOUT (R234) -/
  | coalesceTimeout (r : RingId)
  /-- EV_DOORBELL (R455) -/
  | evDoorbell (v : Word)
  /-- EVSIZE_WRITE (R455) -/
  | evsizeWrite (v : Word)
  /-- NOP (R240) -/
  | nop (t : Tag)
  /-- IDENTIFY (R242) -/
  | identify (t : Tag)
  /-- GET_TIME (R240) -/
  | getTime (t : Tag)
  /-- ABORT (R244) -/
  | abort (t : Tag)
  /-- SET_EVMASK (R240) -/
  | setEvmask (t : Tag)
  /-- STAGE_WRITE (R241) -/
  | stageWrite (t : Tag)
  /-- STAGE_BULK (R241) -/
  | stageBulk (t : Tag) (data : List Byte)
  /-- STAGE_LIST (R240) -/
  | stageList (t : Tag)
  /-- CHECK (R169) -/
  | check (t : Tag)
  /-- COMMIT (R171) -/
  | commit (t : Tag)
  /-- DISCARD (R167) -/
  | discard (t : Tag)
  /-- GRANT_SET (R322) -/
  | grantSet (t : Tag)
  /-- POWER_ON (R55) -/
  | powerOn (t : Tag)
  /-- POWER_OFF (R67) -/
  | powerOff (t : Tag)
  /-- RAIL_RETRY (R61) -/
  | railRetry (t : Tag)
  /-- SWARM_CTL (R240) -/
  | swarmCtl (t : Tag)
  /-- QUIESCE (R332) -/
  | quiesce (t : Tag)
  /-- RESUME (R332) -/
  | resume (t : Tag)
  /-- HS_CLEAR (R108) -/
  | hsClear (t : Tag)
  /-- SNAPSHOT (R128) -/
  | snapshot (t : Tag)
  /-- STATE_REQ (R415) -/
  | stateReq (t : Tag)
  /-- SC_START (R263) -/
  | scStart (t : Tag)
  /-- SC_HALT (R243, R264) -/
  | scHalt (t : Tag) (same : Option SameStart)
  /-- SC_RESUME_AT (R263) -/
  | scResumeAt (t : Tag)
  /-- SC_SUSPEND (R264) -/
  | scSuspend (t : Tag) (same : Option SameStart)
  /-- SC_RESUME (R263) -/
  | scResume (t : Tag)
  /-- SC_STATUS (R240) -/
  | scStatus (t : Tag)
  /-- CCH_INVAL (R285) -/
  | cchInval (t : Tag)
  /-- CCH_DRAIN (R283) -/
  | cchDrain (t : Tag)
  /-- DC_START (R308) -/
  | dcStart (t : Tag)
  /-- DC_ABORT (R311) -/
  | dcAbort (t : Tag) (same : Option SameStart)
  /-- DC_SUSPEND (R309) -/
  | dcSuspend (t : Tag) (same : Option SameStart)
  /-- DC_RESUME (R308) -/
  | dcResume (t : Tag)
  /-- DC_STATUS (R309) -/
  | dcStatus (t : Tag)
  /-- BMV_RESTART (R315) -/
  | bmvRestart (t : Tag)
  /-- CARD_OPEN (R388) -/
  | cardOpen (t : Tag)
  /-- CARD_CLOSE (R392) -/
  | cardClose (t : Tag)
  /-- CARD_APDU (R390) -/
  | cardApdu (t : Tag) (data : List Byte)
  /-- CARD_EXCL (R391) -/
  | cardExcl (t : Tag)
  /-- CARD_ACTIVATE (R375) -/
  | cardActivate (t : Tag)
  /-- CARD_DEACTIVATE (R383) -/
  | cardDeactivate (t : Tag)
  /-- CARD_GET_ATR (R374) -/
  | cardGetAtr (t : Tag)
  /-- CARD_SELFTEST (R394) -/
  | cardSelftest (t : Tag) (res : BitVec 9)
  /-- LAMP_SET (R399) -/
  | lampSet (t : Tag)
  /-- LAMP_PATTERN (R399) -/
  | lampPattern (t : Tag)
  /-- LAMP_STATUS (R404) -/
  | lampStatus (t : Tag)
  /-- THM_READ (R240) -/
  | thmRead (t : Tag)
  /-- REMOTE_POST (R137) -/
  | remotePost (t : Tag)
  /-- ALARM_CLEAR (R142) -/
  | alarmClear (t : Tag)
  /-- DIODE_CLEAR (R136) -/
  | diodeClear (t : Tag)
  /-- ADC_CONVERT (R89) -/
  | adcConvert (t : Tag)
  /-- LEDGER_READ (R240) -/
  | ledgerRead (t : Tag)
  /-- LOG_READ (R188) -/
  | logRead (t : Tag) (more : Bool)
  /-- LOG_BOUNDS (R188) -/
  | logBounds (t : Tag)
  /-- FW_WRITE (R331) -/
  | fwWrite (t : Tag) (data : List Byte) (err : Option DevErr) (more : Bool)
  /-- FW_ERASE (R331) -/
  | fwErase (t : Tag) (err : Option DevErr) (more : Bool)
  /-- FW_VERIFY (R151) -/
  | fwVerify (t : Tag) (img : Option (List Byte))
  /-- FW_PREFER (R152) -/
  | fwPrefer (t : Tag)
  /-- FW_ACTIVATE (R240) -/
  | fwActivate (t : Tag)
  /-- FW_COMMIT (R154) -/
  | fwCommit (t : Tag)
  /-- PATCH_LOAD (R151) -/
  | patchLoad (t : Tag) (img : List Byte)
  /-- AUTH_OPEN (R162) -/
  | authOpen (t : Tag)
  /-- AUTH_CLOSE (R163) -/
  | authClose (t : Tag)
  /-- AUTH_STATUS (R240) -/
  | authStatus (t : Tag)
  /-- KEY_SET (R161) -/
  | keySet (t : Tag) (data : List Byte)
  /-- KEY_REVOKE (R161) -/
  | keyRevoke (t : Tag)
  /-- MEASURE (R222) -/
  | measure (t : Tag)
  /-- ECHO (R240) -/
  | echo (t : Tag)
  /-- ADC_CAL (R39) -/
  | adcCal (t : Tag)
  /-- MRAM_BIST (R418) -/
  | mramBist (t : Tag)
  /-- SC_DOORBELL (R263) -/
  | scDoorbell (who : Sender) (n : Fin 32)
  /-- CCE_FETCH (R251) -/
  | cceFetch (n : Fin 32)
  /-- CCE_NOP (R252) -/
  | cceNop (n : Fin 32)
  /-- CCE_WAIT (R48, R258): does it start in phase 1 of the frame's tick? -/
  | cceWait (n : Fin 32) (ph1 : Bool)
  /-- WAIT_END (R258) -/
  | waitEnd (n : Fin 32)
  /-- CCE_POST (R259) -/
  | ccePost (n : Fin 32)
  /-- CCE_JUMP (R257) -/
  | cceJump (n : Fin 32)
  /-- CCE_WRITE (R250) -/
  | cceWrite (n : Fin 32)
  /-- CCE_READ (R250) -/
  | cceRead (n : Fin 32)
  /-- CCE_CONTROL (R250) -/
  | cceControl (n : Fin 32)
  /-- CCE_SENSE (R351) -/
  | cceSense (n : Fin 32) (lv : Nat)
  /-- PORT_BURST (R347) -/
  | portBurst (x : Fin 13) (b : BurstIn)
  /-- CHAIN_CACHE_FILL (R276) -/
  | chainCacheFill (bytes : List Byte) (err : Bool)
  /-- DC_DOORBELL (R306) -/
  | dcDoorbell (who : Sender) (n : Fin 16) (v : Word)
  /-- DESCRIPTOR_FETCH (R297) -/
  | descriptorFetch (n : Fin 16) (bytes : List Byte)
  /-- BMV_BURST_READ (R298) -/
  | bmvBurstRead (n : Fin 16) (data : List Byte) (err : Bool)
  /-- WRITE_RESPONSE (R302) -/
  | writeResponse (n : Fin 16) (ok : Bool)
  /-- BMV_ENGINE_STOP (R314) -/
  | bmvEngineStop (n : Fin 16) (timeout : Bool)
  /-- FLASH_BUSY_TIMEOUT (R362) -/
  | flashBusyTimeout (x : Fin 2)
  /-- AS_CHARACTER_RECEIVED (R364) -/
  | asCharacterReceived (x : Fin 2) (c : Byte) (bad brk : Bool)
  /-- AS_READ_IDLE_END (R364) -/
  | asReadIdleEnd (x : Fin 2)
  /-- IBI_RECEIVED (R357) -/
  | ibiReceived (x : Fin 2) (addr : BitVec 7) (payload : Byte)
  /-- DP_HOTJOIN (R357) -/
  | dpHotjoin (x : Fin 2) (addr : Nat)
  /-- GPIO_EDGE (R365) -/
  | gpioEdge (g : Fin 32) (high : Bool)
  /-- SFDP_DISCOVERY (R360) -/
  | sfdpDiscovery (c : Fin 4) (words : Option (List Word)) (badWord : Nat)
  /-- CARD_INSERT (R386) -/
  | cardInsert (p : Fin 2)
  /-- CARD_EMERGENCY (R384) -/
  | cardEmergency (p : Fin 2)
  /-- CARD_SUPPLY_FAULT (R371) -/
  | cardSupplyFault (p : Fin 2) (short : Bool)
  /-- CARD_ATR (R374) -/
  | cardAtr (p : Fin 2) (chars : List Byte) (parity gap : Bool)
  /-- CARD_ATR_WINDOW_END (R372) -/
  | cardAtrWindowEnd (p : Fin 2)
  /-- CARD_CLASS_NEXT (R373) -/
  | cardClassNext (p : Fin 2)
  /-- CARD_PPS_RESPONSE (R378) -/
  | cardPpsResponse (p : Fin 2) (resp : Option (List Byte))
  /-- CARD_WAIT_TIMEOUT (R381) -/
  | cardWaitTimeout (p : Fin 2)
  /-- CARD_CLOCK_STOP (R382) -/
  | cardClockStop (p : Fin 2)
  /-- CARD_EXCL_EXPIRED (R391) -/
  | cardExclExpired (p : Fin 2)
  /-- LAMP_DIAG_SAMPLE (R402) -/
  | lampDiagSample (c : Fin 8) (ua mv : Nat)
  /-- LAMP_DIAG_STALE (R404) -/
  | lampDiagStale (c : Fin 8)
  /-- LAMP_CLR (R405) -/
  | lampClr (c : Fin 8)
  /-- COLD_RESET (R408) -/
  | coldReset (c : ColdIn)
  /-- WAKE_EVENT (R417) -/
  | wakeEvent (src : Fin 5)
  /-- TAMPER (R419) -/
  | tamper (high : Bool)
  /-- REGISTER_WRITE (R7) -/
  | registerWrite (who : Sender) (off : Nat) (v : Word)
  /-- CORE_STARTED (R150) -/
  | coreStarted (cfgOk itemOk : Bool) (vdd08 vio18 vio33 : Nat)
  /-- COMPLETION_TIMEOUT (R313) -/
  | completionTimeout (g : PgFor) (addr : Nat)
  /-- CARD_SUPPLY_SETTLED (R372) -/
  | cardSupplySettled (p : Fin 2)
  /-- CARD_RST_RELEASE (R372) -/
  | cardRstRelease (p : Fin 2)
  /-- CARD_RESPONSE_RECEIVED (R390) -/
  | cardResponseReceived (p : Fin 2) (chars : List Byte) (parity : Bool)
  /-- PB_BUS_IDLE (R354) -/
  | pbBusIdle (x : Fin 6)
  /-- AS_CTS_CHANGE (R363) -/
  | asCtsChange (x : Fin 2) (high : Bool)
  /-- CAPTURE_READ (R433) -/
  | captureRead (fn : ReadFn) (pr : CapPair)
  /-- SENTINEL_WATCHDOG_EXPIRE (R46) -/
  | sentinelWatchdogExpire
  /-- XTAL_FAIL (R30) -/
  | xtalFail
  /-- XTAL_RESTORED (R30) -/
  | xtalRestored
  /-- FRAME_WRAP (R35) -/
  | frameWrap
  /-- OVR_CLR (R44) -/
  | ovrClr
  /-- PHMAX_CLR (R47) -/
  | phmaxClr
  /-- SEQUENCE_START (R55) -/
  | sequenceStart
  /-- RAIL_ENABLE (R57) -/
  | railEnable
  /-- RISE_TIMEOUT (R59) -/
  | riseTimeout
  /-- COOL_DOWN_END (R60) -/
  | coolDownEnd
  /-- RAIL_DEASSERT (R64) -/
  | railDeassert
  /-- FALL_TIMEOUT (R66) -/
  | fallTimeout
  /-- SWARM_ADVANCE (R72) -/
  | swarmAdvance
  /-- SWARM_CATCHUP (R85) -/
  | swarmCatchup
  /-- SWARM_RESYNC (R77) -/
  | swarmResync
  /-- SWARM_INVALID_PULSE (R72) -/
  | swarmInvalidPulse
  /-- JOIN_TIMEOUT (R81) -/
  | joinTimeout
  /-- NOBEACON (R83) -/
  | nobeacon
  /-- SWARM_RELEASE (R74) -/
  | swarmRelease
  /-- LEADER_ADVANCE_PULSE (R76) -/
  | leaderAdvancePulse
  /-- LEADER_RESYNC_PULSE (R77) -/
  | leaderResyncPulse
  /-- LEADER_BEACON_SEND (R78) -/
  | leaderBeaconSend
  /-- SWARM_STUCK (R80) -/
  | swarmStuck
  /-- SWCTL_RESYNC (R77) -/
  | swctlResync
  /-- SWCTL_REJOIN (R84) -/
  | swctlRejoin
  /-- PFW_LEAD_END (R96) -/
  | pfwLeadEnd
  /-- BUSBAR_PRESENT (R103) -/
  | busbarPresent
  /-- BUSBAR_ABSENT (R103) -/
  | busbarAbsent
  /-- HS_CHARGE_START (R104) -/
  | hsChargeStart
  /-- HS_FULLY_ENHANCED (R104) -/
  | hsFullyEnhanced
  /-- INRUSH_TMO (R104) -/
  | inrushTmo
  /-- OVERCURRENT (R105) -/
  | overcurrent
  /-- HSCTL_CLR (R108) -/
  | hsctlClr
  /-- RIDE_THROUGH_END (R114) -/
  | rideThroughEnd
  /-- DISCHARGE_START (R118) -/
  | dischargeStart
  /-- DIS_FAIL (R120) -/
  | disFail
  /-- ON_COCOON (R125) -/
  | onCocoon
  /-- THM_FAIL_CLR (R136) -/
  | thmFailClr
  /-- RESERVATION_LAPSE (R321) -/
  | reservationLapse
  /-- LOCKSTEP_MISMATCH (R149) -/
  | lockstepMismatch
  /-- CORE_START_TIMEOUT (R21) -/
  | coreStartTimeout
  /-- SLOT_TIMEOUT (R152) -/
  | slotTimeout
  /-- MAILBOX_SERVE (R156) -/
  | mailboxServe
  /-- HEARTBEAT_LOST (R160) -/
  | heartbeatLost
  /-- HB_RESTARTS_CLEAR (R160) -/
  | hbRestartsClear
  /-- AUTH_ATTEMPT_TIMEOUT (R162) -/
  | authAttemptTimeout
  /-- AUTH_EXPIRE (R163) -/
  | authExpire
  /-- AUTH_LOCK_END (R164) -/
  | authLockEnd
  /-- COMMIT_TAKE (R171) -/
  | commitTake
  /-- COMMIT_APPLY (R172) -/
  | commitApply
  /-- SMB_IDENTITY (R219) -/
  | smbIdentity
  /-- SMB_POWER_STATE (R219) -/
  | smbPowerState
  /-- SMB_SEQ_STATE (R219) -/
  | smbSeqState
  /-- SMB_ENERGY (R219) -/
  | smbEnergy
  /-- SMB_THERMAL (R219) -/
  | smbThermal
  /-- SMB_TIMESTAMP (R219) -/
  | smbTimestamp
  /-- SMB_FAULTS (R219) -/
  | smbFaults
  /-- SMB_LAST_EVENT (R219) -/
  | smbLastEvent
  /-- FETCH_BUS_ERROR (R228) -/
  | fetchBusError
  /-- STORE_DRAIN (R281) -/
  | storeDrain
  /-- CCH_INVAL_ALL (R285) -/
  | cchInvalAll
  /-- CCH_CTL_DRAIN (R285) -/
  | cchCtlDrain
  /-- CCH_CNT_CLR (R458) -/
  | cchCntClr
  /-- BMV_BURST_GRANT (R300) -/
  | bmvBurstGrant
  /-- DOMAIN_POWER_DOWN (R334) -/
  | domainPowerDown
  /-- DOMAIN_DEADLINE (R336) -/
  | domainDeadline
  /-- CORE_POWER_LOSS (R341) -/
  | corePowerLoss
  /-- LAMP_PERIOD_START (R398) -/
  | lampPeriodStart
  /-- RESET_N_LOW (R410) -/
  | resetNLow
  /-- RESET_N_LONG (R410) -/
  | resetNLong
  /-- RST_CTL_WARM (R408) -/
  | rstCtlWarm
  /-- RST_CTL_CORE (R408) -/
  | rstCtlCore
  /-- WARM_ADOPT (R412) -/
  | warmAdopt
  /-- VAULT_ENTER (R419) -/
  | vaultEnter
  /-- VAULT_WAKE (R419) -/
  | vaultWake
  /-- VBAT_LOSS (R34) -/
  | vbatLoss
  /-- VBAT_FITTED (R34) -/
  | vbatFitted
  /-- RTC_CRYSTAL_STOP (R33) -/
  | rtcCrystalStop
  /-- SWARM_BEACON_GAP (R78) -/
  | swarmBeaconGap
  /-- RESET_N_RELEASE (R410) -/
  | resetNRelease
  deriving DecidableEq, Repr

end Sys2Proof
end

