-- ==== Sys2Proof/Decode.lean ====
section
/-!
DEFINITION. The reading of a word as a command. The table gives no row any bits: commands come from outside as they are, so no
word spells one.
-/

namespace Sys2Proof

/-- The command that a word spells by the bits of spec/opcode_table.json: none, since no row has bits.
(Log: DESIGN CHOICE 1) -/
def decodeTableWord (_nbits _w : Nat) : Option Instr := none

end Sys2Proof
end

