-- ==== Sys2Proof/Config.lean ====
section
/-!
DEFINITION. What an implementation fixes and the spec leaves open: constants without a body.
-/

namespace Sys2Proof.Config

/-- Whether an inexact quotient `n / d` is rounded up, where the spec states no rounding.
(Log: DESIGN CHOICE 14) -/
opaque roundUp : Nat → Nat → Bool

/-- The same for a signed numerator.
(Log: DESIGN CHOICE 14) -/
opaque roundUpInt : Int → Nat → Bool

/-- The subframe position of the `k`-th stamp taken by the machine (R5, R51 bound it, nothing fixes it).
(Log: DESIGN CHOICE 6, 65) -/
opaque freeSub : Nat → BitVec 10

/-- Whether a higher FRM_TRIM.STEP makes the AON clock faster (R27).
(Log: DESIGN CHOICE 17) -/
opaque trimFaster : Bool

/-- FRM_TRIM.STEP after a step past its upper (`true`) or lower end (R27).
(Log: DESIGN CHOICE 17) -/
opaque trimEnd : Bool → BitVec 8

/-- The current in mA that a 12-bit code of an IS input means: no rule scales these inputs (R89).
(Log: DESIGN CHOICE 158) -/
opaque isMa : BitVec 12 → BitVec 16

/-- The value of argument `i` of event record `code` where the spec names none.
(Log: DESIGN CHOICE 12) -/
opaque recordArg : Nat → Nat → BitVec 64

/-- JNL_RDSTAT.STATE for a SEQ newer than the newest record, which R179 does not name.
(Log: DESIGN CHOICE 68) -/
opaque jnlMissing : BitVec 3

/-- The 32-byte nonce of the `k`-th challenge, from the random source (R162).
(Log: DESIGN CHOICE 100) -/
opaque nonce : Nat → BitVec 256

/-- The real-time clock's count at the `k`-th moment it is latched in VAULT, where no frame is counted (R419).
(Log: DESIGN CHOICE 23) -/
opaque rtcCount : Nat → BitVec 48

/-- The trigger cause of a snapshot taken when the busbar is judged lost, a trigger without an event code (R128, R185).
(Log: DEDUCED 48) -/
opaque lostCause : BitVec 16

/-- The `k`-th register value that the spec does not state: a quantity outside its register's format.
(Log: DESIGN CHOICE 15, 65) -/
opaque freeWord : Nat → BitVec 32

/-- The outcome of the `k`-th MRAM test where no word had an error before it: the offset of a failing word, or a pass (R418).
(Log: DEDUCED 94) -/
opaque bist : Nat → Option (BitVec 24)

/-- Which write the `k`-th collapse stops: none, or the front record of the journal, the log or the snapshots; and how many
words of its header and body had been written (R127).
(Log: DESIGN CHOICE 52) -/
opaque cutWrite : Nat → BitVec 2
opaque cutWords : Nat → BitVec 10

/-- Which of the translation cache's 255 entries that are not the one used last the `k`-th replacement takes (R210: pseudo-LRU).
(Log: DESIGN CHOICE 172) -/
opaque atcVictim : Nat → BitVec 8

/-- What the byte at an MRAM offset reads as in a word with an uncorrectable error (R176).
(Log: DESIGN CHOICE 167) -/
opaque eccByte : Nat → BitVec 8

/-- The calibration block to which an MRAM word belongs (R426, Table 18-6).
(Log: DESIGN CHOICE 168) -/
opaque calBlock : Nat → BitVec 32

/-- The number by which the argument of event record `code` names alternative `alt`, where the spec names the alternatives
and gives them no numbers.
(Log: DESIGN CHOICE 13, 13) -/
opaque argCode : Nat → Nat → BitVec 32

/-- The version entry the MCTP endpoint reports for a message type (R220).
(Log: PRESUMED 120) -/
opaque mctpVersion : BitVec 8 → BitVec 32

/-- What CAPABILITIES reports beside its flags: CTExponent, DataTransferSize, MaxSPDMmsgSize (R221).
(Log: PRESUMED 120) -/
opaque spdmCap : Nat → BitVec 32

/-- The certificate chain of slot 0 (R221).
(Log: PRESUMED 120) -/
opaque certChain : List (BitVec 8)

/-- The bytes of Sentinel's mask ROM (R222).
(Log: DEDUCED 122) -/
opaque romImage : List (BitVec 8)

/-- The nonce and the signature of the `k`-th signed SPDM response (R222).
(Log: PRESUMED 120) -/
opaque spdmNonce : Nat → BitVec 256
opaque spdmSig : Nat → BitVec 768

end Sys2Proof.Config
end

