-- ==== Sys2Proof/Machine/Bits.lean ====
section
/-!
DEFINITION. Bit fields, byte order, sparse cells in canonical form, CRC-8, CRC-32 and the arithmetic shared by every block.
-/

namespace Sys2Proof.Machine

/-! ## Bit fields -/

/-- The field of `w` bits at bit `lo` of a 32-bit word. -/
def fieldOf (x : Word) (lo w : Nat) : Nat := x.toNat / 2 ^ lo % 2 ^ w

/-- The mask of a field of `w` bits at bit `lo`. -/
def fieldMask (lo w : Nat) : Word := BitVec.ofNat 32 ((2 ^ w - 1) * 2 ^ lo)

/-- `x` with the field of `w` bits at bit `lo` set to `v` (the bits of `v` above the field are dropped). -/
def withField (x : Word) (lo w v : Nat) : Word :=
  (x &&& ~~~ fieldMask lo w) ||| BitVec.ofNat 32 ((v % 2 ^ w) * 2 ^ lo)

/-- Bit `i` of a number. -/
def bitOf (n i : Nat) : Bool := n / 2 ^ i % 2 == 1

/-- `n` with bit `i` set to `b`. -/
def setBit (n i : Nat) (b : Bool) : Nat :=
  if bitOf n i == b then n else if b then n + 2 ^ i else n - 2 ^ i

/-- The number of ones among the low `k` bits of `n`. -/
def popCount (n : Nat) : Nat → Nat
  | 0 => 0
  | k + 1 => (if bitOf n k then 1 else 0) + popCount n k

/-- The signed value of the low `w` bits of `n` (two's complement). -/
def signedOf (w n : Nat) : Int :=
  let m := n % 2 ^ w
  if m < 2 ^ (w - 1) then (m : Int) else (m : Int) - (2 : Int) ^ w

/-- The two's complement encoding of `v` in `w` bits. -/
def encSigned (w : Nat) (v : Int) : Nat := (v % ((2 : Int) ^ w)).toNat

/-- One for true. -/
def b2n (b : Bool) : Nat := if b then 1 else 0

/-- A counter that saturates at its all-ones value of `w` bits (R430). -/
def satInc (w n : Nat) : Nat := if n + 1 < 2 ^ w then n + 1 else 2 ^ w - 1

/-- `n` limited to the all-ones value of `w` bits. -/
def satTo (w n : Nat) : Nat := if n < 2 ^ w then n else 2 ^ w - 1

/-- Division whose rounding the spec does not state: exact where it is exact, otherwise one of the two neighbours.
(Log: DESIGN CHOICE 14) -/
def divU (n d : Nat) : Nat :=
  if n % d = 0 then n / d else n / d + b2n (Config.roundUp n d)

/-- The signed form of `divU`: the rounding of a quotient that is not whole is left open. -/
def divUInt (n : Int) (d : Nat) : Int :=
  if n % (d : Int) = 0 then n / (d : Int) else n / (d : Int) + b2n (Config.roundUpInt n d)

/-! ## Byte order (little-endian, R6) -/

/-- The `k` low bytes of `n`, least significant first. -/
def leBytes : Nat → Nat → List Byte
  | 0, _ => []
  | k + 1, n => BitVec.ofNat 8 n :: leBytes k (n / 256)

/-- The number whose bytes are given least significant first. -/
def leNat : List Byte → Nat
  | [] => 0
  | b :: bs => b.toNat + 256 * leNat bs

/-- `k` bytes of `bs` from offset `o`, as a little-endian number. -/
def leAt (bs : List Byte) (o k : Nat) : Nat := leNat ((bs.drop o).take k)

/-- A list of zero bytes. -/
def zeros (k : Nat) : List Byte := List.replicate k 0

/-- `bs` padded with zeros, or cut, to `k` bytes. -/
def fitTo (k : Nat) (bs : List Byte) : List Byte := (bs ++ zeros (k - bs.length)).take k

/-! ## Check codes -/

/-- One byte into a CRC-8 with polynomial 0x07, high bit first. -/
def crc8Bit : Nat → Nat → Nat
  | 0, c => c
  | k + 1, c => crc8Bit k (if c / 128 % 2 = 1 then ((c * 2) % 256) ^^^ 7 else (c * 2) % 256)

/-- CRC-8 with polynomial 0x07, from a value. -/
def crc8On (c : Nat) (bs : List Byte) : Nat := bs.foldl (fun c b => crc8Bit 8 (c ^^^ b.toNat)) c

/-- CRC-8 with polynomial 0x07 and initial value 0 (R218, R250). -/
def crc8 (bs : List Byte) : Nat := crc8On 0 bs

/-- Eight bits of the reflected CRC-32. -/
def crc32Bit : Nat → Nat → Nat
  | 0, c => c
  | k + 1, c => crc32Bit k (if c % 2 = 1 then (c / 2) ^^^ 0xEDB88320 else c / 2)

/-- CRC-32 of Table 7-4: polynomial 0x04C1_1DB7 reflected, initial 0xFFFF_FFFF, final inversion. -/
def crc32 (bs : List Byte) : Nat :=
  (bs.foldl (fun c b => crc32Bit 8 (c ^^^ b.toNat)) 0xFFFFFFFF) ^^^ 0xFFFFFFFF

/-! ## Sparse cells: keys strictly rising, no entry equal to what an unlisted key reads as -/

/-- What key `k` holds; `d` says what an unlisted key reads as. -/
def cellGet {α : Type} (d : Nat → α) : List (Nat × α) → Nat → α
  | [], k => d k
  | (k', v) :: l, k => if k = k' then v else if k < k' then d k else cellGet d l k

/-- Puts `v` at key `k`, whatever `v` is. -/
def cellIns {α : Type} (k : Nat) (v : α) : List (Nat × α) → List (Nat × α)
  | [] => [(k, v)]
  | (k', v') :: l =>
    if k < k' then (k, v) :: (k', v') :: l
    else if k = k' then (k, v) :: l
    else (k', v') :: cellIns k v l

/-- Removes key `k`. -/
def cellDel {α : Type} (k : Nat) : List (Nat × α) → List (Nat × α)
  | [] => []
  | (k', v') :: l =>
    if k < k' then (k', v') :: l
    else if k = k' then l
    else (k', v') :: cellDel k l

/-- Writes `v` at key `k` and keeps the canonical form. -/
def cellSet {α : Type} [DecidableEq α] (d : Nat → α) (l : List (Nat × α)) (k : Nat) (v : α) :
    List (Nat × α) :=
  if v = d k then cellDel k l else cellIns k v l

/-- The keys rise strictly. -/
def cellSorted {α : Type} : List (Nat × α) → Bool
  | [] => true
  | [_] => true
  | (k, _) :: (k', v') :: l => decide (k < k') && cellSorted ((k', v') :: l)

/-- The canonical form of a list of cells. -/
def cellWf {α : Type} [DecidableEq α] (d : Nat → α) (l : List (Nat × α)) : Bool :=
  cellSorted l && l.all (fun c => decide (c.2 ≠ d c.1))

/-! ## Lists as fixed tables -/

/-- `l` with its entry `i` changed by `f` (nothing changes beyond the end). -/
def modAt {α : Type} (l : List α) (i : Nat) (f : α → α) : List α := l.modify i f

/-- Keeps the first `some`. -/
def orSome {α : Type} : Option α → Option α → Option α
  | some a, _ => some a
  | none, b => b

end Sys2Proof.Machine
end

