-- ==== Sys2Proof/Machine/Regs.lean ====
section
/-!
DEFINITION. The register map: where each field lies, its access code, Held-to code, domain, range and Reset value
(Tables 9-2, 19-1 to 19-13, 20-1 to 20-11). One list of rows per block, and one named field reference per field.
-/

namespace Sys2Proof.Machine

/-- Field access codes (R7, Table 0-4). -/
inductive Acc where
  | ro | rw | rw1c | w1s | wo | sto | stw | stp | fix
  deriving DecidableEq, Repr

/-- Held-to codes (R12, Table 0-5). -/
inductive Held where
  | nv | bat | warm | core | link | vi | none
  deriving DecidableEq, Repr

/-- The clock domain that holds a field (R17, R451). -/
inductive Dom where
  | aon | core
  deriving DecidableEq, Repr

/-- Which encodings of a field rules 2 and 3 of Table 7-1 accept. -/
inductive Chk where
  /-- every encoding -/
  | any
  /-- a range table of the chapters gives `lo` to `hi` (rule 3) -/
  | range (lo hi : Nat)
  /-- encodings above `m` are reserved (rule 2) -/
  | maxCode (m : Nat)
  /-- an owner byte: 0-15 a VI, 16 the Owner, 0xFF nobody; others reserved (R292, R365) -/
  | owner
  /-- a 13-bit temperature between -40.0 and +150.0 degrees (rule 3, R131) -/
  | temp
  /-- a lamp channel 0-7, or 15 for none (R407) -/
  | lamp
  deriving DecidableEq, Repr

/-- One field of a register row. -/
structure RField where
  lo   : Nat
  w    : Nat
  rst  : Nat
  acc  : Acc
  held : Held
  dom  : Dom
  chk  : Chk
  deriving DecidableEq, Repr

/-- One row of a register table: `cnt` registers from `base`, `stride` bytes apart. -/
structure RReg where
  base   : Nat
  cnt    : Nat
  stride : Nat
  fields : List RField
  deriving DecidableEq, Repr

/-- Where one field lies in the register file. -/
structure FRef where
  off : Nat
  lo  : Nat
  w   : Nat
  deriving DecidableEq, Repr

/-! ## GLB (Table 19-1) -/

abbrev GLB_DEVID_VENDOR : FRef := ⟨0x0, 0, 16⟩
abbrev GLB_DEVID_DEVICE : FRef := ⟨0x0, 16, 16⟩
abbrev GLB_OPTION_REV : FRef := ⟨0x4, 0, 8⟩
abbrev GLB_OPTION_VARIANT : FRef := ⟨0x4, 8, 2⟩
abbrev GLB_STATUS_AUTONOMOUS : FRef := ⟨0x8, 0, 1⟩
abbrev GLB_STATUS_CAL_FAIL : FRef := ⟨0x8, 1, 1⟩
abbrev GLB_STATUS_SVC_RUN : FRef := ⟨0x8, 2, 1⟩
abbrev GLB_STATUS_AUTH_OPEN : FRef := ⟨0x8, 3, 1⟩
abbrev GLB_AUTOCAUSE_CAUSE : FRef := ⟨0xC, 0, 2⟩
abbrev GLB_AUTOCAUSE_FRAME : FRef := ⟨0xC, 8, 24⟩
abbrev GLB_SERIAL_BYTES (i : Nat) : FRef := ⟨0x10 + 4 * i, 0, 32⟩
abbrev GLB_SUBSYS_SVID : FRef := ⟨0x20, 0, 16⟩
abbrev GLB_SUBSYS_SSID : FRef := ⟨0x20, 16, 16⟩

/-! ## FRM (Table 19-2) -/

abbrev FRM_CTL_OVR_CLR : FRef := ⟨0x1000, 0, 1⟩
abbrev FRM_CTL_PHMAX_CLR : FRef := ⟨0x1000, 1, 1⟩
abbrev FRM_STATUS_LOCKED : FRef := ⟨0x1004, 0, 1⟩
abbrev FRM_STATUS_XTAL_FAIL : FRef := ⟨0x1004, 1, 1⟩
abbrev FRM_TS_LO_TS : FRef := ⟨0x1008, 0, 32⟩
abbrev FRM_TS_HI_TS : FRef := ⟨0x100C, 0, 32⟩
abbrev FRM_TRIM_STEP : FRef := ⟨0x1010, 0, 8⟩
abbrev FRM_TRIM_ERR : FRef := ⟨0x1010, 16, 16⟩
abbrev FRM_OVRCNT_COUNT : FRef := ⟨0x1014, 0, 16⟩
abbrev FRM_OVRSTAT0_FRAME : FRef := ⟨0x1018, 0, 32⟩
abbrev FRM_OVRSTAT1_FRAMEHI : FRef := ⟨0x101C, 0, 8⟩
abbrev FRM_OVRSTAT1_PHASE : FRef := ⟨0x101C, 8, 3⟩
abbrev FRM_PHASEMAX_CYCLES (i : Nat) : FRef := ⟨0x1020 + 4 * i, 0, 16⟩
abbrev FRM_WRAPCNT_COUNT : FRef := ⟨0x1038, 0, 8⟩
abbrev FRM_VIPTR_PTR : FRef := ⟨0x103C, 0, 4⟩

/-! ## CHR (Table 19-3) -/

abbrev CHR_CTL_CHECK : FRef := ⟨0x2000, 0, 1⟩
abbrev CHR_CTL_COMMIT : FRef := ⟨0x2000, 1, 1⟩
abbrev CHR_CTL_DISCARD : FRef := ⟨0x2000, 2, 1⟩
abbrev CHR_STGSTAT_COUNT : FRef := ⟨0x2004, 0, 9⟩
abbrev CHR_STGSTAT_FULL : FRef := ⟨0x2004, 9, 1⟩
abbrev CHR_STGSTAT_LATE : FRef := ⟨0x2004, 16, 16⟩
abbrev CHR_STGSEL_SLOT : FRef := ⟨0x2008, 0, 8⟩
abbrev CHR_STGSEL_PART : FRef := ⟨0x2008, 8, 1⟩
abbrev CHR_STGREG_OFFSET : FRef := ⟨0x200C, 0, 16⟩
abbrev CHR_STGREG_INUSE : FRef := ⟨0x200C, 31, 1⟩
abbrev CHR_STGVAL_VALUE : FRef := ⟨0x2010, 0, 32⟩
abbrev CHR_CHKSTAT_RESULT : FRef := ⟨0x2014, 0, 2⟩
abbrev CHR_CHKSTAT_RULE : FRef := ⟨0x2014, 8, 8⟩
abbrev CHR_CHKSTAT_SUBJECT : FRef := ⟨0x2014, 16, 16⟩
abbrev CHR_CMTSTAT_STATUS : FRef := ⟨0x2018, 0, 8⟩
abbrev CHR_CMTSTAT_RULE : FRef := ⟨0x2018, 8, 8⟩
abbrev CHR_CMTSTAT_SUBJECT : FRef := ⟨0x2018, 16, 16⟩
abbrev CHR_CMTSEQ_SEQ : FRef := ⟨0x201C, 0, 32⟩

/-! ## JNL (Table 19-4) -/

abbrev JNL_RDSEL0_SEQ : FRef := ⟨0x3000, 0, 32⟩
abbrev JNL_RDSEL1_STREAM : FRef := ⟨0x3004, 0, 2⟩
abbrev JNL_RDOFS_WINDOW : FRef := ⟨0x3008, 0, 7⟩
abbrev JNL_RDSTAT_STATE : FRef := ⟨0x300C, 0, 3⟩
abbrev JNL_RDSTAT_BUSY : FRef := ⟨0x300C, 7, 1⟩
abbrev JNL_RDSTAT_LEN : FRef := ⟨0x300C, 16, 13⟩
abbrev JNL_FIRST_SEQ (i : Nat) : FRef := ⟨0x3010 + 4 * i, 0, 32⟩
abbrev JNL_LAST_SEQ (i : Nat) : FRef := ⟨0x3020 + 4 * i, 0, 32⟩
abbrev JNL_EVDROP_COUNT : FRef := ⟨0x3030, 0, 16⟩
abbrev JNL_RDDATA_BYTES (i : Nat) : FRef := ⟨0x3040 + 4 * i, 0, 32⟩

/-! ## SNT (Table 19-5) -/

abbrev SNT_BOOTCFG_PREF : FRef := ⟨0x3800, 0, 1⟩
abbrev SNT_BOOTSTAT0_SLOT : FRef := ⟨0x3804, 0, 1⟩
abbrev SNT_BOOTSTAT0_RAN : FRef := ⟨0x3804, 1, 1⟩
abbrev SNT_BOOTSTAT0_SVN : FRef := ⟨0x3804, 8, 6⟩
abbrev SNT_BOOTSTAT0_FAIL_A : FRef := ⟨0x3804, 16, 4⟩
abbrev SNT_BOOTSTAT0_FAIL_B : FRef := ⟨0x3804, 20, 4⟩
abbrev SNT_BOOTSTAT1_BUILD_ID : FRef := ⟨0x3808, 0, 32⟩
abbrev SNT_BOOTSTAT2_BUILD_ID : FRef := ⟨0x380C, 0, 32⟩
abbrev SNT_PATCHSTAT_NONE : FRef := ⟨0x3810, 0, 1⟩
abbrev SNT_PATCHSTAT_RUN : FRef := ⟨0x3810, 1, 1⟩
abbrev SNT_PATCHSTAT_REJECT : FRef := ⟨0x3810, 2, 1⟩
abbrev SNT_PATCHSTAT_CAUSE : FRef := ⟨0x3810, 4, 4⟩
abbrev SNT_PATCHSTAT_SVN : FRef := ⟨0x3810, 8, 6⟩
abbrev SNT_ROLLBACK_SVC : FRef := ⟨0x3814, 0, 6⟩
abbrev SNT_ROLLBACK_PATCH : FRef := ⟨0x3814, 8, 6⟩
abbrev SNT_MBXSTAT_BUSY : FRef := ⟨0x3818, 0, 8⟩
abbrev SNT_MBXSTAT_LAST : FRef := ⟨0x3818, 8, 8⟩
abbrev SNT_MBXSTAT_REFUSED : FRef := ⟨0x3818, 16, 16⟩
abbrev SNT_DENYCNT_COUNT : FRef := ⟨0x381C, 0, 32⟩
abbrev SNT_HEARTBEAT_VALUE : FRef := ⟨0x3820, 0, 32⟩
abbrev SNT_HBCFG_PERIOD : FRef := ⟨0x3824, 0, 10⟩
abbrev SNT_HBCFG_LIMIT : FRef := ⟨0x3824, 16, 3⟩
abbrev SNT_HBSTAT_RESTARTS : FRef := ⟨0x3828, 0, 3⟩
abbrev SNT_HBSTAT_BADCNT : FRef := ⟨0x3828, 16, 16⟩
abbrev SNT_SVCKEY_VALID (i : Nat) : FRef := ⟨0x3830 + 4 * i, 0, 1⟩
abbrev SNT_SVCKEY_REVOKED (i : Nat) : FRef := ⟨0x3830 + 4 * i, 1, 1⟩
abbrev SNT_SVCKEY_KEYID (i : Nat) : FRef := ⟨0x3830 + 4 * i, 16, 16⟩
abbrev SNT_AUTHCFG_WINDOW : FRef := ⟨0x3840, 0, 9⟩
abbrev SNT_AUTHSTAT0_OPEN : FRef := ⟨0x3844, 0, 1⟩
abbrev SNT_AUTHSTAT0_KEY : FRef := ⟨0x3844, 1, 2⟩
abbrev SNT_AUTHSTAT0_LOCKED : FRef := ⟨0x3844, 3, 1⟩
abbrev SNT_AUTHSTAT0_FAILS : FRef := ⟨0x3844, 4, 2⟩
abbrev SNT_AUTHSTAT0_TAMPER : FRef := ⟨0x3844, 6, 1⟩
abbrev SNT_AUTHSTAT0_CLOSE : FRef := ⟨0x3844, 8, 8⟩
abbrev SNT_AUTHSTAT1_END : FRef := ⟨0x3848, 0, 32⟩

/-! ## PSQ (Table 19-7) -/

abbrev PSQ_SEQCFG_SRC : FRef := ⟨0x4000, 0, 1⟩
abbrev PSQ_SEQCFG_AUTO_ON : FRef := ⟨0x4000, 1, 1⟩
abbrev PSQ_SEQCFG_RETRIES : FRef := ⟨0x4000, 4, 3⟩
abbrev PSQ_SEQCFG_WINDOW : FRef := ⟨0x4000, 16, 12⟩
abbrev PSQ_COOLDOWN_FRAMES : FRef := ⟨0x4004, 0, 16⟩
abbrev PSQ_SEQSTAT_STATE : FRef := ⟨0x4008, 0, 3⟩
abbrev PSQ_SEQSTAT_RETRY : FRef := ⟨0x4008, 4, 3⟩
abbrev PSQ_SEQSTAT_CAUSE : FRef := ⟨0x4008, 8, 4⟩
abbrev PSQ_SWCFG_ROLE : FRef := ⟨0x4010, 0, 2⟩
abbrev PSQ_SWCFG_FALLBACK : FRef := ⟨0x4010, 2, 1⟩
abbrev PSQ_SWCFG_REJOIN : FRef := ⟨0x4010, 3, 1⟩
abbrev PSQ_SWCFG_BEACON : FRef := ⟨0x4010, 16, 16⟩
abbrev PSQ_SWTARGET_STATE : FRef := ⟨0x4014, 0, 8⟩
abbrev PSQ_SWHOLDMAX_FRAMES : FRef := ⟨0x4018, 0, 16⟩
abbrev PSQ_SWCTL_RESYNC : FRef := ⟨0x401C, 0, 1⟩
abbrev PSQ_SWCTL_REJOIN : FRef := ⟨0x401C, 1, 1⟩
abbrev PSQ_SWSTAT_STATE : FRef := ⟨0x4020, 0, 8⟩
abbrev PSQ_SWSTAT_JOINED : FRef := ⟨0x4020, 8, 1⟩
abbrev PSQ_SWSTAT_DESYNC : FRef := ⟨0x4020, 9, 1⟩
abbrev PSQ_SWSTAT_NOBEACON : FRef := ⟨0x4020, 10, 1⟩
abbrev PSQ_SWSTAT_MISSED : FRef := ⟨0x4020, 11, 1⟩
abbrev PSQ_SWSTAT_STUCK : FRef := ⟨0x4020, 12, 1⟩
abbrev PSQ_SWSTAT_LEADER_CONFLICT : FRef := ⟨0x4020, 13, 1⟩
abbrev PSQ_SWSTAT_GLITCHCNT : FRef := ⟨0x4020, 16, 16⟩
abbrev PSQ_RAILCFG_USE (i : Nat) : FRef := ⟨0x4100 + 4 * i, 0, 1⟩
abbrev PSQ_RAILCFG_POLICY (i : Nat) : FRef := ⟨0x4100 + 4 * i, 1, 1⟩
abbrev PSQ_RAILCFG_PG_USED (i : Nat) : FRef := ⟨0x4100 + 4 * i, 2, 1⟩
abbrev PSQ_RAILCFG_IS_EN (i : Nat) : FRef := ⟨0x4100 + 4 * i, 3, 1⟩
abbrev PSQ_RAILCFG_IS_SEL (i : Nat) : FRef := ⟨0x4100 + 4 * i, 4, 3⟩
abbrev PSQ_RAILCFG_SW_ON (i : Nat) : FRef := ⟨0x4100 + 4 * i, 8, 8⟩
abbrev PSQ_RAILCFG_SW_OFF (i : Nat) : FRef := ⟨0x4100 + 4 * i, 16, 8⟩
abbrev PSQ_RAILDLY_ON_DLY (i : Nat) : FRef := ⟨0x4180 + 4 * i, 0, 12⟩
abbrev PSQ_RAILDLY_OFF_DLY (i : Nat) : FRef := ⟨0x4180 + 4 * i, 16, 12⟩
abbrev PSQ_RAILTMO_RISE_TMO (i : Nat) : FRef := ⟨0x4200 + 4 * i, 0, 8⟩
abbrev PSQ_RAILTMO_FALL_TMO (i : Nat) : FRef := ⟨0x4200 + 4 * i, 8, 8⟩
abbrev PSQ_RAILOFF_MV (i : Nat) : FRef := ⟨0x4280 + 4 * i, 0, 16⟩
abbrev PSQ_RAILSTAT_STATE (i : Nat) : FRef := ⟨0x4300 + 4 * i, 0, 3⟩
abbrev PSQ_RAILSTAT_RISE_FAIL (i : Nat) : FRef := ⟨0x4300 + 4 * i, 4, 1⟩
abbrev PSQ_RAILSTAT_FALL_TIMEOUT (i : Nat) : FRef := ⟨0x4300 + 4 * i, 5, 1⟩
abbrev PSQ_RAILCTL_RETRY (i : Nat) : FRef := ⟨0x4380 + 4 * i, 0, 1⟩

/-! ## SUP (Table 19-9) -/

abbrev SUP_PERSIST_WARN : FRef := ⟨0x6000, 0, 4⟩
abbrev SUP_PERSIST_FLT : FRef := ⟨0x6000, 4, 3⟩
abbrev SUP_PFWCFG_LEAD : FRef := ⟨0x6004, 0, 10⟩
abbrev SUP_PFWCFG_ENA : FRef := ⟨0x6004, 16, 1⟩
abbrev SUP_PFWCFG_ENB : FRef := ⟨0x6004, 17, 1⟩
abbrev SUP_PFWCFG_RECOVER : FRef := ⟨0x6004, 18, 1⟩
abbrev SUP_HSCFG0_EN : FRef := ⟨0x6008, 0, 1⟩
abbrev SUP_HSCFG0_OPEN_AT_OFF : FRef := ⟨0x6008, 1, 1⟩
abbrev SUP_HSCFG0_DVDT : FRef := ⟨0x6008, 2, 10⟩
abbrev SUP_HSCFG0_CHG_TMO : FRef := ⟨0x6008, 12, 12⟩
abbrev SUP_HSCFG0_ILIM_T : FRef := ⟨0x6008, 24, 8⟩
abbrev SUP_HSCFG1_REV : FRef := ⟨0x600C, 0, 8⟩
abbrev SUP_HSILIM_LIMIT : FRef := ⟨0x6010, 0, 10⟩
abbrev SUP_HSSHUNT_UOHM : FRef := ⟨0x6014, 0, 14⟩
abbrev SUP_HSSOA_MJ : FRef := ⟨0x6018, 0, 18⟩
abbrev SUP_HSSTAT_STATE : FRef := ⟨0x601C, 0, 3⟩
abbrev SUP_HSSTAT_CAUSE : FRef := ⟨0x601C, 4, 4⟩
abbrev SUP_HSSTAT_BULK_SENSE : FRef := ⟨0x601C, 8, 1⟩
abbrev SUP_HSCTL_CLR : FRef := ⟨0x6020, 0, 1⟩
abbrev SUP_BULKCAP_UF : FRef := ⟨0x6024, 0, 20⟩
abbrev SUP_BULKMIN_MV : FRef := ⟨0x6028, 0, 17⟩
abbrev SUP_SHUTRES_MJ : FRef := ⟨0x602C, 0, 16⟩
abbrev SUP_GRANT_W : FRef := ⟨0x6030, 0, 16⟩
abbrev SUP_RTGRANT_W : FRef := ⟨0x6034, 0, 16⟩
abbrev SUP_ILKCFG_LIMIT : FRef := ⟨0x6038, 0, 16⟩
abbrev SUP_ILKCFG_WINDOW : FRef := ⟨0x6038, 16, 7⟩
abbrev SUP_LDG_EIN_UJ : FRef := ⟨0x6040, 0, 32⟩
abbrev SUP_LDG_PIN_MW : FRef := ⟨0x6044, 0, 32⟩
abbrev SUP_LDG_EBULK_MJ : FRef := ⟨0x6048, 0, 32⟩
abbrev SUP_LDG_PLOAD_MW : FRef := ⟨0x604C, 0, 32⟩
abbrev SUP_LDG_PDRAW_MW : FRef := ⟨0x6050, 0, 32⟩
abbrev SUP_LDG_PPRED_MW : FRef := ⟨0x6054, 0, 32⟩
abbrev SUP_LDG_EAVAIL_MJ : FRef := ⟨0x6058, 0, 32⟩
abbrev SUP_LDG_TLEFT_FRAMES : FRef := ⟨0x605C, 0, 16⟩
abbrev SUP_LDG_ETOT_LO_MJ : FRef := ⟨0x6060, 0, 32⟩
abbrev SUP_LDG_ETOT_HI_MJ : FRef := ⟨0x6064, 0, 32⟩
abbrev SUP_BUSCFG0_NOM_MV : FRef := ⟨0x6070, 0, 17⟩
abbrev SUP_BUSCFG1_PRES_MV : FRef := ⟨0x6074, 0, 17⟩
abbrev SUP_BUSCFG2_ABS_MV : FRef := ⟨0x6078, 0, 17⟩
abbrev SUP_BUSEVT0_DIP : FRef := ⟨0x6080, 0, 8⟩
abbrev SUP_BUSEVT0_INT : FRef := ⟨0x6080, 8, 8⟩
abbrev SUP_BUSEVT0_OV : FRef := ⟨0x6080, 16, 8⟩
abbrev SUP_BUSEVT1_RIPPLE : FRef := ⟨0x6084, 0, 16⟩
abbrev SUP_BUSSTAT_PRESENT : FRef := ⟨0x6088, 0, 1⟩
abbrev SUP_BUSSTAT_RT : FRef := ⟨0x6088, 1, 1⟩
abbrev SUP_BUSSTAT_LOST : FRef := ⟨0x6088, 2, 1⟩
abbrev SUP_BUSSTAT_ON_COCOON : FRef := ⟨0x6088, 3, 1⟩
abbrev SUP_BUSSTAT_EVT : FRef := ⟨0x6088, 4, 4⟩
abbrev SUP_BUSSTAT_SHELF_WARN : FRef := ⟨0x6088, 8, 1⟩
abbrev SUP_BUSSTAT_SHELF_FAIL : FRef := ⟨0x6088, 9, 1⟩
abbrev SUP_SHELFCFG_WARN_RT : FRef := ⟨0x608C, 0, 1⟩
abbrev SUP_SHELFCFG_FAIL_LOSS : FRef := ⟨0x608C, 1, 1⟩
abbrev SUP_DISCFG_E_LIM : FRef := ⟨0x6090, 0, 16⟩
abbrev SUP_DISCFG_V_LIM : FRef := ⟨0x6090, 16, 16⟩
abbrev SUP_DISTIME_FRAMES : FRef := ⟨0x6094, 0, 16⟩
abbrev SUP_DISSTAT_RUNNING : FRef := ⟨0x6098, 0, 1⟩
abbrev SUP_DISSTAT_PASS : FRef := ⟨0x6098, 1, 1⟩
abbrev SUP_DISSTAT_FAIL : FRef := ⟨0x6098, 2, 1⟩
abbrev SUP_DISSTAT_UNVERIFIED : FRef := ⟨0x6098, 3, 1⟩
abbrev SUP_DISSTAT_ELAPSED : FRef := ⟨0x6098, 16, 16⟩
abbrev SUP_COCCFG_CAP : FRef := ⟨0x60A0, 0, 11⟩
abbrev SUP_COCCFG_COLLAPSE : FRef := ⟨0x60A0, 11, 15⟩
abbrev SUP_COCCAP_UF : FRef := ⟨0x60A4, 0, 16⟩
abbrev SUP_COCLOAD0_P_HOLD : FRef := ⟨0x60A8, 0, 16⟩
abbrev SUP_COCLOAD0_P_RUN : FRef := ⟨0x60A8, 16, 16⟩
abbrev SUP_COCLOAD1_EFF : FRef := ⟨0x60AC, 0, 7⟩
abbrev SUP_COCSTAT_VTGT : FRef := ⟨0x60B0, 0, 9⟩
abbrev SUP_COCSTAT_OVERCAP : FRef := ⟨0x60B0, 9, 1⟩
abbrev SUP_COCSTAT_CHARGING : FRef := ⟨0x60B0, 10, 1⟩
abbrev SUP_COCSTAT_TSHUT : FRef := ⟨0x60B0, 16, 16⟩
abbrev SUP_SNAPCFG_TRIG : FRef := ⟨0x60B4, 0, 7⟩
abbrev SUP_SNAPCFG_MISSED : FRef := ⟨0x60B4, 16, 16⟩
abbrev SUP_RAILWARN_UV_WARN (i : Nat) : FRef := ⟨0x6100 + 4 * i, 0, 16⟩
abbrev SUP_RAILWARN_OV_WARN (i : Nat) : FRef := ⟨0x6100 + 4 * i, 16, 16⟩
abbrev SUP_RAILFLT_UV_FLT (i : Nat) : FRef := ⟨0x6180 + 4 * i, 0, 16⟩
abbrev SUP_RAILFLT_OV_FLT (i : Nat) : FRef := ⟨0x6180 + 4 * i, 16, 16⟩
abbrev SUP_RAILCFG_MODE (i : Nat) : FRef := ⟨0x6200 + 4 * i, 0, 1⟩
abbrev SUP_RAILCFG_FLT_ACTION (i : Nat) : FRef := ⟨0x6200 + 4 * i, 1, 1⟩
abbrev SUP_RAILCFG_FAST_OFF (i : Nat) : FRef := ⟨0x6200 + 4 * i, 2, 1⟩
abbrev SUP_RAILCFG_HYST (i : Nat) : FRef := ⟨0x6200 + 4 * i, 8, 8⟩
abbrev SUP_RAILSCALE_SCALE (i : Nat) : FRef := ⟨0x6280 + 4 * i, 0, 16⟩
abbrev SUP_RAILSTAT_OV_WARN (i : Nat) : FRef := ⟨0x6300 + 4 * i, 0, 1⟩
abbrev SUP_RAILSTAT_UV_WARN (i : Nat) : FRef := ⟨0x6300 + 4 * i, 1, 1⟩
abbrev SUP_RAILSTAT_OV_FLT (i : Nat) : FRef := ⟨0x6300 + 4 * i, 2, 1⟩
abbrev SUP_RAILSTAT_UV_FLT (i : Nat) : FRef := ⟨0x6300 + 4 * i, 3, 1⟩
abbrev SUP_RAILSTAT_PG_FLT (i : Nat) : FRef := ⟨0x6300 + 4 * i, 4, 1⟩
abbrev SUP_RAILSTAT_SENSE_OPEN (i : Nat) : FRef := ⟨0x6300 + 4 * i, 5, 1⟩
abbrev SUP_RAILSTAT_FLT_FLAGGED (i : Nat) : FRef := ⟨0x6300 + 4 * i, 6, 1⟩
abbrev SUP_RAILSTAT_UV_IN_DOWN (i : Nat) : FRef := ⟨0x6300 + 4 * i, 7, 1⟩
abbrev SUP_RAILSTAT_ANALOG (i : Nat) : FRef := ⟨0x6300 + 4 * i, 8, 1⟩
abbrev SUP_RAILSTAT_READING (i : Nat) : FRef := ⟨0x6300 + 4 * i, 16, 16⟩

/-! ## THM (Table 19-10) -/

abbrev THM_CTL_FAIL_CLR : FRef := ⟨0x7000, 0, 1⟩
abbrev THM_ALMCFG_HYST : FRef := ⟨0x7004, 0, 8⟩
abbrev THM_ALMCFG_PERSIST : FRef := ⟨0x7004, 8, 4⟩
abbrev THM_ALMSTAT_WARN : FRef := ⟨0x7008, 0, 9⟩
abbrev THM_ALMSTAT_CRIT : FRef := ⟨0x7008, 16, 9⟩
abbrev THM_DIODESTAT_OPEN : FRef := ⟨0x700C, 0, 1⟩
abbrev THM_DIODESTAT_SHORT : FRef := ⟨0x700C, 1, 1⟩
abbrev THM_DIODESTAT_RATIO : FRef := ⟨0x700C, 2, 1⟩
abbrev THM_DIODESTAT_PLAUS : FRef := ⟨0x700C, 3, 1⟩
abbrev THM_DIODESTAT_XDIFF : FRef := ⟨0x700C, 16, 16⟩
abbrev THM_EFF_HEADROOM : FRef := ⟨0x7010, 0, 16⟩
abbrev THM_EFF_DUTYMAX : FRef := ⟨0x7010, 16, 11⟩
abbrev THM_EFF_SRC : FRef := ⟨0x7010, 28, 4⟩
abbrev THM_SRC_EN (i : Nat) : FRef := ⟨0x7040 + 4 * i, 0, 1⟩
abbrev THM_SRC_MAP (i : Nat) : FRef := ⟨0x7040 + 4 * i, 4, 4⟩
abbrev THM_SRC_START (i : Nat) : FRef := ⟨0x7040 + 4 * i, 16, 13⟩
abbrev THM_ALM_WARN (i : Nat) : FRef := ⟨0x7080 + 4 * i, 0, 13⟩
abbrev THM_ALM_CRIT (i : Nat) : FRef := ⟨0x7080 + 4 * i, 13, 13⟩
abbrev THM_ALM_CRIT_ACT (i : Nat) : FRef := ⟨0x7080 + 4 * i, 26, 1⟩
abbrev THM_ALM_LATCH (i : Nat) : FRef := ⟨0x7080 + 4 * i, 27, 2⟩
abbrev THM_SRCSTAT_VALUE (i : Nat) : FRef := ⟨0x70C0 + 4 * i, 0, 16⟩
abbrev THM_SRCSTAT_STALE (i : Nat) : FRef := ⟨0x70C0 + 4 * i, 16, 1⟩
abbrev THM_SRCSTAT_RANGE (i : Nat) : FRef := ⟨0x70C0 + 4 * i, 17, 1⟩
abbrev THM_SRCSTAT_TOO_HOT (i : Nat) : FRef := ⟨0x70C0 + 4 * i, 18, 1⟩
abbrev THM_SRCSTAT_DIODE (i : Nat) : FRef := ⟨0x70C0 + 4 * i, 19, 1⟩
abbrev THM_REMOTE_VALUE (i : Nat) : FRef := ⟨0x7100 + 4 * i, 0, 16⟩
abbrev THM_REMCFG_FMT (i : Nat) : FRef := ⟨0x7120 + 4 * i, 0, 2⟩
abbrev THM_REMCFG_STALE (i : Nat) : FRef := ⟨0x7120 + 4 * i, 16, 16⟩
abbrev THM_THR_GAIN_T (i : Nat) : FRef := ⟨0x7140 + 4 * i, 0, 12⟩
abbrev THM_THR_GAIN_P (i : Nat) : FRef := ⟨0x7140 + 4 * i, 12, 12⟩
abbrev THM_THR_MODE (i : Nat) : FRef := ⟨0x7140 + 4 * i, 24, 2⟩
abbrev THM_THR_POL (i : Nat) : FRef := ⟨0x7140 + 4 * i, 26, 1⟩
abbrev THM_THRL_LVL_ON (i : Nat) : FRef := ⟨0x7150 + 4 * i, 0, 11⟩
abbrev THM_THRL_LVL_OFF (i : Nat) : FRef := ⟨0x7150 + 4 * i, 16, 11⟩
abbrev THM_THRSTAT_DUTY (i : Nat) : FRef := ⟨0x7160 + 4 * i, 0, 11⟩
abbrev THM_THRSTAT_ACTIVE (i : Nat) : FRef := ⟨0x7160 + 4 * i, 16, 1⟩

/-! ## ADM (Table 19-11) -/

abbrev ADM_CFG_SETTLE : FRef := ⟨0x7800, 0, 7⟩
abbrev ADM_CFG_E2_DUTY : FRef := ⟨0x7800, 16, 11⟩
abbrev ADM_COST_E1 : FRef := ⟨0x7804, 0, 8⟩
abbrev ADM_COST_E2 : FRef := ⟨0x7804, 8, 8⟩
abbrev ADM_COST_E3 : FRef := ⟨0x7804, 16, 8⟩
abbrev ADM_HEADROOM0_H_E : FRef := ⟨0x7808, 0, 32⟩
abbrev ADM_HEADROOM1_H_T : FRef := ⟨0x780C, 0, 16⟩
abbrev ADM_HEADROOM1_D : FRef := ⟨0x780C, 16, 11⟩
abbrev ADM_HARD_PFW : FRef := ⟨0x7810, 0, 1⟩
abbrev ADM_HARD_CRIT : FRef := ⟨0x7810, 1, 1⟩
abbrev ADM_HARD_RT : FRef := ⟨0x7810, 2, 1⟩
abbrev ADM_HARD_SEQ : FRef := ⟨0x7810, 3, 1⟩
abbrev ADM_HARD_HS : FRef := ⟨0x7810, 4, 1⟩
abbrev ADM_WAITMAP_LO_MAP : FRef := ⟨0x7814, 0, 32⟩
abbrev ADM_WAITMAP_HI_MAP : FRef := ⟨0x7818, 0, 26⟩
abbrev ADM_FORCECNT_COUNT : FRef := ⟨0x781C, 0, 32⟩
abbrev ADM_REFUSECNT_COUNT : FRef := ⟨0x7820, 0, 32⟩
abbrev ADM_REQSTAT_CLASS (i : Nat) : FRef := ⟨0x7900 + 4 * i, 0, 2⟩
abbrev ADM_REQSTAT_PENDING (i : Nat) : FRef := ⟨0x7900 + 4 * i, 2, 1⟩
abbrev ADM_REQSTAT_BUDGET_WAIT (i : Nat) : FRef := ⟨0x7900 + 4 * i, 3, 1⟩
abbrev ADM_REQSTAT_WAIT (i : Nat) : FRef := ⟨0x7900 + 4 * i, 4, 6⟩

/-! ## LMP (Table 19-12) -/

abbrev LMP_CFG_EN (i : Nat) : FRef := ⟨0x8000 + 4 * i, 0, 1⟩
abbrev LMP_CFG_DIAGPULSE (i : Nat) : FRef := ⟨0x8000 + 4 * i, 1, 1⟩
abbrev LMP_CFG_SHORT_V (i : Nat) : FRef := ⟨0x8000 + 4 * i, 2, 1⟩
abbrev LMP_CFG_CURRENT (i : Nat) : FRef := ⟨0x8000 + 4 * i, 8, 6⟩
abbrev LMP_CFG_OWNER (i : Nat) : FRef := ⟨0x8000 + 4 * i, 16, 5⟩
abbrev LMP_LEVEL_LEVEL (i : Nat) : FRef := ⟨0x8020 + 4 * i, 0, 12⟩
abbrev LMP_PATTERN_CODE (i : Nat) : FRef := ⟨0x8040 + 4 * i, 0, 4⟩
abbrev LMP_STAT_DIAG (i : Nat) : FRef := ⟨0x8060 + 4 * i, 0, 3⟩
abbrev LMP_STAT_SHORT_LATCH (i : Nat) : FRef := ⟨0x8060 + 4 * i, 3, 1⟩
abbrev LMP_STAT_BUDGET_WAIT (i : Nat) : FRef := ⟨0x8060 + 4 * i, 4, 1⟩
abbrev LMP_STAT_OVERRIDE (i : Nat) : FRef := ⟨0x8060 + 4 * i, 5, 1⟩
abbrev LMP_CTL_CLR (i : Nat) : FRef := ⟨0x8080 + 4 * i, 0, 1⟩
abbrev LMP_SVCMAP_DISFAIL : FRef := ⟨0x80A0, 0, 4⟩
abbrev LMP_SVCMAP_FAULT : FRef := ⟨0x80A0, 4, 4⟩
abbrev LMP_SVCMAP_AUTON : FRef := ⟨0x80A0, 8, 4⟩
abbrev LMP_SVCMAP_AUTH : FRef := ⟨0x80A0, 12, 4⟩

/-! ## RST (Table 19-13) -/

abbrev RST_CTL_WARM : FRef := ⟨0x30000, 0, 1⟩
abbrev RST_CTL_CORE : FRef := ⟨0x30000, 1, 1⟩
abbrev RST_CAUSE_KIND : FRef := ⟨0x30004, 0, 3⟩
abbrev RST_CAUSE_TRIGGER : FRef := ⟨0x30004, 8, 5⟩
abbrev RST_WARMSNAP_STATE : FRef := ⟨0x30008, 0, 3⟩
abbrev RST_WARMSNAP_RETRY : FRef := ⟨0x30008, 3, 3⟩
abbrev RST_WARMSNAP_PFW : FRef := ⟨0x30008, 6, 1⟩
abbrev RST_WARMSNAP_FLAGGED : FRef := ⟨0x30008, 7, 24⟩
abbrev RST_PSTATE_STATE : FRef := ⟨0x3000C, 0, 2⟩
abbrev RST_WAKECFG_SOURCES : FRef := ⟨0x30010, 0, 5⟩
abbrev RST_WAKETMR_FRAMES : FRef := ⟨0x30014, 0, 32⟩
abbrev RST_VAULTSTAT0_TAMPER : FRef := ⟨0x30018, 0, 1⟩
abbrev RST_VAULTSTAT0_WAKE : FRef := ⟨0x30018, 1, 1⟩
abbrev RST_VAULTSTAT0_RTC_VALID : FRef := ⟨0x30018, 2, 1⟩
abbrev RST_VAULTSTATC_COUNT (i : Nat) : FRef := ⟨0x3001C + 4 * i, 0, 32⟩
abbrev RST_RETSTAT_CFG_OK : FRef := ⟨0x30030, 0, 1⟩
abbrev RST_RETSTAT_ITEM_OK : FRef := ⟨0x30030, 1, 1⟩
abbrev RST_RETSTAT_ITEMS : FRef := ⟨0x30030, 8, 8⟩
abbrev RST_LOSTSTORES_COUNT : FRef := ⟨0x30034, 0, 16⟩
abbrev RST_BISTRES_RESULT : FRef := ⟨0x30038, 0, 2⟩
abbrev RST_BISTRES_OFFSET : FRef := ⟨0x30038, 8, 24⟩
abbrev RST_CORECTL_CORE_EN : FRef := ⟨0x3003C, 0, 1⟩
abbrev RST_CORECTL_STARTED : FRef := ⟨0x3003C, 1, 1⟩
abbrev RST_CORECTL_TMO : FRef := ⟨0x3003C, 2, 1⟩
abbrev RST_QCFG_PFW_Q : FRef := ⟨0x30040, 0, 1⟩

/-! ## HST (Table 20-1) -/

abbrev HST_PORTCFG_MAXRATE (i : Nat) : FRef := ⟨0xA000 + 4 * i, 0, 2⟩
abbrev HST_PORTSTAT_HPA : FRef := ⟨0xA008, 0, 7⟩
abbrev HST_PORTSTAT_HPB : FRef := ⟨0xA008, 8, 7⟩
abbrev HST_OWNBIND_PORT : FRef := ⟨0xA00C, 0, 1⟩
abbrev HST_FOCFG_AUTO : FRef := ⟨0xA010, 0, 1⟩
abbrev HST_FOSTAT_SERVED : FRef := ⟨0xA014, 0, 16⟩
abbrev HST_FOSTAT_OWN_SERVED : FRef := ⟨0xA014, 16, 1⟩
abbrev HST_FOSTAT_FAILOVERS : FRef := ⟨0xA014, 24, 8⟩
abbrev HST_OWNPASID_PASID : FRef := ⟨0xA018, 0, 20⟩
abbrev HST_OWNPASID_EN : FRef := ⟨0xA018, 31, 1⟩
abbrev HST_ATCSTAT_VALID : FRef := ⟨0xA01C, 0, 9⟩
abbrev HST_ATCSTAT_INVAL : FRef := ⟨0xA01C, 16, 4⟩
abbrev HST_ATCSTAT_PRI : FRef := ⟨0xA01C, 24, 6⟩
abbrev HST_PRICFG_TMO : FRef := ⟨0xA020, 0, 16⟩
abbrev HST_ERRSTAT_BADACC : FRef := ⟨0xA024, 0, 1⟩
abbrev HST_ERRSTAT_FOREIGN_DB : FRef := ⟨0xA024, 8, 8⟩
abbrev HST_ERRSTAT_UNBOUND : FRef := ⟨0xA024, 16, 8⟩
abbrev HST_ERRADDR_OFFSET : FRef := ⟨0xA028, 0, 18⟩
abbrev HST_ERRADDR_FUNC : FRef := ⟨0xA028, 18, 5⟩
abbrev HST_ERRADDR_PORT : FRef := ⟨0xA028, 23, 1⟩
abbrev HST_ERRADDR_BAR : FRef := ⟨0xA028, 24, 1⟩
abbrev HST_SMBCFG_ADDR : FRef := ⟨0xA02C, 0, 7⟩
abbrev HST_SPDMSTAT_HPA : FRef := ⟨0xA030, 0, 2⟩
abbrev HST_SPDMSTAT_HPB : FRef := ⟨0xA030, 2, 2⟩
abbrev HST_SPDMSTAT_SMB : FRef := ⟨0xA030, 4, 2⟩
abbrev HST_SPDMSTAT_EID : FRef := ⟨0xA030, 8, 8⟩
abbrev HST_VIBIND_EN (i : Nat) : FRef := ⟨0xA040 + 4 * i, 0, 1⟩
abbrev HST_VIBIND_PORT (i : Nat) : FRef := ⟨0xA040 + 4 * i, 1, 1⟩
abbrev HST_VIPASID_PASID (i : Nat) : FRef := ⟨0xA080 + 4 * i, 0, 20⟩

/-! ## RNG (Tables 9-2 and 20-2) -/

abbrev RNG_EVBASE_LO_BASE : FRef := ⟨0xB080, 12, 20⟩
abbrev RNG_EVBASE_HI_BASE : FRef := ⟨0xB084, 0, 32⟩
abbrev RNG_EVSIZE_LOG2 : FRef := ⟨0xB088, 0, 4⟩
abbrev RNG_EVHEAD_HEAD : FRef := ⟨0xB08C, 0, 16⟩
abbrev RNG_EVTAIL_WR : FRef := ⟨0xB090, 0, 16⟩
abbrev RNG_EVTAIL_PHASE : FRef := ⟨0xB090, 31, 1⟩
abbrev RNG_EVVEC_VEC : FRef := ⟨0xB094, 0, 6⟩
abbrev RNG_EVMASK_MASK : FRef := ⟨0xB098, 0, 16⟩
abbrev RNG_EVDROP_COUNT : FRef := ⟨0xB09C, 0, 16⟩

/-! ## CPE (Table 20-3) -/

abbrev CPE_SCCFG_EN (i : Nat) : FRef := ⟨0xC000 + 4 * i, 0, 1⟩
abbrev CPE_SCCFG_OWNER (i : Nat) : FRef := ⟨0xC000 + 4 * i, 8, 5⟩
abbrev CPE_SCCFG_PORT (i : Nat) : FRef := ⟨0xC000 + 4 * i, 16, 4⟩
abbrev CPE_SCSSRCFG_K (i : Nat) : FRef := ⟨0xC080 + 4 * i, 0, 4⟩
abbrev CPE_SCSSRCFG_VEC (i : Nat) : FRef := ⟨0xC080 + 4 * i, 8, 6⟩
abbrev CPE_SCSSRCFG_QUIET (i : Nat) : FRef := ⟨0xC080 + 4 * i, 16, 1⟩
abbrev CPE_SCSSR_LO_BASE (i : Nat) : FRef := ⟨0xC100 + 4 * i, 5, 27⟩
abbrev CPE_SCSSR_HI_BASE (i : Nat) : FRef := ⟨0xC180 + 4 * i, 0, 32⟩
abbrev CPE_SCSTAT0_STATE (i : Nat) : FRef := ⟨0xC200 + 8 * i, 0, 3⟩
abbrev CPE_SCSTAT0_DB_PEND (i : Nat) : FRef := ⟨0xC200 + 8 * i, 3, 1⟩
abbrev CPE_SCSTAT0_SSR_FAIL (i : Nat) : FRef := ⟨0xC200 + 8 * i, 4, 1⟩
abbrev CPE_SCSTAT0_HOLDS (i : Nat) : FRef := ⟨0xC200 + 8 * i, 8, 7⟩
abbrev CPE_SCSTAT0_LAST (i : Nat) : FRef := ⟨0xC200 + 8 * i, 16, 8⟩
abbrev CPE_SCSTAT1_RESID (i : Nat) : FRef := ⟨0xC204 + 8 * i, 0, 16⟩
abbrev CPE_SCSTAT1_IALIDX (i : Nat) : FRef := ⟨0xC204 + 8 * i, 16, 8⟩
abbrev CPE_SCPTR_LO_ADDR (i : Nat) : FRef := ⟨0xC300 + 4 * i, 4, 28⟩
abbrev CPE_SCPTR_HI_ADDR (i : Nat) : FRef := ⟨0xC380 + 4 * i, 0, 32⟩
abbrev CPE_SCSEQ_SEQ (i : Nat) : FRef := ⟨0xC400 + 4 * i, 0, 16⟩
abbrev CPE_SCDB_ANY (i : Nat) : FRef := ⟨0xC480 + 4 * i, 0, 32⟩

/-! ## CCH (Table 20-4) -/

abbrev CCH_CFG_EN : FRef := ⟨0xD000, 0, 1⟩
abbrev CCH_CTL_INVAL_ALL : FRef := ⟨0xD004, 0, 1⟩
abbrev CCH_CTL_DRAIN : FRef := ⟨0xD004, 1, 1⟩
abbrev CCH_CTL_CNT_CLR : FRef := ⟨0xD004, 2, 1⟩
abbrev CCH_STAT_VALID : FRef := ⟨0xD008, 0, 9⟩
abbrev CCH_STAT_SB : FRef := ⟨0xD008, 9, 3⟩
abbrev CCH_STAT_MISS : FRef := ⟨0xD008, 12, 1⟩
abbrev CCH_STAT_WALK : FRef := ⟨0xD008, 13, 1⟩
abbrev CCH_STAT_REFETCH : FRef := ⟨0xD008, 16, 16⟩
abbrev CCH_HITCNT_COUNT : FRef := ⟨0xD00C, 0, 32⟩
abbrev CCH_MISSCNT_COUNT : FRef := ⟨0xD010, 0, 32⟩
abbrev CCH_VBHITCNT_COUNT : FRef := ⟨0xD014, 0, 32⟩
abbrev CCH_SBMIRROR_OWNERS : FRef := ⟨0xD018, 0, 17⟩
abbrev CCH_SBMIRROR_COUNT : FRef := ⟨0xD018, 24, 3⟩

/-! ## BMV (Table 20-5) -/

abbrev BMV_DCCFG_EN (i : Nat) : FRef := ⟨0xE000 + 4 * i, 0, 1⟩
abbrev BMV_DCCFG_PRIO (i : Nat) : FRef := ⟨0xE000 + 4 * i, 1, 2⟩
abbrev BMV_DCCFG_OWNER (i : Nat) : FRef := ⟨0xE000 + 4 * i, 8, 5⟩
abbrev BMV_DCSTAT_STATE (i : Nat) : FRef := ⟨0xE040 + 4 * i, 0, 3⟩
abbrev BMV_DCSTAT_DB_PEND (i : Nat) : FRef := ⟨0xE040 + 4 * i, 3, 1⟩
abbrev BMV_DCSTAT_BADDB (i : Nat) : FRef := ⟨0xE040 + 4 * i, 4, 1⟩
abbrev BMV_DCSTAT_CRQ_FAIL (i : Nat) : FRef := ⟨0xE040 + 4 * i, 5, 1⟩
abbrev BMV_DCSTAT_HOLDS (i : Nat) : FRef := ⟨0xE040 + 4 * i, 8, 7⟩
abbrev BMV_DCRES_BYTES (i : Nat) : FRef := ⟨0xE080 + 4 * i, 0, 32⟩
abbrev BMV_DCPTR_LO_ADDR (i : Nat) : FRef := ⟨0xE0C0 + 4 * i, 6, 26⟩
abbrev BMV_DCPTR_HI_ADDR (i : Nat) : FRef := ⟨0xE100 + 4 * i, 0, 32⟩
abbrev BMV_DCCRQ_LO_BASE (i : Nat) : FRef := ⟨0xE140 + 4 * i, 12, 20⟩
abbrev BMV_DCCRQ_HI_BASE (i : Nat) : FRef := ⟨0xE180 + 4 * i, 0, 32⟩
abbrev BMV_DCCRQCFG_K (i : Nat) : FRef := ⟨0xE1C0 + 4 * i, 0, 4⟩
abbrev BMV_DCCRQCFG_VEC (i : Nat) : FRef := ⟨0xE1C0 + 4 * i, 8, 6⟩
abbrev BMV_DCCRQCFG_QUIET (i : Nat) : FRef := ⟨0xE1C0 + 4 * i, 16, 1⟩
abbrev BMV_DCCRQPTR_WR (i : Nat) : FRef := ⟨0xE200 + 4 * i, 0, 12⟩
abbrev BMV_DCCRQPTR_HEAD (i : Nat) : FRef := ⟨0xE200 + 4 * i, 16, 12⟩
abbrev BMV_DCCRQPTR_PHASE (i : Nat) : FRef := ⟨0xE200 + 4 * i, 31, 1⟩
abbrev BMV_DCERR_LO_ADDR (i : Nat) : FRef := ⟨0xE240 + 4 * i, 0, 32⟩
abbrev BMV_DCERR_HI_ADDR (i : Nat) : FRef := ⟨0xE280 + 4 * i, 0, 32⟩
abbrev BMV_DCERRINFO_KIND (i : Nat) : FRef := ⟨0xE2C0 + 4 * i, 0, 3⟩
abbrev BMV_DCERRINFO_STATUS (i : Nat) : FRef := ⟨0xE2C0 + 4 * i, 8, 8⟩
abbrev BMV_DCERRINFO_TAG (i : Nat) : FRef := ⟨0xE2C0 + 4 * i, 16, 16⟩
abbrev BMV_DCDB_HEAD (i : Nat) : FRef := ⟨0xE300 + 4 * i, 0, 16⟩
abbrev BMV_STAT_ESTOP : FRef := ⟨0xE400, 0, 1⟩
abbrev BMV_PFERR_LO_ADDR : FRef := ⟨0xE404, 0, 32⟩
abbrev BMV_PFERR_HI_ADDR : FRef := ⟨0xE408, 0, 32⟩
abbrev BMV_PFERRINFO_PASID : FRef := ⟨0xE40C, 0, 20⟩
abbrev BMV_PFERRINFO_PORT : FRef := ⟨0xE40C, 24, 1⟩
abbrev BMV_PFERRINFO_KIND : FRef := ⟨0xE40C, 25, 3⟩
abbrev BMV_XOWN_B0 (i : Nat) : FRef := ⟨0xE500 + 4 * i, 0, 8⟩
abbrev BMV_XOWN_B1 (i : Nat) : FRef := ⟨0xE500 + 4 * i, 8, 8⟩
abbrev BMV_XOWN_B2 (i : Nat) : FRef := ⟨0xE500 + 4 * i, 16, 8⟩
abbrev BMV_XOWN_B3 (i : Nat) : FRef := ⟨0xE500 + 4 * i, 24, 8⟩

/-! ## DPT (Tables 20-6 to 20-8) -/

abbrev DPT_PBCFG_EN (i : Nat) : FRef := ⟨0x10000 + 4 * i, 0, 1⟩
abbrev DPT_PBCFG_SPEED (i : Nat) : FRef := ⟨0x10000 + 4 * i, 1, 2⟩
abbrev DPT_PBCFG_PEC (i : Nat) : FRef := ⟨0x10000 + 4 * i, 3, 1⟩
abbrev DPT_PBCFG_MULTI (i : Nat) : FRef := ⟨0x10000 + 4 * i, 4, 1⟩
abbrev DPT_ITCFG_EN (i : Nat) : FRef := ⟨0x10018 + 4 * i, 0, 1⟩
abbrev DPT_ITCFG_DAA (i : Nat) : FRef := ⟨0x10018 + 4 * i, 1, 1⟩
abbrev DPT_ITCFG_PPDIV (i : Nat) : FRef := ⟨0x10018 + 4 * i, 8, 9⟩
abbrev DPT_ITCFG_ODDIV (i : Nat) : FRef := ⟨0x10018 + 4 * i, 20, 9⟩
abbrev DPT_SPCFG_EN (i : Nat) : FRef := ⟨0x10020 + 4 * i, 0, 1⟩
abbrev DPT_SPCFG_CSMASK (i : Nat) : FRef := ⟨0x10020 + 4 * i, 1, 2⟩
abbrev DPT_SPCFG_MAXW (i : Nat) : FRef := ⟨0x10020 + 4 * i, 3, 2⟩
abbrev DPT_SPCFG_MODE (i : Nat) : FRef := ⟨0x10020 + 4 * i, 5, 1⟩
abbrev DPT_SPCFG_DIV (i : Nat) : FRef := ⟨0x10020 + 4 * i, 8, 9⟩
abbrev DPT_ASCFG_EN (i : Nat) : FRef := ⟨0x10028 + 4 * i, 0, 1⟩
abbrev DPT_ASCFG_BITS7 (i : Nat) : FRef := ⟨0x10028 + 4 * i, 1, 1⟩
abbrev DPT_ASCFG_PARITY (i : Nat) : FRef := ⟨0x10028 + 4 * i, 2, 2⟩
abbrev DPT_ASCFG_STOP2 (i : Nat) : FRef := ⟨0x10028 + 4 * i, 4, 1⟩
abbrev DPT_ASCFG_RTSCTS (i : Nat) : FRef := ⟨0x10028 + 4 * i, 5, 1⟩
abbrev DPT_ASCFG_DIV (i : Nat) : FRef := ⟨0x10028 + 4 * i, 12, 20⟩
abbrev DPT_GPCFG_EN : FRef := ⟨0x10030, 0, 1⟩
abbrev DPT_PORTSTAT_OPEN (i : Nat) : FRef := ⟨0x10040 + 4 * i, 0, 1⟩
abbrev DPT_PORTSTAT_HOLDER (i : Nat) : FRef := ⟨0x10040 + 4 * i, 1, 5⟩
abbrev DPT_PORTSTAT_STUCK (i : Nat) : FRef := ⟨0x10040 + 4 * i, 6, 1⟩
abbrev DPT_PORTSTAT_OVR (i : Nat) : FRef := ⟨0x10040 + 4 * i, 7, 1⟩
abbrev DPT_IBISTAT_ADDR (i : Nat) : FRef := ⟨0x10080 + 4 * i, 0, 7⟩
abbrev DPT_IBISTAT_PAYLOAD (i : Nat) : FRef := ⟨0x10080 + 4 * i, 8, 8⟩
abbrev DPT_IBISTAT_COUNT (i : Nat) : FRef := ⟨0x10080 + 4 * i, 16, 8⟩
abbrev DPT_IBISTAT_HOTJOIN (i : Nat) : FRef := ⟨0x10080 + 4 * i, 24, 1⟩
abbrev DPT_BUSYMAX_FRAMES (i : Nat) : FRef := ⟨0x10090 + 4 * i, 0, 24⟩
abbrev DPT_SFDP0_VALID (i : Nat) : FRef := ⟨0x10100 + 32 * i, 0, 1⟩
abbrev DPT_SFDP0_ADDR4 (i : Nat) : FRef := ⟨0x10100 + 32 * i, 1, 1⟩
abbrev DPT_SFDP0_QE (i : Nat) : FRef := ⟨0x10100 + 32 * i, 2, 3⟩
abbrev DPT_SFDP0_PAGE (i : Nat) : FRef := ⟨0x10100 + 32 * i, 8, 4⟩
abbrev DPT_SFDP0_READ (i : Nat) : FRef := ⟨0x10100 + 32 * i, 12, 3⟩
abbrev DPT_SFDP0_DUMMY (i : Nat) : FRef := ⟨0x10100 + 32 * i, 16, 5⟩
abbrev DPT_SFDP1_DENSITY (i : Nat) : FRef := ⟨0x10104 + 32 * i, 0, 6⟩
abbrev DPT_SFDP2_SIZE1 (i : Nat) : FRef := ⟨0x10108 + 32 * i, 0, 8⟩
abbrev DPT_SFDP2_OP1 (i : Nat) : FRef := ⟨0x10108 + 32 * i, 8, 8⟩
abbrev DPT_SFDP2_SIZE2 (i : Nat) : FRef := ⟨0x10108 + 32 * i, 16, 8⟩
abbrev DPT_SFDP2_OP2 (i : Nat) : FRef := ⟨0x10108 + 32 * i, 24, 8⟩
abbrev DPT_SFDP3_SIZE3 (i : Nat) : FRef := ⟨0x1010C + 32 * i, 0, 8⟩
abbrev DPT_SFDP3_OP3 (i : Nat) : FRef := ⟨0x1010C + 32 * i, 8, 8⟩
abbrev DPT_SFDP3_SIZE4 (i : Nat) : FRef := ⟨0x1010C + 32 * i, 16, 8⟩
abbrev DPT_SFDP3_OP4 (i : Nat) : FRef := ⟨0x1010C + 32 * i, 24, 8⟩
abbrev DPT_SFDP4_PROG_MAX (i : Nat) : FRef := ⟨0x10110 + 32 * i, 0, 16⟩
abbrev DPT_SFDP4_ERASE_MAX (i : Nat) : FRef := ⟨0x10110 + 32 * i, 16, 16⟩
abbrev DPT_SFDP5_REV (i : Nat) : FRef := ⟨0x10114 + 32 * i, 0, 16⟩
abbrev DPT_SFDP5_WORDS (i : Nat) : FRef := ⟨0x10114 + 32 * i, 16, 8⟩
abbrev DPT_GPIOCFG_DIR (i : Nat) : FRef := ⟨0x10200 + 4 * i, 0, 1⟩
abbrev DPT_GPIOCFG_OD (i : Nat) : FRef := ⟨0x10200 + 4 * i, 1, 1⟩
abbrev DPT_GPIOCFG_PULL (i : Nat) : FRef := ⟨0x10200 + 4 * i, 2, 2⟩
abbrev DPT_GPIOCFG_EDGE (i : Nat) : FRef := ⟨0x10200 + 4 * i, 4, 2⟩
abbrev DPT_GPIOOWN_B0 (i : Nat) : FRef := ⟨0x10280 + 4 * i, 0, 8⟩
abbrev DPT_GPIOOWN_B1 (i : Nat) : FRef := ⟨0x10280 + 4 * i, 8, 8⟩
abbrev DPT_GPIOOWN_B2 (i : Nat) : FRef := ⟨0x10280 + 4 * i, 16, 8⟩
abbrev DPT_GPIOOWN_B3 (i : Nat) : FRef := ⟨0x10280 + 4 * i, 24, 8⟩
abbrev DPT_GPIOIN_LEVELS : FRef := ⟨0x102A0, 0, 32⟩
abbrev DPT_GPIOOUT_LEVELS : FRef := ⟨0x102A4, 0, 32⟩

/-! ## CRD (Table 20-9) -/

abbrev CRD_PCFG0_EN (i : Nat) : FRef := ⟨0x9000 + 16 * i, 0, 1⟩
abbrev CRD_PCFG0_CLASSMASK (i : Nat) : FRef := ⟨0x9000 + 16 * i, 1, 3⟩
abbrev CRD_PCFG0_PRES_POL (i : Nat) : FRef := ⟨0x9000 + 16 * i, 4, 1⟩
abbrev CRD_PCFG0_AUTO_ACT (i : Nat) : FRef := ⟨0x9000 + 16 * i, 5, 1⟩
abbrev CRD_PCFG0_PROTO (i : Nat) : FRef := ⟨0x9000 + 16 * i, 6, 1⟩
abbrev CRD_PCFG0_PPS_EN (i : Nat) : FRef := ⟨0x9000 + 16 * i, 7, 1⟩
abbrev CRD_PCFG0_PPS_FB (i : Nat) : FRef := ⟨0x9000 + 16 * i, 8, 1⟩
abbrev CRD_PCFG0_CSTOP_EN (i : Nat) : FRef := ⟨0x9000 + 16 * i, 9, 1⟩
abbrev CRD_PCFG0_RETRY (i : Nat) : FRef := ⟨0x9000 + 16 * i, 12, 3⟩
abbrev CRD_PCFG0_INS_DEB (i : Nat) : FRef := ⟨0x9000 + 16 * i, 16, 8⟩
abbrev CRD_PCFG0_IFSD (i : Nat) : FRef := ⟨0x9000 + 16 * i, 24, 8⟩
abbrev CRD_PCFG1_DIV_ACT (i : Nat) : FRef := ⟨0x9004 + 16 * i, 0, 9⟩
abbrev CRD_PCFG1_DIV_MIN (i : Nat) : FRef := ⟨0x9004 + 16 * i, 16, 9⟩
abbrev CRD_PCFG2_RST_DLY (i : Nat) : FRef := ⟨0x9008 + 16 * i, 0, 16⟩
abbrev CRD_PCFG2_CSTOP_IDLE (i : Nat) : FRef := ⟨0x9008 + 16 * i, 16, 16⟩
abbrev CRD_PSTAT_STATE (i : Nat) : FRef := ⟨0x9020 + 4 * i, 0, 3⟩
abbrev CRD_PSTAT_PRESENT (i : Nat) : FRef := ⟨0x9020 + 4 * i, 3, 1⟩
abbrev CRD_PSTAT_ATRLEN (i : Nat) : FRef := ⟨0x9020 + 4 * i, 4, 6⟩
abbrev CRD_PSTAT_ECAUSE (i : Nat) : FRef := ⟨0x9020 + 4 * i, 12, 3⟩
abbrev CRD_PSTAT_SESSIONS (i : Nat) : FRef := ⟨0x9020 + 4 * i, 16, 5⟩
abbrev CRD_PARAM0_CLASS (i : Nat) : FRef := ⟨0x9030 + 16 * i, 0, 2⟩
abbrev CRD_PARAM0_PROTO (i : Nat) : FRef := ⟨0x9030 + 16 * i, 2, 1⟩
abbrev CRD_PARAM0_FI (i : Nat) : FRef := ⟨0x9030 + 16 * i, 4, 4⟩
abbrev CRD_PARAM0_DI (i : Nat) : FRef := ⟨0x9030 + 16 * i, 8, 4⟩
abbrev CRD_PARAM0_IFSC (i : Nat) : FRef := ⟨0x9030 + 16 * i, 16, 8⟩
abbrev CRD_PARAM1_DIV (i : Nat) : FRef := ⟨0x9034 + 16 * i, 0, 9⟩
abbrev CRD_PARAM1_CWT (i : Nat) : FRef := ⟨0x9034 + 16 * i, 16, 16⟩
abbrev CRD_PARAM2_BWT (i : Nat) : FRef := ⟨0x9038 + 16 * i, 0, 32⟩
abbrev CRD_ATRDATA_CHARS (i : Nat) : FRef := ⟨0x9050 + 4 * i, 0, 32⟩
abbrev CRD_SESSMAPA_HOLDERS (i : Nat) : FRef := ⟨0x90A0 + 4 * i, 0, 32⟩
abbrev CRD_SESSEXA_HANDLE : FRef := ⟨0x90B4, 0, 16⟩
abbrev CRD_SESSEXA_EXCL : FRef := ⟨0x90B4, 16, 1⟩
abbrev CRD_SESSENDA_END : FRef := ⟨0x90B8, 0, 32⟩
abbrev CRD_SESSMAPB_HOLDERS (i : Nat) : FRef := ⟨0x90C0 + 4 * i, 0, 32⟩
abbrev CRD_SESSEXB_HANDLE : FRef := ⟨0x90D4, 0, 16⟩
abbrev CRD_SESSEXB_EXCL : FRef := ⟨0x90D4, 16, 1⟩
abbrev CRD_SESSENDB_END : FRef := ⟨0x90D8, 0, 32⟩
abbrev CRD_VIPERM_VIS : FRef := ⟨0x90E0, 0, 16⟩
abbrev CRD_EXCLMAX_FRAMES : FRef := ⟨0x90E4, 0, 16⟩
abbrev CRD_SVCCFG_AIDLEN : FRef := ⟨0x90E8, 0, 5⟩
abbrev CRD_SVCAID_BYTES (i : Nat) : FRef := ⟨0x90F0 + 4 * i, 0, 32⟩
abbrev CRD_TESTRES_RESULT (i : Nat) : FRef := ⟨0x9100 + 4 * i, 0, 9⟩
abbrev CRD_TESTRES_RAN (i : Nat) : FRef := ⟨0x9100 + 4 * i, 31, 1⟩

/-! ## Ring pairs (Table 9-2): `b` is the pair's base key -/

abbrev RNG_SQBASE_LO_BASE (b : Nat) : FRef := ⟨b + 0x0, 12, 20⟩
abbrev RNG_SQBASE_HI_BASE (b : Nat) : FRef := ⟨b + 0x4, 0, 32⟩
abbrev RNG_SQSIZE_LOG2 (b : Nat) : FRef := ⟨b + 0x8, 0, 4⟩
abbrev RNG_SQTAIL_TAIL (b : Nat) : FRef := ⟨b + 0xC, 0, 32⟩
abbrev RNG_SQHEAD_HEAD (b : Nat) : FRef := ⟨b + 0x10, 0, 16⟩
abbrev RNG_CQBASE_LO_BASE (b : Nat) : FRef := ⟨b + 0x14, 12, 20⟩
abbrev RNG_CQBASE_HI_BASE (b : Nat) : FRef := ⟨b + 0x18, 0, 32⟩
abbrev RNG_CQSIZE_LOG2 (b : Nat) : FRef := ⟨b + 0x1C, 0, 4⟩
abbrev RNG_CQHEAD_HEAD (b : Nat) : FRef := ⟨b + 0x20, 0, 32⟩
abbrev RNG_CQTAIL_WR (b : Nat) : FRef := ⟨b + 0x24, 0, 16⟩
abbrev RNG_CQTAIL_PHASE (b : Nat) : FRef := ⟨b + 0x24, 31, 1⟩
abbrev RNG_CQVEC_VEC (b : Nat) : FRef := ⟨b + 0x28, 0, 6⟩
abbrev RNG_CQVEC_COAL_CNT (b : Nat) : FRef := ⟨b + 0x28, 8, 8⟩
abbrev RNG_CQVEC_COAL_TIME (b : Nat) : FRef := ⟨b + 0x28, 16, 8⟩
abbrev RNG_CTL_EN (b : Nat) : FRef := ⟨b + 0x2C, 0, 1⟩
abbrev RNG_STAT_STATE (b : Nat) : FRef := ⟨b + 0x30, 0, 2⟩
abbrev RNG_STAT_BADDB (b : Nat) : FRef := ⟨b + 0x30, 8, 1⟩
abbrev RNG_STAT_FETCHERR (b : Nat) : FRef := ⟨b + 0x30, 9, 1⟩

/-- Base key of the Owner Submission ring pair. -/
abbrev ownSubRing : Nat := 0xB000

/-- Base key of the Owner Admin ring pair. -/
abbrev ownAdmRing : Nat := 0xB040

/-- Base key of the MSI-X table and PBA of PF0's BAR2 (none) or of a VF on port `p` (R195, R197, Table 8-4): entry `k` at
+16 k, the PBA at +0x2000. -/
abbrev msixBase (v : Option Nat) (p : Nat) : Nat :=
  match v with
  | none => 0x200000 + 0x4000 * p
  | some v => 0x300000 + 0x40000 * p + 0x4000 * v

/-- Base key of VI `v`'s VF BAR0 (Table 20-11): the register file keys VF registers above Owner BAR0. -/
abbrev vfBase (v : Nat) : Nat := 0x100000 + 0x4000 * v

/-- Rows of the GLB block. -/
def regsGlb : List RReg := [
  ⟨0x0, 1, 4, [⟨0, 16, 0, .fix, .none, .aon, .any⟩, ⟨16, 16, 0x2408, .fix, .none, .aon, .any⟩]⟩,
  ⟨0x4, 1, 4, [⟨0, 8, 17, .fix, .none, .aon, .any⟩, ⟨8, 2, 0, .fix, .none, .aon, .any⟩]⟩,
  ⟨0x8, 1, 4, [⟨0, 1, 0, .ro, .core, .aon, .any⟩, ⟨1, 1, 0, .ro, .core, .aon, .any⟩, ⟨2, 1, 0, .ro, .core, .aon, .any⟩, ⟨3, 1, 0, .ro, .core, .aon, .any⟩]⟩,
  ⟨0xC, 1, 4, [⟨0, 2, 0, .ro, .bat, .aon, .any⟩, ⟨8, 24, 0, .ro, .bat, .aon, .any⟩]⟩,
  ⟨0x10, 4, 4, [⟨0, 32, 0, .fix, .none, .aon, .any⟩]⟩,
  ⟨0x20, 1, 4, [⟨0, 16, 0, .stw, .nv, .aon, .any⟩, ⟨16, 16, 0, .stw, .nv, .aon, .any⟩]⟩]

/-- Rows of the FRM block. -/
def regsFrm : List RReg := [
  ⟨0x1000, 1, 4, [⟨0, 1, 0, .w1s, .none, .aon, .any⟩, ⟨1, 1, 0, .w1s, .none, .aon, .any⟩]⟩,
  ⟨0x1004, 1, 4, [⟨0, 1, 0, .ro, .warm, .aon, .any⟩, ⟨1, 1, 0, .ro, .warm, .aon, .any⟩]⟩,
  ⟨0x1008, 1, 4, [⟨0, 32, 0, .ro, .bat, .aon, .any⟩]⟩,
  ⟨0x100C, 1, 4, [⟨0, 32, 0, .ro, .bat, .aon, .any⟩]⟩,
  ⟨0x1010, 1, 4, [⟨0, 8, 0, .ro, .warm, .aon, .any⟩, ⟨16, 16, 0, .ro, .warm, .aon, .any⟩]⟩,
  ⟨0x1014, 1, 4, [⟨0, 16, 0, .ro, .warm, .aon, .any⟩]⟩,
  ⟨0x1018, 1, 4, [⟨0, 32, 0, .ro, .warm, .aon, .any⟩]⟩,
  ⟨0x101C, 1, 4, [⟨0, 8, 0, .ro, .warm, .aon, .any⟩, ⟨8, 3, 0, .ro, .warm, .aon, .any⟩]⟩,
  ⟨0x1020, 6, 4, [⟨0, 16, 0, .ro, .warm, .aon, .any⟩]⟩,
  ⟨0x1038, 1, 4, [⟨0, 8, 0, .ro, .bat, .aon, .any⟩]⟩,
  ⟨0x103C, 1, 4, [⟨0, 4, 0, .ro, .core, .aon, .any⟩]⟩]

/-- Rows of the CHR block. -/
def regsChr : List RReg := [
  ⟨0x2000, 1, 4, [⟨0, 1, 0, .w1s, .none, .aon, .any⟩, ⟨1, 1, 0, .w1s, .none, .aon, .any⟩, ⟨2, 1, 0, .w1s, .none, .aon, .any⟩]⟩,
  ⟨0x2004, 1, 4, [⟨0, 9, 0, .ro, .warm, .aon, .any⟩, ⟨9, 1, 0, .ro, .warm, .aon, .any⟩, ⟨16, 16, 0, .ro, .warm, .aon, .any⟩]⟩,
  ⟨0x2008, 1, 4, [⟨0, 8, 0, .rw, .warm, .aon, .any⟩, ⟨8, 1, 0, .rw, .warm, .aon, .any⟩]⟩,
  ⟨0x200C, 1, 4, [⟨0, 16, 0, .ro, .warm, .aon, .any⟩, ⟨31, 1, 0, .ro, .warm, .aon, .any⟩]⟩,
  ⟨0x2010, 1, 4, [⟨0, 32, 0, .ro, .warm, .aon, .any⟩]⟩,
  ⟨0x2014, 1, 4, [⟨0, 2, 0, .ro, .warm, .aon, .any⟩, ⟨8, 8, 0, .ro, .warm, .aon, .any⟩, ⟨16, 16, 0, .ro, .warm, .aon, .any⟩]⟩,
  ⟨0x2018, 1, 4, [⟨0, 8, 0, .ro, .warm, .aon, .any⟩, ⟨8, 8, 0, .ro, .warm, .aon, .any⟩, ⟨16, 16, 0, .ro, .warm, .aon, .any⟩]⟩,
  ⟨0x201C, 1, 4, [⟨0, 32, 0, .ro, .warm, .aon, .any⟩]⟩]

/-- Rows of the JNL block. -/
def regsJnl : List RReg := [
  ⟨0x3000, 1, 4, [⟨0, 32, 0, .rw, .core, .aon, .any⟩]⟩,
  ⟨0x3004, 1, 4, [⟨0, 2, 0, .rw, .core, .aon, (.maxCode 2)⟩]⟩,
  ⟨0x3008, 1, 4, [⟨0, 7, 0, .rw, .core, .aon, (.range 0 64)⟩]⟩,
  ⟨0x300C, 1, 4, [⟨0, 3, 0, .ro, .core, .aon, .any⟩, ⟨7, 1, 0, .ro, .core, .aon, .any⟩, ⟨16, 13, 0, .ro, .core, .aon, .any⟩]⟩,
  ⟨0x3010, 3, 4, [⟨0, 32, 0, .ro, .nv, .aon, .any⟩]⟩,
  ⟨0x3020, 3, 4, [⟨0, 32, 0xFFFFFFFF, .ro, .nv, .aon, .any⟩]⟩,
  ⟨0x3030, 1, 4, [⟨0, 16, 0, .ro, .warm, .aon, .any⟩]⟩,
  ⟨0x3040, 16, 4, [⟨0, 32, 0, .ro, .core, .aon, .any⟩]⟩]

/-- Rows of the SNT block. -/
def regsSnt : List RReg := [
  ⟨0x3800, 1, 4, [⟨0, 1, 0, .stw, .nv, .aon, .any⟩]⟩,
  ⟨0x3804, 1, 4, [⟨0, 1, 0, .ro, .warm, .aon, .any⟩, ⟨1, 1, 0, .ro, .warm, .aon, .any⟩, ⟨8, 6, 0, .ro, .warm, .aon, .any⟩, ⟨16, 4, 0, .ro, .warm, .aon, .any⟩, ⟨20, 4, 0, .ro, .warm, .aon, .any⟩]⟩,
  ⟨0x3808, 1, 4, [⟨0, 32, 0, .ro, .warm, .aon, .any⟩]⟩,
  ⟨0x380C, 1, 4, [⟨0, 32, 0, .ro, .warm, .aon, .any⟩]⟩,
  ⟨0x3810, 1, 4, [⟨0, 1, 1, .ro, .warm, .aon, .any⟩, ⟨1, 1, 0, .ro, .warm, .aon, .any⟩, ⟨2, 1, 0, .ro, .warm, .aon, .any⟩, ⟨4, 4, 0, .ro, .warm, .aon, .any⟩, ⟨8, 6, 0, .ro, .warm, .aon, .any⟩]⟩,
  ⟨0x3814, 1, 4, [⟨0, 6, 0, .fix, .none, .aon, .any⟩, ⟨8, 6, 0, .fix, .none, .aon, .any⟩]⟩,
  ⟨0x3818, 1, 4, [⟨0, 8, 0, .ro, .warm, .aon, .any⟩, ⟨8, 8, 0, .ro, .warm, .aon, .any⟩, ⟨16, 16, 0, .ro, .warm, .aon, .any⟩]⟩,
  ⟨0x381C, 1, 4, [⟨0, 32, 0, .ro, .warm, .aon, .any⟩]⟩,
  ⟨0x3820, 1, 4, [⟨0, 32, 0, .ro, .warm, .aon, .any⟩]⟩,
  ⟨0x3824, 1, 4, [⟨0, 10, 80, .stw, .nv, .aon, (.range 8 800)⟩, ⟨16, 3, 3, .stw, .nv, .aon, .any⟩]⟩,
  ⟨0x3828, 1, 4, [⟨0, 3, 0, .ro, .core, .aon, .any⟩, ⟨16, 16, 0, .ro, .core, .aon, .any⟩]⟩,
  ⟨0x3830, 4, 4, [⟨0, 1, 0, .ro, .nv, .aon, .any⟩, ⟨1, 1, 0, .ro, .nv, .aon, .any⟩, ⟨16, 16, 0, .ro, .nv, .aon, .any⟩]⟩,
  ⟨0x3840, 1, 4, [⟨0, 9, 30, .stp, .nv, .aon, (.range 1 480)⟩]⟩,
  ⟨0x3844, 1, 4, [⟨0, 1, 0, .ro, .warm, .aon, .any⟩, ⟨1, 2, 0, .ro, .warm, .aon, .any⟩, ⟨3, 1, 0, .ro, .nv, .aon, .any⟩, ⟨4, 2, 0, .ro, .nv, .aon, .any⟩, ⟨6, 1, 0, .ro, .warm, .aon, .any⟩, ⟨8, 8, 0, .ro, .warm, .aon, .any⟩]⟩,
  ⟨0x3848, 1, 4, [⟨0, 32, 0, .ro, .warm, .aon, .any⟩]⟩]

/-- Rows of the PSQ block. -/
def regsPsq : List RReg := [
  ⟨0x4000, 1, 4, [⟨0, 1, 0, .stw, .nv, .aon, .any⟩, ⟨1, 1, 0, .stw, .nv, .aon, .any⟩, ⟨4, 3, 3, .stw, .nv, .aon, .any⟩, ⟨16, 12, 0xFFF, .stw, .nv, .aon, (.range 1 4095)⟩]⟩,
  ⟨0x4004, 1, 4, [⟨0, 16, 0xFA0, .stw, .nv, .aon, (.range 8 65535)⟩]⟩,
  ⟨0x4008, 1, 4, [⟨0, 3, 0, .ro, .core, .aon, .any⟩, ⟨4, 3, 0, .ro, .core, .aon, .any⟩, ⟨8, 4, 0, .ro, .core, .aon, .any⟩]⟩,
  ⟨0x4010, 1, 4, [⟨0, 2, 0, .stp, .nv, .aon, (.maxCode 2)⟩, ⟨2, 1, 0, .stw, .nv, .aon, .any⟩, ⟨3, 1, 0, .stw, .nv, .aon, .any⟩, ⟨16, 16, 0x1F40, .stp, .nv, .aon, (.range 800 65535)⟩]⟩,
  ⟨0x4014, 1, 4, [⟨0, 8, 0, .stw, .nv, .aon, .any⟩]⟩,
  ⟨0x4018, 1, 4, [⟨0, 16, 0x3E80, .stw, .nv, .aon, (.range 1 65535)⟩]⟩,
  ⟨0x401C, 1, 4, [⟨0, 1, 0, .w1s, .none, .aon, .any⟩, ⟨1, 1, 0, .w1s, .none, .aon, .any⟩]⟩,
  ⟨0x4020, 1, 4, [⟨0, 8, 0, .ro, .warm, .aon, .any⟩, ⟨8, 1, 0, .ro, .warm, .aon, .any⟩, ⟨9, 1, 0, .ro, .warm, .aon, .any⟩, ⟨10, 1, 0, .ro, .warm, .aon, .any⟩, ⟨11, 1, 0, .ro, .warm, .aon, .any⟩, ⟨12, 1, 0, .rw1c, .warm, .aon, .any⟩, ⟨13, 1, 0, .rw1c, .warm, .aon, .any⟩, ⟨16, 16, 0, .ro, .warm, .aon, .any⟩]⟩,
  ⟨0x4100, 24, 4, [⟨0, 1, 0, .stw, .nv, .aon, .any⟩, ⟨1, 1, 0, .stw, .nv, .aon, .any⟩, ⟨2, 1, 0, .stw, .nv, .aon, .any⟩, ⟨3, 1, 0, .stw, .nv, .aon, .any⟩, ⟨4, 3, 0, .stw, .nv, .aon, .any⟩, ⟨8, 8, 0, .stw, .nv, .aon, .any⟩, ⟨16, 8, 0, .stw, .nv, .aon, .any⟩]⟩,
  ⟨0x4180, 24, 4, [⟨0, 12, 0, .stw, .nv, .aon, .any⟩, ⟨16, 12, 0, .stp, .nv, .aon, .any⟩]⟩,
  ⟨0x4200, 24, 4, [⟨0, 8, 40, .stw, .nv, .aon, (.range 1 255)⟩, ⟨8, 8, 80, .stp, .nv, .aon, (.range 1 255)⟩]⟩,
  ⟨0x4280, 24, 4, [⟨0, 16, 0, .stw, .nv, .aon, .any⟩]⟩,
  ⟨0x4300, 24, 4, [⟨0, 3, 0, .ro, .core, .aon, .any⟩, ⟨4, 1, 0, .rw1c, .core, .aon, .any⟩, ⟨5, 1, 0, .rw1c, .core, .aon, .any⟩]⟩,
  ⟨0x4380, 24, 4, [⟨0, 1, 0, .wo, .none, .aon, .any⟩]⟩]

/-- Rows of the SUP block. -/
def regsSup0 : List RReg := [
  ⟨0x6000, 1, 4, [⟨0, 4, 4, .stw, .nv, .aon, (.range 1 15)⟩, ⟨4, 3, 1, .stp, .nv, .aon, (.range 1 4)⟩]⟩,
  ⟨0x6004, 1, 4, [⟨0, 10, 16, .stp, .nv, .aon, (.range 8 512)⟩, ⟨16, 1, 1, .stp, .nv, .aon, .any⟩, ⟨17, 1, 1, .stp, .nv, .aon, .any⟩, ⟨18, 1, 0, .stp, .nv, .aon, .any⟩]⟩,
  ⟨0x6008, 1, 4, [⟨0, 1, 0, .stp, .nv, .aon, .any⟩, ⟨1, 1, 1, .stp, .nv, .aon, .any⟩, ⟨2, 10, 50, .stp, .nv, .aon, (.range 1 1000)⟩, ⟨12, 12, 0x7D0, .stp, .nv, .aon, (.range 8 4095)⟩, ⟨24, 8, 8, .stp, .nv, .aon, (.range 1 255)⟩]⟩,
  ⟨0x600C, 1, 4, [⟨0, 8, 10, .stp, .nv, .aon, (.range 1 255)⟩]⟩,
  ⟨0x6010, 1, 4, [⟨0, 10, 0x190, .stp, .nv, .aon, (.range 1 1000)⟩]⟩,
  ⟨0x6014, 1, 4, [⟨0, 14, 0x3E8, .stp, .nv, .aon, (.range 50 10000)⟩]⟩,
  ⟨0x6018, 1, 4, [⟨0, 18, 0x7530, .stp, .nv, .aon, (.range 100 255000)⟩]⟩,
  ⟨0x601C, 1, 4, [⟨0, 3, 0, .ro, .core, .aon, .any⟩, ⟨4, 4, 0, .ro, .core, .aon, .any⟩, ⟨8, 1, 0, .ro, .core, .aon, .any⟩]⟩,
  ⟨0x6020, 1, 4, [⟨0, 1, 0, .wo, .none, .aon, .any⟩]⟩,
  ⟨0x6024, 1, 4, [⟨0, 20, 0x2710, .stp, .nv, .aon, (.range 100 1000000)⟩]⟩,
  ⟨0x6028, 1, 4, [⟨0, 17, 0x9C40, .stp, .nv, .aon, (.range 0 75000)⟩]⟩,
  ⟨0x602C, 1, 4, [⟨0, 16, 0xBB8, .stp, .nv, .aon, .any⟩]⟩,
  ⟨0x6030, 1, 4, [⟨0, 16, 0xFFFF, .stw, .nv, .aon, .any⟩]⟩,
  ⟨0x6034, 1, 4, [⟨0, 16, 0, .stw, .nv, .aon, .any⟩]⟩,
  ⟨0x6038, 1, 4, [⟨0, 16, 0x2710, .stp, .nv, .aon, (.range 100 65535)⟩, ⟨16, 7, 16, .stp, .nv, .aon, (.range 2 64)⟩]⟩,
  ⟨0x6040, 1, 4, [⟨0, 32, 0, .ro, .core, .aon, .any⟩]⟩,
  ⟨0x6044, 1, 4, [⟨0, 32, 0, .ro, .core, .aon, .any⟩]⟩,
  ⟨0x6048, 1, 4, [⟨0, 32, 0, .ro, .core, .aon, .any⟩]⟩,
  ⟨0x604C, 1, 4, [⟨0, 32, 0, .ro, .core, .aon, .any⟩]⟩,
  ⟨0x6050, 1, 4, [⟨0, 32, 0, .ro, .core, .aon, .any⟩]⟩,
  ⟨0x6054, 1, 4, [⟨0, 32, 0, .ro, .core, .aon, .any⟩]⟩,
  ⟨0x6058, 1, 4, [⟨0, 32, 0, .ro, .core, .aon, .any⟩]⟩,
  ⟨0x605C, 1, 4, [⟨0, 16, 0, .ro, .core, .aon, .any⟩]⟩,
  ⟨0x6060, 1, 4, [⟨0, 32, 0, .ro, .core, .aon, .any⟩]⟩]

/-- Rows of the SUP block. -/
def regsSup1 : List RReg := [
  ⟨0x6064, 1, 4, [⟨0, 32, 0, .ro, .core, .aon, .any⟩]⟩,
  ⟨0x6070, 1, 4, [⟨0, 17, 0xD2F0, .stw, .nv, .aon, (.range 36000 75000)⟩]⟩,
  ⟨0x6074, 1, 4, [⟨0, 17, 0xABE0, .stw, .nv, .aon, (.range 0 75000)⟩]⟩,
  ⟨0x6078, 1, 4, [⟨0, 17, 0x8CA0, .stw, .nv, .aon, (.range 0 75000)⟩]⟩,
  ⟨0x6080, 1, 4, [⟨0, 8, 85, .stw, .nv, .aon, (.range 1 150)⟩, ⟨8, 8, 10, .stw, .nv, .aon, (.range 1 150)⟩, ⟨16, 8, 115, .stw, .nv, .aon, (.range 1 150)⟩]⟩,
  ⟨0x6084, 1, 4, [⟨0, 16, 0x7D0, .stw, .nv, .aon, .any⟩]⟩,
  ⟨0x6088, 1, 4, [⟨0, 1, 0, .ro, .core, .aon, .any⟩, ⟨1, 1, 0, .ro, .core, .aon, .any⟩, ⟨2, 1, 0, .ro, .core, .aon, .any⟩, ⟨3, 1, 0, .ro, .core, .aon, .any⟩, ⟨4, 4, 0, .ro, .core, .aon, .any⟩, ⟨8, 1, 0, .ro, .core, .aon, .any⟩, ⟨9, 1, 0, .ro, .core, .aon, .any⟩]⟩,
  ⟨0x608C, 1, 4, [⟨0, 1, 1, .stw, .nv, .aon, .any⟩, ⟨1, 1, 0, .stp, .nv, .aon, .any⟩]⟩,
  ⟨0x6090, 1, 4, [⟨0, 16, 0x4E20, .stp, .nv, .aon, .any⟩, ⟨16, 16, 0xEA60, .stp, .nv, .aon, (.range 0 60000)⟩]⟩,
  ⟨0x6094, 1, 4, [⟨0, 16, 0x1F40, .stp, .nv, .aon, (.range 8 65535)⟩]⟩,
  ⟨0x6098, 1, 4, [⟨0, 1, 0, .ro, .core, .aon, .any⟩, ⟨1, 1, 0, .ro, .core, .aon, .any⟩, ⟨2, 1, 0, .ro, .core, .aon, .any⟩, ⟨3, 1, 0, .ro, .core, .aon, .any⟩, ⟨16, 16, 0, .ro, .core, .aon, .any⟩]⟩,
  ⟨0x60A0, 1, 4, [⟨0, 11, 0x5DC, .stp, .nv, .aon, (.range 100 2000)⟩, ⟨11, 15, 0x1F40, .stp, .nv, .aon, (.range 4000 20000)⟩]⟩,
  ⟨0x60A4, 1, 4, [⟨0, 16, 0x3E8, .stp, .nv, .aon, (.range 100 65535)⟩]⟩,
  ⟨0x60A8, 1, 4, [⟨0, 16, 150, .stp, .nv, .aon, .any⟩, ⟨16, 16, 0x9C4, .stp, .nv, .aon, .any⟩]⟩,
  ⟨0x60AC, 1, 4, [⟨0, 7, 85, .stp, .nv, .aon, (.range 50 100)⟩]⟩,
  ⟨0x60B0, 1, 4, [⟨0, 9, 0, .ro, .core, .aon, .any⟩, ⟨9, 1, 0, .rw1c, .core, .aon, .any⟩, ⟨10, 1, 0, .ro, .core, .aon, .any⟩, ⟨16, 16, 0, .ro, .core, .aon, .any⟩]⟩,
  ⟨0x60B4, 1, 4, [⟨0, 7, 127, .stw, .nv, .aon, .any⟩, ⟨16, 16, 0, .ro, .warm, .aon, .any⟩]⟩,
  ⟨0x6100, 24, 4, [⟨0, 16, 0, .stw, .nv, .aon, .any⟩, ⟨16, 16, 0, .stw, .nv, .aon, .any⟩]⟩,
  ⟨0x6180, 24, 4, [⟨0, 16, 0, .stp, .nv, .aon, .any⟩, ⟨16, 16, 0, .stp, .nv, .aon, .any⟩]⟩,
  ⟨0x6200, 24, 4, [⟨0, 1, 0, .stp, .nv, .aon, .any⟩, ⟨1, 1, 0, .stp, .nv, .aon, .any⟩, ⟨2, 1, 0, .stp, .nv, .aon, .any⟩, ⟨8, 8, 10, .stw, .nv, .aon, .any⟩]⟩,
  ⟨0x6280, 24, 4, [⟨0, 16, 0x1000, .stp, .nv, .aon, (.range 4096 65535)⟩]⟩,
  ⟨0x6300, 24, 4, [⟨0, 1, 0, .ro, .core, .aon, .any⟩, ⟨1, 1, 0, .ro, .core, .aon, .any⟩, ⟨2, 1, 0, .rw1c, .core, .aon, .any⟩, ⟨3, 1, 0, .rw1c, .core, .aon, .any⟩, ⟨4, 1, 0, .rw1c, .core, .aon, .any⟩, ⟨5, 1, 0, .rw1c, .core, .aon, .any⟩, ⟨6, 1, 0, .rw1c, .core, .aon, .any⟩, ⟨7, 1, 0, .rw1c, .core, .aon, .any⟩, ⟨8, 1, 0, .ro, .core, .aon, .any⟩, ⟨16, 16, 0, .ro, .core, .aon, .any⟩]⟩]

/-- Rows of the SUP block. -/
def regsSup : List RReg := regsSup0 ++ regsSup1

/-- Rows of the THM block. -/
def regsThm : List RReg := [
  ⟨0x7000, 1, 4, [⟨0, 1, 0, .wo, .none, .aon, .any⟩]⟩,
  ⟨0x7004, 1, 4, [⟨0, 8, 32, .stw, .nv, .aon, .any⟩, ⟨8, 4, 4, .stw, .nv, .aon, (.range 1 15)⟩]⟩,
  ⟨0x7008, 1, 4, [⟨0, 9, 0, .ro, .core, .aon, .any⟩, ⟨16, 9, 0, .ro, .core, .aon, .any⟩]⟩,
  ⟨0x700C, 1, 4, [⟨0, 1, 0, .ro, .core, .aon, .any⟩, ⟨1, 1, 0, .ro, .core, .aon, .any⟩, ⟨2, 1, 0, .ro, .core, .aon, .any⟩, ⟨3, 1, 0, .ro, .core, .aon, .any⟩, ⟨16, 16, 0, .ro, .core, .aon, .any⟩]⟩,
  ⟨0x7010, 1, 4, [⟨0, 16, 0, .ro, .core, .aon, .any⟩, ⟨16, 11, 0, .ro, .core, .aon, .any⟩, ⟨28, 4, 0, .ro, .core, .aon, .any⟩]⟩,
  ⟨0x7040, 1, 4, [⟨0, 1, 1, .stw, .nv, .aon, .any⟩, ⟨4, 4, 15, .stw, .nv, .aon, .any⟩, ⟨16, 13, 0x5F0, .stw, .nv, .aon, .temp⟩]⟩,
  ⟨0x7044, 8, 4, [⟨0, 1, 0, .stw, .nv, .aon, .any⟩, ⟨4, 4, 0, .stw, .nv, .aon, .any⟩, ⟨16, 13, 0x550, .stw, .nv, .aon, .temp⟩]⟩,
  ⟨0x7080, 1, 4, [⟨0, 13, 0x640, .stw, .nv, .aon, .temp⟩, ⟨13, 13, 0x6C0, .stp, .nv, .aon, .temp⟩, ⟨26, 1, 1, .stp, .nv, .aon, .any⟩, ⟨27, 2, 2, .stw, .nv, .aon, .any⟩]⟩,
  ⟨0x7084, 8, 4, [⟨0, 13, 0x5A0, .stw, .nv, .aon, .temp⟩, ⟨13, 13, 0x640, .stp, .nv, .aon, .temp⟩, ⟨26, 1, 0, .stp, .nv, .aon, .any⟩, ⟨27, 2, 2, .stw, .nv, .aon, .any⟩]⟩,
  ⟨0x70C0, 9, 4, [⟨0, 16, 0, .ro, .core, .aon, .any⟩, ⟨16, 1, 0, .ro, .core, .aon, .any⟩, ⟨17, 1, 0, .ro, .core, .aon, .any⟩, ⟨18, 1, 0, .ro, .core, .aon, .any⟩, ⟨19, 1, 0, .ro, .core, .aon, .any⟩]⟩,
  ⟨0x7100, 8, 4, [⟨0, 16, 0, .rw, .core, .aon, .any⟩]⟩,
  ⟨0x7120, 8, 4, [⟨0, 2, 0, .stw, .nv, .aon, (.maxCode 1)⟩, ⟨16, 16, 0x1F40, .stw, .nv, .aon, (.range 8 65535)⟩]⟩,
  ⟨0x7140, 4, 4, [⟨0, 12, 160, .stw, .nv, .aon, .any⟩, ⟨12, 12, 0, .stw, .nv, .aon, .any⟩, ⟨24, 2, 0, .stw, .nv, .aon, (.maxCode 2)⟩, ⟨26, 1, 0, .stw, .nv, .aon, .any⟩]⟩,
  ⟨0x7150, 4, 4, [⟨0, 11, 0x200, .stw, .nv, .aon, (.range 0 1024)⟩, ⟨16, 11, 0x100, .stw, .nv, .aon, (.range 0 1024)⟩]⟩,
  ⟨0x7160, 4, 4, [⟨0, 11, 0, .ro, .core, .aon, .any⟩, ⟨16, 1, 0, .ro, .core, .aon, .any⟩]⟩]

/-- Rows of the ADM block. -/
def regsAdm : List RReg := [
  ⟨0x7800, 1, 4, [⟨0, 7, 8, .stw, .nv, .aon, (.range 1 64)⟩, ⟨16, 11, 0x100, .stw, .nv, .aon, (.range 0 1024)⟩]⟩,
  ⟨0x7804, 1, 4, [⟨0, 8, 1, .stw, .nv, .aon, .any⟩, ⟨8, 8, 4, .stw, .nv, .aon, .any⟩, ⟨16, 8, 8, .stw, .nv, .aon, .any⟩]⟩,
  ⟨0x7808, 1, 4, [⟨0, 32, 0, .ro, .core, .aon, .any⟩]⟩,
  ⟨0x780C, 1, 4, [⟨0, 16, 0, .ro, .core, .aon, .any⟩, ⟨16, 11, 0, .ro, .core, .aon, .any⟩]⟩,
  ⟨0x7810, 1, 4, [⟨0, 1, 0, .ro, .core, .aon, .any⟩, ⟨1, 1, 0, .ro, .core, .aon, .any⟩, ⟨2, 1, 0, .ro, .core, .aon, .any⟩, ⟨3, 1, 0, .ro, .core, .aon, .any⟩, ⟨4, 1, 0, .ro, .core, .aon, .any⟩]⟩,
  ⟨0x7814, 1, 4, [⟨0, 32, 0, .ro, .core, .aon, .any⟩]⟩,
  ⟨0x7818, 1, 4, [⟨0, 26, 0, .ro, .core, .aon, .any⟩]⟩,
  ⟨0x781C, 1, 4, [⟨0, 32, 0, .ro, .warm, .aon, .any⟩]⟩,
  ⟨0x7820, 1, 4, [⟨0, 32, 0, .ro, .warm, .aon, .any⟩]⟩,
  ⟨0x7900, 58, 4, [⟨0, 2, 0, .ro, .core, .aon, .any⟩, ⟨2, 1, 0, .ro, .core, .aon, .any⟩, ⟨3, 1, 0, .ro, .core, .aon, .any⟩, ⟨4, 6, 0, .ro, .core, .aon, .any⟩]⟩]

/-- Rows of the LMP block. -/
def regsLmp : List RReg := [
  ⟨0x8000, 8, 4, [⟨0, 1, 0, .stw, .nv, .aon, .any⟩, ⟨1, 1, 1, .stw, .nv, .aon, .any⟩, ⟨2, 1, 1, .stw, .nv, .aon, .any⟩, ⟨8, 6, 10, .stw, .nv, .aon, (.range 1 40)⟩, ⟨16, 5, 16, .stw, .nv, .aon, (.maxCode 16)⟩]⟩,
  ⟨0x8020, 8, 4, [⟨0, 12, 0, .ro, .warm, .aon, .any⟩]⟩,
  ⟨0x8040, 8, 4, [⟨0, 4, 0, .ro, .warm, .aon, .any⟩]⟩,
  ⟨0x8060, 8, 4, [⟨0, 3, 0, .ro, .core, .aon, .any⟩, ⟨3, 1, 0, .ro, .core, .aon, .any⟩, ⟨4, 1, 0, .ro, .core, .aon, .any⟩, ⟨5, 1, 0, .ro, .core, .aon, .any⟩]⟩,
  ⟨0x8080, 8, 4, [⟨0, 1, 0, .wo, .none, .aon, .any⟩]⟩,
  ⟨0x80A0, 1, 4, [⟨0, 4, 15, .stw, .nv, .aon, .lamp⟩, ⟨4, 4, 15, .stw, .nv, .aon, .lamp⟩, ⟨8, 4, 15, .stw, .nv, .aon, .lamp⟩, ⟨12, 4, 15, .stw, .nv, .aon, .lamp⟩]⟩]

/-- Rows of the RST block. -/
def regsRst : List RReg := [
  ⟨0x30000, 1, 4, [⟨0, 1, 0, .w1s, .none, .aon, .any⟩, ⟨1, 1, 0, .w1s, .none, .aon, .any⟩]⟩,
  ⟨0x30004, 1, 4, [⟨0, 3, 0, .ro, .bat, .aon, .any⟩, ⟨8, 5, 0, .ro, .bat, .aon, .any⟩]⟩,
  ⟨0x30008, 1, 4, [⟨0, 3, 0, .ro, .warm, .aon, .any⟩, ⟨3, 3, 0, .ro, .warm, .aon, .any⟩, ⟨6, 1, 0, .ro, .warm, .aon, .any⟩, ⟨7, 24, 0, .ro, .warm, .aon, .any⟩]⟩,
  ⟨0x3000C, 1, 4, [⟨0, 2, 0, .ro, .none, .aon, .any⟩]⟩,
  ⟨0x30010, 1, 4, [⟨0, 5, 13, .stw, .nv, .aon, .any⟩]⟩,
  ⟨0x30014, 1, 4, [⟨0, 32, 0, .stw, .nv, .aon, .any⟩]⟩,
  ⟨0x30018, 1, 4, [⟨0, 1, 0, .rw1c, .bat, .aon, .any⟩, ⟨1, 1, 0, .rw1c, .bat, .aon, .any⟩, ⟨2, 1, 0, .ro, .bat, .aon, .any⟩]⟩,
  ⟨0x3001C, 4, 4, [⟨0, 32, 0, .ro, .bat, .aon, .any⟩]⟩,
  ⟨0x30030, 1, 4, [⟨0, 1, 0, .ro, .warm, .aon, .any⟩, ⟨1, 1, 0, .ro, .warm, .aon, .any⟩, ⟨8, 8, 0, .ro, .warm, .aon, .any⟩]⟩,
  ⟨0x30034, 1, 4, [⟨0, 16, 0, .ro, .bat, .aon, .any⟩]⟩,
  ⟨0x30038, 1, 4, [⟨0, 2, 3, .ro, .warm, .aon, .any⟩, ⟨8, 24, 0, .ro, .warm, .aon, .any⟩]⟩,
  ⟨0x3003C, 1, 4, [⟨0, 1, 0, .ro, .core, .aon, .any⟩, ⟨1, 1, 0, .ro, .core, .aon, .any⟩, ⟨2, 1, 0, .ro, .core, .aon, .any⟩]⟩,
  ⟨0x30040, 1, 4, [⟨0, 1, 1, .stw, .nv, .aon, .any⟩]⟩]

/-- Rows of the HST block. -/
def regsHst : List RReg := [
  ⟨0xA000, 2, 4, [⟨0, 2, 3, .stw, .nv, .core, .any⟩]⟩,
  ⟨0xA008, 1, 4, [⟨0, 7, 0, .ro, .none, .core, .any⟩, ⟨8, 7, 0, .ro, .none, .core, .any⟩]⟩,
  ⟨0xA00C, 1, 4, [⟨0, 1, 0, .stw, .nv, .core, .any⟩]⟩,
  ⟨0xA010, 1, 4, [⟨0, 1, 1, .stw, .nv, .core, .any⟩]⟩,
  ⟨0xA014, 1, 4, [⟨0, 16, 0, .ro, .core, .core, .any⟩, ⟨16, 1, 0, .ro, .core, .core, .any⟩, ⟨24, 8, 0, .ro, .core, .core, .any⟩]⟩,
  ⟨0xA018, 1, 4, [⟨0, 20, 0, .stw, .nv, .core, .any⟩, ⟨31, 1, 0, .stw, .nv, .core, .any⟩]⟩,
  ⟨0xA01C, 1, 4, [⟨0, 9, 0, .ro, .none, .core, .any⟩, ⟨16, 4, 0, .ro, .none, .core, .any⟩, ⟨24, 6, 0, .ro, .none, .core, .any⟩]⟩,
  ⟨0xA020, 1, 4, [⟨0, 16, 0xFA0, .stw, .nv, .core, (.range 8 65535)⟩]⟩,
  ⟨0xA024, 1, 4, [⟨0, 1, 0, .rw1c, .core, .core, .any⟩, ⟨8, 8, 0, .ro, .core, .core, .any⟩, ⟨16, 8, 0, .ro, .core, .core, .any⟩]⟩,
  ⟨0xA028, 1, 4, [⟨0, 18, 0, .ro, .core, .core, .any⟩, ⟨18, 5, 0, .ro, .core, .core, .any⟩, ⟨23, 1, 0, .ro, .core, .core, .any⟩, ⟨24, 1, 0, .ro, .core, .core, .any⟩]⟩,
  ⟨0xA02C, 1, 4, [⟨0, 7, 82, .rw, .nv, .aon, .any⟩]⟩,
  ⟨0xA030, 1, 4, [⟨0, 2, 0, .ro, .none, .core, .any⟩, ⟨2, 2, 0, .ro, .none, .core, .any⟩, ⟨4, 2, 0, .ro, .none, .core, .any⟩, ⟨8, 8, 0, .ro, .none, .core, .any⟩]⟩,
  ⟨0xA040, 16, 4, [⟨0, 1, 0, .stw, .nv, .core, .any⟩, ⟨1, 1, 0, .stw, .nv, .core, .any⟩]⟩,
  ⟨0xA080, 16, 4, [⟨0, 20, 0, .stw, .nv, .core, .any⟩]⟩]

/-- Rows of the RNG block. -/
def regsRng0 : List RReg := [
  ⟨0xB080, 1, 4, [⟨12, 20, 0, .rw, .none, .core, .any⟩]⟩,
  ⟨0xB084, 1, 4, [⟨0, 32, 0, .rw, .none, .core, .any⟩]⟩,
  ⟨0xB088, 1, 4, [⟨0, 4, 0, .rw, .none, .core, .any⟩]⟩,
  ⟨0xB08C, 1, 4, [⟨0, 16, 0, .wo, .none, .core, .any⟩]⟩,
  ⟨0xB090, 1, 4, [⟨0, 16, 0, .ro, .none, .core, .any⟩, ⟨31, 1, 1, .ro, .none, .core, .any⟩]⟩,
  ⟨0xB094, 1, 4, [⟨0, 6, 0, .rw, .none, .core, .any⟩]⟩,
  ⟨0xB098, 1, 4, [⟨0, 16, 0, .rw, .none, .core, .any⟩]⟩,
  ⟨0xB09C, 1, 4, [⟨0, 16, 0, .ro, .none, .core, .any⟩]⟩,
  ⟨0xB000, 1, 4, [⟨12, 20, 0, .rw, .none, .core, .any⟩]⟩,
  ⟨0xB040, 1, 4, [⟨12, 20, 0, .rw, .none, .core, .any⟩]⟩,
  ⟨0xB004, 1, 4, [⟨0, 32, 0, .rw, .none, .core, .any⟩]⟩,
  ⟨0xB044, 1, 4, [⟨0, 32, 0, .rw, .none, .core, .any⟩]⟩,
  ⟨0xB008, 1, 4, [⟨0, 4, 0, .rw, .none, .core, .any⟩]⟩,
  ⟨0xB048, 1, 4, [⟨0, 4, 0, .rw, .none, .core, .any⟩]⟩,
  ⟨0xB00C, 1, 4, [⟨0, 32, 0, .wo, .none, .core, .any⟩]⟩,
  ⟨0xB04C, 1, 4, [⟨0, 32, 0, .wo, .none, .core, .any⟩]⟩,
  ⟨0xB010, 1, 4, [⟨0, 16, 0, .ro, .none, .core, .any⟩]⟩,
  ⟨0xB050, 1, 4, [⟨0, 16, 0, .ro, .none, .core, .any⟩]⟩,
  ⟨0xB014, 1, 4, [⟨12, 20, 0, .rw, .none, .core, .any⟩]⟩,
  ⟨0xB054, 1, 4, [⟨12, 20, 0, .rw, .none, .core, .any⟩]⟩,
  ⟨0xB018, 1, 4, [⟨0, 32, 0, .rw, .none, .core, .any⟩]⟩,
  ⟨0xB058, 1, 4, [⟨0, 32, 0, .rw, .none, .core, .any⟩]⟩,
  ⟨0xB01C, 1, 4, [⟨0, 4, 0, .rw, .none, .core, .any⟩]⟩,
  ⟨0xB05C, 1, 4, [⟨0, 4, 0, .rw, .none, .core, .any⟩]⟩]

/-- Rows of the RNG block. -/
def regsRng1 : List RReg := [
  ⟨0xB020, 1, 4, [⟨0, 32, 0, .wo, .none, .core, .any⟩]⟩,
  ⟨0xB060, 1, 4, [⟨0, 32, 0, .wo, .none, .core, .any⟩]⟩,
  ⟨0xB024, 1, 4, [⟨0, 16, 0, .ro, .none, .core, .any⟩, ⟨31, 1, 1, .ro, .none, .core, .any⟩]⟩,
  ⟨0xB064, 1, 4, [⟨0, 16, 0, .ro, .none, .core, .any⟩, ⟨31, 1, 1, .ro, .none, .core, .any⟩]⟩,
  ⟨0xB028, 1, 4, [⟨0, 6, 0, .rw, .none, .core, .any⟩, ⟨8, 8, 0, .rw, .none, .core, .any⟩, ⟨16, 8, 0, .rw, .none, .core, .any⟩]⟩,
  ⟨0xB068, 1, 4, [⟨0, 6, 0, .rw, .none, .core, .any⟩, ⟨8, 8, 0, .rw, .none, .core, .any⟩, ⟨16, 8, 0, .rw, .none, .core, .any⟩]⟩,
  ⟨0xB02C, 1, 4, [⟨0, 1, 0, .rw, .none, .core, .any⟩]⟩,
  ⟨0xB06C, 1, 4, [⟨0, 1, 0, .rw, .none, .core, .any⟩]⟩,
  ⟨0xB030, 1, 4, [⟨0, 2, 0, .ro, .none, .core, .any⟩, ⟨8, 1, 0, .rw1c, .none, .core, .any⟩, ⟨9, 1, 0, .rw1c, .none, .core, .any⟩]⟩,
  ⟨0xB070, 1, 4, [⟨0, 2, 0, .ro, .none, .core, .any⟩, ⟨8, 1, 0, .rw1c, .none, .core, .any⟩, ⟨9, 1, 0, .rw1c, .none, .core, .any⟩]⟩]

/-- Rows of the RNG block. -/
def regsRng : List RReg := regsRng0 ++ regsRng1

/-- Rows of the CPE block. -/
def regsCpe : List RReg := [
  ⟨0xC000, 32, 4, [⟨0, 1, 0, .stw, .nv, .core, .any⟩, ⟨8, 5, 16, .stw, .nv, .core, (.maxCode 16)⟩, ⟨16, 4, 0, .stw, .nv, .core, (.maxCode 12)⟩]⟩,
  ⟨0xC080, 32, 4, [⟨0, 4, 0, .ro, .core, .core, .any⟩, ⟨8, 6, 0, .ro, .core, .core, .any⟩, ⟨16, 1, 0, .ro, .core, .core, .any⟩]⟩,
  ⟨0xC100, 32, 4, [⟨5, 27, 0, .ro, .core, .core, .any⟩]⟩,
  ⟨0xC180, 32, 4, [⟨0, 32, 0, .ro, .core, .core, .any⟩]⟩,
  ⟨0xC200, 32, 8, [⟨0, 3, 0, .ro, .core, .core, .any⟩, ⟨3, 1, 0, .ro, .core, .core, .any⟩, ⟨4, 1, 0, .ro, .core, .core, .any⟩, ⟨8, 7, 0, .ro, .core, .core, .any⟩, ⟨16, 8, 0, .ro, .core, .core, .any⟩]⟩,
  ⟨0xC204, 32, 8, [⟨0, 16, 0, .ro, .core, .core, .any⟩, ⟨16, 8, 0, .ro, .core, .core, .any⟩]⟩,
  ⟨0xC300, 32, 4, [⟨4, 28, 0, .ro, .core, .core, .any⟩]⟩,
  ⟨0xC380, 32, 4, [⟨0, 32, 0, .ro, .core, .core, .any⟩]⟩,
  ⟨0xC400, 32, 4, [⟨0, 16, 0, .ro, .warm, .aon, .any⟩]⟩,
  ⟨0xC480, 32, 4, [⟨0, 32, 0, .wo, .none, .core, .any⟩]⟩]

/-- Rows of the CCH block. -/
def regsCch : List RReg := [
  ⟨0xD000, 1, 4, [⟨0, 1, 1, .stw, .nv, .core, .any⟩]⟩,
  ⟨0xD004, 1, 4, [⟨0, 1, 0, .w1s, .none, .core, .any⟩, ⟨1, 1, 0, .w1s, .none, .core, .any⟩, ⟨2, 1, 0, .w1s, .none, .core, .any⟩]⟩,
  ⟨0xD008, 1, 4, [⟨0, 9, 0, .ro, .core, .core, .any⟩, ⟨9, 3, 0, .ro, .core, .core, .any⟩, ⟨12, 1, 0, .ro, .core, .core, .any⟩, ⟨13, 1, 0, .ro, .core, .core, .any⟩, ⟨16, 16, 0, .ro, .core, .core, .any⟩]⟩,
  ⟨0xD00C, 1, 4, [⟨0, 32, 0, .ro, .core, .core, .any⟩]⟩,
  ⟨0xD010, 1, 4, [⟨0, 32, 0, .ro, .core, .core, .any⟩]⟩,
  ⟨0xD014, 1, 4, [⟨0, 32, 0, .ro, .core, .core, .any⟩]⟩,
  ⟨0xD018, 1, 4, [⟨0, 17, 0, .ro, .warm, .aon, .any⟩, ⟨24, 3, 0, .ro, .warm, .aon, .any⟩]⟩]

/-- Rows of the BMV block. -/
def regsBmv : List RReg := [
  ⟨0xE000, 16, 4, [⟨0, 1, 0, .stw, .nv, .core, .any⟩, ⟨1, 2, 0, .stw, .nv, .core, .any⟩, ⟨8, 5, 16, .stw, .nv, .core, (.maxCode 16)⟩]⟩,
  ⟨0xE040, 16, 4, [⟨0, 3, 0, .ro, .core, .core, .any⟩, ⟨3, 1, 0, .ro, .core, .core, .any⟩, ⟨4, 1, 0, .rw1c, .core, .core, .any⟩, ⟨5, 1, 0, .ro, .core, .core, .any⟩, ⟨8, 7, 0, .ro, .core, .core, .any⟩]⟩,
  ⟨0xE080, 16, 4, [⟨0, 32, 0, .ro, .core, .core, .any⟩]⟩,
  ⟨0xE0C0, 16, 4, [⟨6, 26, 0, .ro, .core, .core, .any⟩]⟩,
  ⟨0xE100, 16, 4, [⟨0, 32, 0, .ro, .core, .core, .any⟩]⟩,
  ⟨0xE140, 16, 4, [⟨12, 20, 0, .ro, .core, .core, .any⟩]⟩,
  ⟨0xE180, 16, 4, [⟨0, 32, 0, .ro, .core, .core, .any⟩]⟩,
  ⟨0xE1C0, 16, 4, [⟨0, 4, 0, .ro, .core, .core, .any⟩, ⟨8, 6, 0, .ro, .core, .core, .any⟩, ⟨16, 1, 0, .ro, .core, .core, .any⟩]⟩,
  ⟨0xE200, 16, 4, [⟨0, 12, 0, .ro, .core, .core, .any⟩, ⟨16, 12, 0, .ro, .core, .core, .any⟩, ⟨31, 1, 0, .ro, .core, .core, .any⟩]⟩,
  ⟨0xE240, 16, 4, [⟨0, 32, 0, .ro, .core, .core, .any⟩]⟩,
  ⟨0xE280, 16, 4, [⟨0, 32, 0, .ro, .core, .core, .any⟩]⟩,
  ⟨0xE2C0, 16, 4, [⟨0, 3, 0, .ro, .core, .core, .any⟩, ⟨8, 8, 0, .ro, .core, .core, .any⟩, ⟨16, 16, 0, .ro, .core, .core, .any⟩]⟩,
  ⟨0xE300, 16, 4, [⟨0, 16, 0, .wo, .none, .core, .any⟩]⟩,
  ⟨0xE400, 1, 4, [⟨0, 1, 0, .ro, .core, .core, .any⟩]⟩,
  ⟨0xE404, 1, 4, [⟨0, 32, 0, .ro, .core, .core, .any⟩]⟩,
  ⟨0xE408, 1, 4, [⟨0, 32, 0, .ro, .core, .core, .any⟩]⟩,
  ⟨0xE40C, 1, 4, [⟨0, 20, 0, .ro, .core, .core, .any⟩, ⟨24, 1, 0, .ro, .core, .core, .any⟩, ⟨25, 3, 0, .ro, .core, .core, .any⟩]⟩,
  ⟨0xE500, 16, 4, [⟨0, 8, 255, .stw, .nv, .core, .owner⟩, ⟨8, 8, 255, .stw, .nv, .core, .owner⟩, ⟨16, 8, 255, .stw, .nv, .core, .owner⟩, ⟨24, 8, 255, .stw, .nv, .core, .owner⟩]⟩]

/-- Rows of the DPT block. -/
def regsDpt : List RReg := [
  ⟨0x10000, 6, 4, [⟨0, 1, 0, .stw, .nv, .core, .any⟩, ⟨1, 2, 1, .stw, .nv, .core, (.maxCode 2)⟩, ⟨3, 1, 1, .stw, .nv, .core, .any⟩, ⟨4, 1, 0, .stw, .nv, .core, .any⟩]⟩,
  ⟨0x10018, 2, 4, [⟨0, 1, 0, .stw, .nv, .core, .any⟩, ⟨1, 1, 1, .stw, .nv, .core, .any⟩, ⟨8, 9, 40, .stw, .nv, .core, (.range 40 500)⟩, ⟨20, 9, 125, .stw, .nv, .core, (.range 125 500)⟩]⟩,
  ⟨0x10020, 1, 4, [⟨0, 1, 1, .stw, .nv, .core, .any⟩, ⟨1, 2, 1, .stw, .nv, .core, .any⟩, ⟨3, 2, 0, .stw, .nv, .core, (.maxCode 2)⟩, ⟨5, 1, 0, .stw, .nv, .core, .any⟩, ⟨8, 9, 20, .stw, .nv, .core, (.range 5 500)⟩]⟩,
  ⟨0x10024, 1, 4, [⟨0, 1, 0, .stw, .nv, .core, .any⟩, ⟨1, 2, 1, .stw, .nv, .core, .any⟩, ⟨3, 2, 0, .stw, .nv, .core, (.maxCode 2)⟩, ⟨5, 1, 0, .stw, .nv, .core, .any⟩, ⟨8, 9, 20, .stw, .nv, .core, (.range 5 500)⟩]⟩,
  ⟨0x10028, 2, 4, [⟨0, 1, 0, .stw, .nv, .core, .any⟩, ⟨1, 1, 0, .stw, .nv, .core, .any⟩, ⟨2, 2, 0, .stw, .nv, .core, (.maxCode 2)⟩, ⟨4, 1, 0, .stw, .nv, .core, .any⟩, ⟨5, 1, 0, .stw, .nv, .core, .any⟩, ⟨12, 20, 0x21E9, .stw, .nv, .core, (.range 83 1048575)⟩]⟩,
  ⟨0x10030, 1, 4, [⟨0, 1, 1, .stw, .nv, .core, .any⟩]⟩,
  ⟨0x10040, 13, 4, [⟨0, 1, 0, .ro, .core, .core, .any⟩, ⟨1, 5, 0, .ro, .core, .core, .any⟩, ⟨6, 1, 0, .ro, .core, .core, .any⟩, ⟨7, 1, 0, .ro, .core, .core, .any⟩]⟩,
  ⟨0x10080, 2, 4, [⟨0, 7, 0, .ro, .core, .core, .any⟩, ⟨8, 8, 0, .ro, .core, .core, .any⟩, ⟨16, 8, 0, .ro, .core, .core, .any⟩, ⟨24, 1, 0, .rw1c, .core, .core, .any⟩]⟩,
  ⟨0x10090, 2, 4, [⟨0, 24, 0x7D00, .stw, .nv, .core, (.range 8 16777215)⟩]⟩,
  ⟨0x10100, 4, 32, [⟨0, 1, 0, .ro, .core, .core, .any⟩, ⟨1, 1, 0, .ro, .core, .core, .any⟩, ⟨2, 3, 0, .ro, .core, .core, .any⟩, ⟨8, 4, 0, .ro, .core, .core, .any⟩, ⟨12, 3, 0, .ro, .core, .core, .any⟩, ⟨16, 5, 0, .ro, .core, .core, .any⟩]⟩,
  ⟨0x10104, 4, 32, [⟨0, 6, 0, .ro, .core, .core, .any⟩]⟩,
  ⟨0x10108, 4, 32, [⟨0, 8, 0, .ro, .core, .core, .any⟩, ⟨8, 8, 0, .ro, .core, .core, .any⟩, ⟨16, 8, 0, .ro, .core, .core, .any⟩, ⟨24, 8, 0, .ro, .core, .core, .any⟩]⟩,
  ⟨0x1010C, 4, 32, [⟨0, 8, 0, .ro, .core, .core, .any⟩, ⟨8, 8, 0, .ro, .core, .core, .any⟩, ⟨16, 8, 0, .ro, .core, .core, .any⟩, ⟨24, 8, 0, .ro, .core, .core, .any⟩]⟩,
  ⟨0x10110, 4, 32, [⟨0, 16, 0, .ro, .core, .core, .any⟩, ⟨16, 16, 0, .ro, .core, .core, .any⟩]⟩,
  ⟨0x10114, 4, 32, [⟨0, 16, 0, .ro, .core, .core, .any⟩, ⟨16, 8, 0, .ro, .core, .core, .any⟩]⟩,
  ⟨0x10200, 32, 4, [⟨0, 1, 0, .stw, .nv, .core, .any⟩, ⟨1, 1, 0, .stw, .nv, .core, .any⟩, ⟨2, 2, 0, .stw, .nv, .core, (.maxCode 2)⟩, ⟨4, 2, 0, .stw, .nv, .core, .any⟩]⟩,
  ⟨0x10280, 8, 4, [⟨0, 8, 16, .stw, .nv, .core, .owner⟩, ⟨8, 8, 16, .stw, .nv, .core, .owner⟩, ⟨16, 8, 16, .stw, .nv, .core, .owner⟩, ⟨24, 8, 16, .stw, .nv, .core, .owner⟩]⟩,
  ⟨0x102A0, 1, 4, [⟨0, 32, 0, .ro, .none, .core, .any⟩]⟩,
  ⟨0x102A4, 1, 4, [⟨0, 32, 0, .ro, .core, .aon, .any⟩]⟩]

/-- Rows of the CRD block. -/
def regsCrd : List RReg := [
  ⟨0x9000, 2, 16, [⟨0, 1, 1, .stw, .nv, .core, .any⟩, ⟨1, 3, 7, .stw, .nv, .core, (.range 1 7)⟩, ⟨4, 1, 0, .stw, .nv, .core, .any⟩, ⟨5, 1, 1, .stw, .nv, .core, .any⟩, ⟨6, 1, 1, .stw, .nv, .core, .any⟩, ⟨7, 1, 1, .stw, .nv, .core, .any⟩, ⟨8, 1, 1, .stw, .nv, .core, .any⟩, ⟨9, 1, 1, .stw, .nv, .core, .any⟩, ⟨12, 3, 3, .stw, .nv, .core, (.range 0 4)⟩, ⟨16, 8, 80, .stw, .nv, .core, (.range 8 255)⟩, ⟨24, 8, 254, .stw, .nv, .core, (.range 32 254)⟩]⟩,
  ⟨0x9004, 2, 16, [⟨0, 9, 125, .stw, .nv, .core, (.range 100 500)⟩, ⟨16, 9, 100, .stw, .nv, .core, (.range 25 500)⟩]⟩,
  ⟨0x9008, 2, 16, [⟨0, 16, 0x3E8, .stw, .nv, .core, (.range 400 40000)⟩, ⟨16, 16, 80, .stw, .nv, .core, (.range 8 65535)⟩]⟩,
  ⟨0x9020, 2, 4, [⟨0, 3, 0, .ro, .core, .core, .any⟩, ⟨3, 1, 0, .ro, .core, .aon, .any⟩, ⟨4, 6, 0, .ro, .core, .core, .any⟩, ⟨12, 3, 0, .ro, .core, .aon, .any⟩, ⟨16, 5, 0, .ro, .core, .core, .any⟩]⟩,
  ⟨0x9030, 2, 16, [⟨0, 2, 3, .ro, .core, .core, .any⟩, ⟨2, 1, 0, .ro, .core, .core, .any⟩, ⟨4, 4, 0, .ro, .core, .core, .any⟩, ⟨8, 4, 0, .ro, .core, .core, .any⟩, ⟨16, 8, 0, .ro, .core, .core, .any⟩]⟩,
  ⟨0x9034, 2, 16, [⟨0, 9, 0, .ro, .core, .core, .any⟩, ⟨16, 16, 0, .ro, .core, .core, .any⟩]⟩,
  ⟨0x9038, 2, 16, [⟨0, 32, 0, .ro, .core, .core, .any⟩]⟩,
  ⟨0x9050, 18, 4, [⟨0, 32, 0, .ro, .core, .core, .any⟩]⟩,
  ⟨0x90A0, 5, 4, [⟨0, 32, 0xFFFFFFFF, .ro, .core, .core, .any⟩]⟩,
  ⟨0x90B4, 1, 4, [⟨0, 16, 0, .ro, .core, .core, .any⟩, ⟨16, 1, 0, .ro, .core, .core, .any⟩]⟩,
  ⟨0x90B8, 1, 4, [⟨0, 32, 0, .ro, .core, .core, .any⟩]⟩,
  ⟨0x90C0, 5, 4, [⟨0, 32, 0xFFFFFFFF, .ro, .core, .core, .any⟩]⟩,
  ⟨0x90D4, 1, 4, [⟨0, 16, 0, .ro, .core, .core, .any⟩, ⟨16, 1, 0, .ro, .core, .core, .any⟩]⟩,
  ⟨0x90D8, 1, 4, [⟨0, 32, 0, .ro, .core, .core, .any⟩]⟩,
  ⟨0x90E0, 1, 4, [⟨0, 16, 0, .stw, .nv, .core, .any⟩]⟩,
  ⟨0x90E4, 1, 4, [⟨0, 16, 0x1F40, .stw, .nv, .core, (.range 1 65535)⟩]⟩,
  ⟨0x90E8, 1, 4, [⟨0, 5, 0, .stw, .nv, .core, (.range 0 16)⟩]⟩,
  ⟨0x90F0, 4, 4, [⟨0, 32, 0, .stw, .nv, .core, .any⟩]⟩,
  ⟨0x9100, 2, 4, [⟨0, 9, 0, .ro, .core, .core, .any⟩, ⟨31, 1, 0, .ro, .core, .core, .any⟩]⟩]

/-- Rows of the VF BAR0 block. -/
def regsVf : List RReg := [
  ⟨0x0, 1, 4, [⟨12, 20, 0, .rw, .none, .core, .any⟩]⟩,
  ⟨0x4, 1, 4, [⟨0, 32, 0, .rw, .none, .core, .any⟩]⟩,
  ⟨0x8, 1, 4, [⟨0, 4, 0, .rw, .none, .core, .any⟩]⟩,
  ⟨0xC, 1, 4, [⟨0, 32, 0, .wo, .none, .core, .any⟩]⟩,
  ⟨0x10, 1, 4, [⟨0, 16, 0, .ro, .none, .core, .any⟩]⟩,
  ⟨0x14, 1, 4, [⟨12, 20, 0, .rw, .none, .core, .any⟩]⟩,
  ⟨0x18, 1, 4, [⟨0, 32, 0, .rw, .none, .core, .any⟩]⟩,
  ⟨0x1C, 1, 4, [⟨0, 4, 0, .rw, .none, .core, .any⟩]⟩,
  ⟨0x20, 1, 4, [⟨0, 32, 0, .wo, .none, .core, .any⟩]⟩,
  ⟨0x24, 1, 4, [⟨0, 16, 0, .ro, .none, .core, .any⟩, ⟨31, 1, 1, .ro, .none, .core, .any⟩]⟩,
  ⟨0x28, 1, 4, [⟨0, 6, 0, .rw, .none, .core, .any⟩, ⟨8, 8, 0, .rw, .none, .core, .any⟩, ⟨16, 8, 0, .rw, .none, .core, .any⟩]⟩,
  ⟨0x2C, 1, 4, [⟨0, 1, 0, .rw, .none, .core, .any⟩]⟩,
  ⟨0x30, 1, 4, [⟨0, 2, 0, .ro, .none, .core, .any⟩, ⟨8, 1, 0, .rw1c, .none, .core, .any⟩, ⟨9, 1, 0, .rw1c, .none, .core, .any⟩]⟩,
  ⟨0x1800, 1, 4, [⟨0, 1, 0, .w1s, .none, .aon, .any⟩, ⟨1, 1, 0, .w1s, .none, .aon, .any⟩, ⟨2, 1, 0, .w1s, .none, .aon, .any⟩]⟩,
  ⟨0x1804, 1, 4, [⟨0, 9, 0, .ro, .none, .aon, .any⟩, ⟨9, 1, 0, .ro, .none, .aon, .any⟩, ⟨16, 16, 0, .ro, .none, .aon, .any⟩]⟩,
  ⟨0x1808, 1, 4, [⟨0, 8, 0, .rw, .none, .aon, .any⟩, ⟨8, 1, 0, .rw, .none, .aon, .any⟩]⟩,
  ⟨0x180C, 1, 4, [⟨0, 16, 0, .ro, .none, .aon, .any⟩, ⟨31, 1, 0, .ro, .none, .aon, .any⟩]⟩,
  ⟨0x1810, 1, 4, [⟨0, 32, 0, .ro, .none, .aon, .any⟩]⟩,
  ⟨0x1814, 1, 4, [⟨0, 2, 0, .ro, .none, .aon, .any⟩, ⟨8, 8, 0, .ro, .none, .aon, .any⟩, ⟨16, 16, 0, .ro, .none, .aon, .any⟩]⟩]

/-- Rows of the MSI-X tables block. -/
def regsMsix : List RReg := [
  ⟨0x0, 64, 16, [⟨2, 30, 0, .rw, .none, .core, .any⟩]⟩,
  ⟨0x4, 64, 16, [⟨0, 32, 0, .rw, .none, .core, .any⟩]⟩,
  ⟨0x8, 64, 16, [⟨0, 32, 0, .rw, .none, .core, .any⟩]⟩,
  ⟨0xC, 64, 16, [⟨0, 1, 1, .rw, .none, .core, .any⟩]⟩,
  ⟨0x2000, 2, 4, [⟨0, 32, 0, .ro, .none, .core, .any⟩]⟩]

/-- The rows of the window that holds offset `off` of Owner BAR0 (Table 1-3). -/
def blockRows (off : Nat) : List RReg :=
  if off < 0x1000 then regsGlb else if off < 0x2000 then regsFrm else if off < 0x3000 then regsChr
  else if off < 0x3800 then regsJnl else if off < 0x4000 then regsSnt else if off < 0x6000 then regsPsq
  else if off < 0x7000 then regsSup else if off < 0x7800 then regsThm else if off < 0x8000 then regsAdm
  else if off < 0x9000 then regsLmp else if off < 0xA000 then regsCrd else if off < 0xB000 then regsHst
  else if off < 0xC000 then regsRng else if off < 0xD000 then regsCpe else if off < 0xE000 then regsCch
  else if off < 0x10000 then regsBmv else if off < 0x20000 then regsDpt
  else if off < 0x30000 then [] else if off < 0x40000 then regsRst else []

/-- Does row `r` hold a register at `off`? -/
def RReg.covers (r : RReg) (off : Nat) : Bool :=
  decide (r.base ≤ off) && (off - r.base) % r.stride == 0 && decide ((off - r.base) / r.stride < r.cnt)

/-- The row of key `off`: an Owner BAR0 offset, or a VF BAR0 offset above `vfBase 0`. -/
def findReg (off : Nat) : Option RReg :=
  if off < 0x100000 then (blockRows off).find? (·.covers off)
  else if off < vfBase 16 then regsVf.find? (·.covers ((off - vfBase 0) % 0x4000))
  else if 0x200000 ≤ off && off < 0x388000 then regsMsix.find? (·.covers (off % 0x4000))
  else none

/-- The fields of the register at key `off` (none: reserved, R9). -/
def fieldsAt (off : Nat) : List RField :=
  match findReg off with
  | some r => r.fields
  | none => []

/-- The Reset value of the register at key `off` (R13).
(Log: DESIGN CHOICE 8; PRESUMED 10; DEDUCED 45) -/
def resetWord (off : Nat) : Word :=
  (fieldsAt off).foldl (fun w f => withField w f.lo f.w f.rst) 0

/-- Does the 13-bit temperature `v` lie between -40.0 and +150.0 degrees, in sixteenths? -/
def tempInRange (v : Nat) : Bool :=
  decide (-640 ≤ signedOf 13 v) && decide (signedOf 13 v ≤ 2400)

/-- Is `v` an encoding the manual does not reserve (rule 2 of Table 7-1, R10)? -/
def notReserved (c : Chk) (v : Nat) : Bool :=
  match c with
  | .maxCode m => decide (v ≤ m)
  | .owner => decide (v ≤ 16) || v == 255
  | .lamp => decide (v ≤ 7) || v == 15
  | _ => true

/-- Does `v` lie within the field's range (rule 3 of Table 7-1)? -/
def inRange (c : Chk) (v : Nat) : Bool :=
  match c with
  | .range lo hi => decide (lo ≤ v) && decide (v ≤ hi)
  | .temp => tempInRange v
  | _ => true

/-- Is a field of this access code written through a stage? -/
def Acc.staged : Acc → Bool
  | .sto | .stw | .stp => true
  | _ => false

end Sys2Proof.Machine
end

