-- ==== Sys2Proof/Machine/State.lean ====
section
/-!
DEFINITION. The state of the block, as plain data: the register file, every block's internal state, the store, the pins,
what the block has sent out, and the queue of waiting commands.
-/

namespace Sys2Proof.Machine

/-! ## Timebase (chapter 02) -/

/-- The frame timer, the crystal discipline and the real-time clock.
(Log: DESIGN CHOICE 66) -/
structure Timebase where
  /-- the 40-bit frame number (R31) -/
  frame    : BitVec 40
  /-- ticks since the model's start: the model's own measure of durations (R48) -/
  ticks    : Nat
  /-- the subframe of the latest stamp (R51) -/
  sub      : BitVec 10
  /-- how many phases the current frame completes (R42) -/
  done     : Nat
  /-- a command of the coming tick's phase 1 has run: stamps are the coming tick's (R38, R51) -/
  early    : Bool
  /-- consecutive overrun frames (R45), and those the Sentinel watchdog has counted since it started (R46) -/
  runLen   : Nat
  wdRun    : Nat
  /-- `d` of the current frame (R28) -/
  d        : Int
  /-- AON cycles by which the ticks lead or lag the crystal: what `d` has not absorbed yet (R28) -/
  resid    : Int
  /-- AON cycles by which the frames of the running window have been seen to exceed 4,096 crystal-timed cycles (R28) -/
  win      : Int
  /-- consecutive good windows (R29) -/
  goodWins : Nat
  /-- the last timestamp before a wrap whose record is due (R35) -/
  wrapFrom : Option Nat
  /-- captures of the timestamp's upper half, per reading function (R36) -/
  tsCaps   : List (ReadFn × Nat)
  /-- captures of the pairs of R433 -/
  pairCaps : List (ReadFn × CapPair × Nat)
  /-- the real-time clock's 48-bit count on VBAT (R32) -/
  rtc      : BitVec 48
  /-- crystal edges stopped in VAULT: the count is not used (R33) -/
  rtcStopped : Bool
  /-- the frame saved in the real-time clock's entry record (R33) -/
  rtcSaved : BitVec 40
  deriving DecidableEq, Repr

/-! ## Records and the store (chapter 07) -/

/-- An event record before it is written (Table 7-8). -/
structure Ev where
  origin  : Nat
  code    : Nat
  subject : Nat
  a0 : Nat
  a1 : Nat
  a2 : Nat
  a3 : Nat
  a4 : Nat
  ts      : Nat
  /-- it goes to the Event Log only (R339) -/
  logOnly : Bool
  deriving DecidableEq, Repr

/-- A journal item (Table 7-6). -/
structure JItem where
  off  : Nat
  mask : Word
  old  : Word
  new  : Word
  deriving DecidableEq, Repr

/-- Journal entry kinds (Table 7-6). -/
inductive JKind where
  | commit | revert | authOpen | authClose | rollbackRaise | init
  deriving DecidableEq, Repr

/-- Who waits for a COMMIT's outcome: a command by its tag, or CHR_CTL of Owner BAR0 (R436). -/
inductive CommitFrom where
  | cmd (tag : Nat)
  | reg
  /-- nobody any more: its command was reset -/
  | none
  /-- no COMMIT: a change that is journalled by itself -/
  | change
  deriving DecidableEq, Repr

/-- A journal entry before it is written. -/
structure JEntry where
  origin : Nat
  kind   : JKind
  prot   : Bool
  viStage : Bool
  cause  : Nat
  items  : List JItem
  ts     : Nat
  fromC  : CommitFrom
  deriving DecidableEq, Repr

/-- The states of R179 that the store itself knows. -/
inductive RecSt where
  | valid | abandoned | corrupt | unreadable
  deriving DecidableEq, Repr

/-- Where a record lies in its ring: its SEQ, its byte position and its LEN. -/
structure Rec where
  seq   : Nat
  pos   : Nat
  len   : Nat
  deriving DecidableEq, Repr

/-- One stream (R180): its records, oldest first, the next SEQ and the write position. -/
structure Stream where
  recs : List Rec
  next : BitVec 32
  wr   : Nat
  deriving DecidableEq, Repr

/-- One copy of the NV settings image (R186): its tag and the NV registers that differ from their Reset values. -/
structure NvCopy where
  tag   : Nat
  regs  : List (Nat × Word)
  deriving DecidableEq, Repr

/-- One copy of the directory (Table 7-2, R424): the layout version and the checkpoints, each the SEQ from which the next scan
of a ring starts. -/
structure Dir where
  version : Nat
  journal : Nat
  log     : Nat
  snaps   : Nat
  deriving DecidableEq, Repr

/-- A captured snapshot waiting for its slot (R128). -/
structure Snap where
  cause   : Nat
  subject : Nat
  ts      : Nat
  bytes   : List Byte
  /-- the tag of the SNAPSHOT command that waits for the SEQ, if any -/
  tag     : Option Nat
  deriving DecidableEq, Repr

/-- The MRAM store and what waits to be written to it. Areas of Table 7-2 whose bytes the spec does not lay out are held as what
they mean: the directory, the NV copies, the patch and the private state. -/
structure Store where
  /-- the bytes of the rings by MRAM offset (Table 7-2): those that are not 0, by rising offset -/
  mem     : List (Nat × Byte)
  /-- the 64-bit words, by number, whose ECC finds an uncorrectable error (R176) -/
  ecc     : List Nat
  /-- the two copies of the directory; none is a blank copy -/
  dirA    : Option Dir
  dirB    : Option Dir
  jq      : List JEntry
  evq     : List Ev
  /-- timestamp of the first record lost since the last EVENT_DROP (R184) -/
  lostTs  : Nat
  journal : Stream
  log     : Stream
  snaps   : Stream
  /-- NV copies A and B, and the one last used (R186) -/
  nvA     : NvCopy
  nvB     : NvCopy
  lastB   : Bool
  snap    : Option Snap
  /-- a collapse has struck (R127) -/
  collapsed : Bool
  deriving DecidableEq, Repr

/-! ## Power sequencing and the Swarm line (chapter 03) -/

/-- What the sequencer and the supervisor keep of one rail beside its registers. -/
structure Rail where
  /-- the sequence started this rail (R63) -/
  started : Bool
  /-- its common start (R55), and whether it has had one since the reset (R83) -/
  start   : Nat
  had     : Bool
  /-- end of the off-delay, and of the rise or fall timeout -/
  offEnd  : Nat
  tmoEnd  : Nat
  /-- takes part in the running shutdown (R64) -/
  part    : Bool
  /-- the tick after EN went high (R95) -/
  enTick  : Nat
  /-- consecutive frames: OV and UV warning outside, and inside by the hysteresis (R90) -/
  ovSet   : Nat
  ovClr   : Nat
  uvSet   : Nat
  uvClr   : Nat
  /-- consecutive frames above OV_FLT and below UV_FLT (R91) -/
  ovFlt   : Nat
  uvFlt   : Nat
  /-- a FLAG fault drives EN low in the next phase 4 (R97) -/
  flagDue : Bool
  /-- faults declared in hardware with their latched timestamps, to be recorded in the next phase 3 (Table 4-3) -/
  hwDue   : List (RailCross × Nat)
  deriving DecidableEq, Repr

/-- The sequencer. -/
structure Seq where
  /-- the power-on command is pending (R55) -/
  powerOn   : Bool
  /-- rails have been started and their sequence has not completed (R63) -/
  starting  : Bool
  /-- the shutdown that runs is the teardown of R60 -/
  teardown  : Bool
  /-- end of the cool-down -/
  coolEnd   : Nat
  /-- LOCKOUT ends when the busbar returns after an absence (R69) -/
  absentSeen : Bool
  /-- the shutdown began by the power-off command (R108) -/
  byCommand : Bool
  deriving DecidableEq, Repr

/-- A pulse the leader drives. -/
inductive Pulse where
  | advance | resync | beacon
  deriving DecidableEq, Repr

/-- The Swarm line. -/
structure Swarm where
  /-- Gorros drives SWARM low for a claim, and the tick from which it may release (R73, R74) -/
  claimed   : Bool
  claimTick : Nat
  /-- a claim fell due during the leader's beacon (R78) -/
  claimDue  : Bool
  /-- the line's level at the last sample, and the tick of the last change -/
  high      : Bool
  since     : Nat
  /-- the origin tick of a hold that may run: the tick after the edge that opened its claim window (R72, R80) -/
  holdFrom  : Option Nat
  /-- claiming and counting stopped by a desync, fallback in force (R83) -/
  fellBack  : Bool
  /-- a beacon is being received (R72, R78) -/
  receiving : Bool
  /-- tick of the last valid beacon or of the Cold reset (R81, R83) -/
  lastBeacon : Nat
  /-- next beacon falls due at this tick (R78) -/
  beaconAt  : Nat
  /-- a resync is requested (R77), a rejoin is armed (R84) -/
  resyncReq : Bool
  rejoin    : Bool
  /-- the leader's pulse and the tick at which it ends -/
  pulse     : Option (Pulse × Nat)
  /-- STUCK was set for this hold (R80) -/
  stuckDone : Bool
  /-- NOBEACON was set for this silence (R83) -/
  noBeaconDone : Bool
  /-- a missed entry waits for its catch-up (R85) -/
  missDue   : Bool
  deriving DecidableEq, Repr

/-! ## Supervision, hot-swap front end, ledger and Cocoon (chapter 04) -/

/-- One busbar event class (R112). -/
structure BusEv where
  open_   : Bool
  frames  : Nat
  extreme : Nat
  ein     : Int
  run     : Nat
  deriving DecidableEq, Repr

/-- The fast path's accumulators, in products and sums of codes (R88, R106, R111). -/
structure FastAcc where
  /-- energy since the last completed phase 3 (R110), and of the running frame -/
  raw      : Int
  frameRaw : Int
  /-- BULK_VS codes of the running frame: their sum and count; and the frame's extremes -/
  sum    : Nat
  cnt    : Nat
  busLo  : Nat
  busHi  : Nat
  bulkLo : Nat
  bulkHi : Nat
  /-- the interlock's partial bin and its complete bins, newest first (R111) -/
  part   : Int
  bins   : List Int
  /-- the FET energy sum (R106) -/
  soa    : Int
  /-- the sum of the first sample that crossed SUP_ILKCFG.LIMIT, or SUP_HSSOA, until the trip answers it -/
  ilkHit : Option Int
  soaHit : Option Int
  deriving DecidableEq, Repr

/-- The supervisor's state beside its registers. -/
structure Sup where
  /-- latest readings (R89): VS in rail mV are in SUP_RAILSTAT; the rest here -/
  isMa     : List Nat
  busVs    : Nat
  bulkVs   : Nat
  shunt    : Int
  cocVs    : Nat
  staleVs  : Nat
  staleOther : Nat
  busMin   : Nat
  busMax   : Nat
  bulkMin  : Nat
  bulkMax  : Nat
  /-- the rotation's position, frames the due item was displaced, the item converted and its reading -/
  rot      : Nat
  displaced : Nat
  rotItem  : Nat
  rotVal   : Nat
  /-- on-demand requests: item and the command's tag (R89) -/
  adcReq   : List (Nat × Nat)
  /-- a calibration is requested for a converter by a command (R39) -/
  calReq   : Option (Nat × Nat)
  /-- PFW_N asserted; the assertion is only predictive (R115) -/
  pfw      : Bool
  pfwPred  : Bool
  /-- a rail fault is latched (R96, R108) -/
  latched  : Bool
  /-- the lead time runs to this tick (R96) -/
  leadEnd  : Option Nat
  /-- its shutdown's cause: RAIL_FAULT or THERMAL_CRIT -/
  leadCause : Nat
  /-- PG0-PG23 after their glitch filters at the last phase 3 -/
  pg       : Nat
  /-- consecutive frames of R103 -/
  presRun  : Nat
  absRun   : Nat
  /-- CHARGING: end of CHG_TMO; frames with the gate at full; frames of limiting (R104, R105) -/
  chgEnd   : Nat
  gateRun  : Nat
  limRun   : Nat
  /-- frames the front end has been ON (R114) -/
  onRun    : Nat
  /-- the fast path (R88), and the mean of its BULK_VS samples over the last frame in mV (R109) -/
  fast     : FastAcc
  vbulk    : Nat
  /-- ledger history: (E_in in uJ, P_load in mW, frames covered), newest first (R109, R110) -/
  hist     : List (Int × Int × Nat)
  /-- E_bulk of the last completed phase 3, and whether there is one -/
  ebulk    : Nat
  /-- E_in of the last frame alone, in products of codes, and frames since the last completed phase 3 (R110) -/
  lastRaw  : Int
  accFrames : Nat
  /-- P_draw in mW, also where it is negative (R144) -/
  draw     : Int
  /-- running sum of E_in in uJ since the last Warm reset -/
  etot     : Int
  evs      : List BusEv
  /-- shelf inputs: consecutive frames low or high against the counted level (R113) -/
  warnRun  : Nat
  failRun  : Nat
  /-- discharge: origin tick, frames under the limits, and whether one has passed since the FET turned off (R118) -/
  disFrom  : Nat
  disRun   : Nat
  disDone  : Bool
  /-- the limits were met while BULK_SENSE was latched (R120) -/
  disOk    : Bool
  /-- COC_CHG held off by OVERCAP (R123) -/
  ovHold   : Bool
  /-- the snapshot trigger that waits for the next phase 3: cause, subject and the tag of a SNAPSHOT command (R128) -/
  snapReq  : Option (Nat × Nat × Option Nat)
  deriving DecidableEq, Repr

/-! ## Temperature and throttling (chapter 05) -/

/-- One alarm's counts (R141) and whether its clearing condition has been met since it set (R142). -/
structure Alarm where
  setRun : Nat
  clrRun : Nat
  on     : Bool
  deriving DecidableEq, Repr

/-- THM beside its registers. -/
structure Thm where
  /-- conversions of the running frame: sum (1/16 degree), count, and whether one failed; and those of the frame before (R134) -/
  sum   : Int
  cnt   : Nat
  bad   : Bool
  lastSum : Int
  lastCnt : Nat
  lastBad : Bool
  /-- decoded remote values (1/16 degree), and the ticks at which the limits of those posted end (R138, R139) -/
  remote : List Int
  limit  : List (Option Nat)
  /-- remotes judged stale whose record is due (R139) -/
  staleRec : List Nat
  warn  : List Alarm
  crit  : List Alarm
  deriving DecidableEq, Repr

/-! ## Admission (chapter 13) -/

/-- A pending or admitted item of a requester (R319). -/
structure AdmItem where
  req      : Nat
  cls      : Nat
  owner    : Origin
  /-- the order of first judgement, 0 before it -/
  first    : Nat
  wait     : Nat
  deferred : Bool
  /-- the tick from which an admitted item may start, and whether it was forced (R324, R325) -/
  admitted : Option Nat
  forced   : Bool
  deriving DecidableEq, Repr

/-- The admission scheduler. -/
structure Adm where
  items : List AdmItem
  /-- reservations: the tick that ends them and the cost in mW (R321) -/
  resv  : List (Nat × Nat)
  deriving DecidableEq, Repr

/-! ## Lamps (chapter 17) -/

/-- A lamp sample's finding (R402). -/
inductive LampFind where
  | open_ | short | pass
  deriving DecidableEq, Repr

/-- One lamp channel beside its registers. -/
structure Lamp where
  /-- a raise that waits for admission: level, pattern and the command's tag (R400) -/
  wantLevel : Nat
  wantPat   : Nat
  wantTag   : Option Nat
  waiting   : Bool
  /-- the level and pattern of the running period, and its on-time in units of 1/4096 us -/
  level     : Nat
  pat       : Nat
  onTime    : Nat
  /-- Sentinel's override for a service state: pattern (R407) -/
  svc       : Option Nat
  svcWant   : Option Nat
  last      : Option LampFind
  run       : Nat
  sampleAt  : Nat
  deriving DecidableEq, Repr

/-! ## Pins -/

/-- The hot-swap gate. -/
inductive Gate where
  | off | ramp | full
  deriving DecidableEq, Repr

/-- What Gorros drives on its output pins. -/
structure Pins where
  /-- every output is released to its external pull (R126, R410) -/
  released : Bool
  /-- EN0-EN23 driven high -/
  en       : BitVec 24
  gate     : Gate
  bleed    : Bool
  cocChg   : Bool
  coreEn   : Bool
  /-- the throttle outputs are driven (R146) -/
  throt    : Bool
  /-- GPIO outputs are driven from their latches (R366, R413) -/
  gpio     : Bool
  /-- outputs are held through a Warm reset (R411) -/
  held     : Bool
  deriving DecidableEq, Repr

/-! ## Rings and commands (chapter 09) -/

/-- How far a fetched command has come. -/
inductive CmdSt where
  /-- fetched and checked, not started (R233) -/
  | fetched
  /-- forwarded to Sentinel in a mailbox slot (R155) -/
  | asked
  /-- Sentinel has passed the checks of R156 -/
  | granted
  /-- started and not yet completed -/
  | running
  deriving DecidableEq, Repr

/-- A fetched command: its origin-ledger slot (R155) and its entry. -/
structure Cmd where
  tag    : Tag
  ring   : RingId
  origin : Origin
  entry  : SqEntry
  st     : CmdSt
  /-- progress the command reports as residue or result -/
  count  : Nat
  forced : Bool
  /-- a doorbell of the same cycle was lost: AUX bit 0 (R243) -/
  lostDb : Bool
  deriving DecidableEq, Repr

/-- A completion entry that is due but held because its owner is not served (R338). -/
structure Cpl where
  result : Nat
  aux    : Nat
  cid    : Nat
  status : Nat
  noIrq  : Bool
  deriving DecidableEq, Repr

/-- A ring pair beside its registers. -/
structure RingX where
  /-- the submission tail Gorros holds and the completion head last written (R226, R229) -/
  tail   : Nat
  cqHead : Nat
  /-- unsignalled completions and the tick that ends COAL_TIME for the first of them (R234) -/
  unsig  : Nat
  unsigEnd : Nat
  /-- enabled again before STOPPED (R226) -/
  reen   : Bool
  held   : List Cpl
  deriving DecidableEq, Repr

/-- The command interface. -/
structure Rng where
  /-- Owner Submission, Owner Admin, VI0 to VI15 -/
  rings  : List RingX
  /-- fetched commands that have not completed, in fetch order -/
  cmds   : List Cmd
  nextTag : Tag
  /-- Event ring entries that wait (R235): the record and its LOGSEQ -/
  evHeld : List (Ev × Nat)
  evHead : Nat
  /-- the quiesces in force: scope and parameter (R332) -/
  quiet  : List (Nat × Nat)
  deriving DecidableEq, Repr

/-! ## Host ports (chapter 08) -/

/-- A page request in flight (R212): who, for what, the address, and the tick of the timeout. -/
structure PageReq where
  who  : Who
  tgt  : PgFor
  addr : Nat
  write : Bool
  end_ : Nat
  /-- sent, or waiting for allocation -/
  sent : Bool
  deriving DecidableEq, Repr

/-- The errors of Table 8-5. -/
inductive AerErr where
  | receiver | badTlp | badDllp | replayRollover | replayTimeout | advisory | corrected
  | poisoned | completionTimeout | completerAbort | unexpected | ecrc | unsupported
  | dataLink | overflow | flowControl | malformed | internal
  deriving DecidableEq, Repr

/-- The severities of Table 8-5. -/
inductive AerSev where
  | correctable | nonFatal | fatal
  deriving DecidableEq, Repr

/-- The host ports beside their registers. -/
structure Hst where
  /-- per port: D0, Memory Space Enable and Bus Master Enable all hold, for PF0 and VF1 to VF16 (R203) -/
  fnA : List Bool
  fnB : List Bool
  /-- what the host configured in those functions (Table 8-2) -/
  cfgA : List FnCfg
  cfgB : List FnCfg
  /-- a port's link is in L2/L3 Ready: its PME_TO_Ack has been sent (R191) -/
  l23A : Bool
  l23B : Bool
  /-- errors reported through AER: port, function and error (R215) -/
  aer  : List (Port × Nat × AerErr)
  /-- function level resets that still wait for their outstanding requests (R216) -/
  flr  : List (Port × Fin 16)
  /-- the tick of a frame in which DL_Down was seen, per port, until its failover (R206, R208) -/
  downA : Option Nat
  downB : Option Nat
  /-- PERST asserted (R474) -/
  perstA : Bool
  perstB : Bool
  /-- a PME_Turn_Off waits for its PME_TO_Ack (R191) -/
  pmeA : Bool
  pmeB : Bool
  /-- translation cache entries: port, function (0 PF0, k VF k), PASID, page, writable (R210) -/
  atc  : List (Port × Nat × Nat × Nat × Bool)
  /-- invalidations held: port and the function (R211) -/
  inval : List (Port × Nat × Nat)
  pri  : List PageReq
  /-- rebinds not yet switched (R205): who, the old port, and the first tick at which work may resume -/
  rebind : List (Who × Port × Nat)
  /-- host writes that wait for their owner to be served, in order: address, bytes and vector (R338) -/
  held : List (Who × Nat × List Byte × Option Nat)
  deriving DecidableEq, Repr

/-! ## Sentinel and trust (chapter 06) -/

/-- A Service or patch image (R151). -/
structure Image where
  /-- its 256-byte header, and its body -/
  hdr   : List Byte
  body  : List Byte
  deriving DecidableEq, Repr

/-- An occupied mailbox slot: its request, and whether it waits for Sentinel (R155). -/
structure Mbx where
  req   : MbxReq
  asked : Bool
  deriving DecidableEq, Repr

/-- Sentinel's trust state. -/
structure Snt where
  /-- the occupied mailbox slots, oldest first (at most 8) -/
  mbx    : List Mbx
  /-- tick at which the heartbeat is lost (R159), while Service firmware runs -/
  hbEnd  : Option Nat
  /-- tick at which RESTARTS returns to 0 (R160) -/
  hbClear : Nat
  /-- the boot step reached (Table 6-2) -/
  boot   : Nat
  /-- tick at which CORE must have started, or the slot attempt ends -/
  bootEnd : Nat
  /-- slot being tried (false A), and whether the other was tried -/
  slotB  : Bool
  second : Bool
  /-- the nonce of the running challenge: number, key, end tick and the command (R162) -/
  nonce  : Option (Nat × Nat × Nat × Tag)
  nonces : Nat
  /-- the signature that came back and waits for its verification (R162) -/
  sig    : Option (List Byte)
  /-- the authorisation's closing tick and the lock-out's end tick -/
  authEnd : Nat
  lockEnd : Nat
  /-- public keys of SNT_SVCKEY[0] to [3] (X then Y, MRAM private state) -/
  keys   : List (List Byte)
  /-- OTP: the image keys 0 to 3 (X then Y), those revoked, rollback counters, DEBUG_EN -/
  otpKeys   : List (List Byte)
  otpRevoked : List Nat
  rollSvc   : Nat
  rollPatch : Nat
  debugEn   : Bool
  /-- the Service image that runs, from its copy in SRAM, and the entry offset its cores were released at (R152) -/
  svc       : Option Image
  entry     : Nat
  /-- bytes of the SRAM region locked against writes: the image of the slot tried last (R152) -/
  locked    : Nat
  /-- the patch stored for the next Warm reset, and the one that runs -/
  nextPatch : Option Image
  runPatch  : Option Image
  /-- an MRAM_BIST is armed, or runs until a tick (R418) -/
  bistArmed : Bool
  bistEnd   : Option Nat
  deriving DecidableEq, Repr

/-! ## Stages and commits (chapter 07) -/

/-- A stage slot (R166). -/
structure Slot where
  off   : Nat
  mask  : Word
  value : Word
  deriving DecidableEq, Repr

/-- A stage. -/
structure Stage where
  slots : List Slot
  full  : Bool
  deriving DecidableEq, Repr

/-- A COMMIT that waits, or that is taken and frozen: the stage's owner, its origin and who asked. -/
structure Commit where
  who    : Who
  origin : Origin
  from_  : CommitFrom
  /-- a commit of SUP_GRANT alone, or of one other field, carries its own slots (R322, R152) -/
  own    : Option (List Slot)
  /-- once taken: the commit tick -/
  tick   : Nat
  deriving DecidableEq, Repr

/-- Chrysalis. -/
structure Chr where
  owner  : Stage
  vis    : List Stage
  waiting : List Commit
  taken  : Option Commit
  /-- the tick after the last take, 0 before any: at most one a frame (R171) -/
  lastTake : Nat
  deriving DecidableEq, Repr

/-! ## Resets and power states (chapter 18) -/

/-- What follows a domain power-down (R334): a state entry with its VIs reset, Cocoon, a lost heartbeat, FW_ACTIVATE. -/
inductive DownFor where
  | state (st : Nat) (force : Bool) (vis : Nat) (tag : Tag)
  | cocoon
  | heartbeat
  | activate
  deriving DecidableEq, Repr

/-- The reset and power-state logic. -/
structure Rst where
  /-- RESET_N is low: AON logic is in reset; the tick of the falling edge (R410) -/
  low     : Bool
  lowFrom : Nat
  /-- CORE runs (its clock is on and step 6 has been passed) -/
  core    : Bool
  /-- a domain power-down: the tick of its deadline; what one that is due or runs is for (R334) -/
  downEnd : Option Nat
  downFor : Option DownFor
  /-- a quiesced stop: its items are retained for the restart (R335) -/
  retained : Bool
  /-- the retention areas have been written since the Cold reset (R420) -/
  retBuilt : Bool
  /-- VSTBY is absent; VBAT lies in range (R34, R419) -/
  vault   : Bool
  vbat    : Bool
  /-- the calibration block that failed its check (R426) -/
  calBad  : Option Nat
  /-- CORE was stopped by R125, to be restarted when the busbar returns -/
  cocStop : Bool
  /-- adoption after a Warm reset is due; the tick of the reset (R412) -/
  adopt   : Bool
  warmTick : Nat
  /-- Sentinel has gated its clock in SLEEP (R415) -/
  gated   : Bool
  /-- end of the wake timer (R416); the source of a wake event that came during an entry -/
  wakeEnd : Option Nat
  wakeDue : Option Nat
  /-- trigger and timestamp latched for the record of a Cold or Warm reset (R409) -/
  trig    : Nat
  trigTs  : Nat
  /-- TAMPER_N's level -/
  tamper  : Bool
  deriving DecidableEq, Repr


/-! ## Channel programs (chapter 10) and the chain cache (chapter 11) -/

/-- A channel command entry (Table 10-1), without its check byte. -/
structure Cce where
  code  : Nat
  flags : Nat
  count : Nat
  dev   : Nat
  aux   : Nat
  addr  : Nat
  deriving DecidableEq, Repr

/-- What a subchannel that is ACTIVE does next. -/
inductive ScPh where
  /-- nothing: no entry in hand -/
  | off
  /-- it needs an entry from the chain cache or host memory -/
  | fetch
  /-- a checked entry waits to be executed -/
  | ready
  /-- the entry's device operation waits for admission -/
  | adm
  /-- the device operation runs, burst by burst -/
  | op
  deriving DecidableEq, Repr

/-- What a PB or IT operation puts on its bus: a start or repeated start with its address byte, bytes of the protocol, bytes of host
memory (in a Block Write's first ones a byte count follows the command code), a PEC (R353, R355). -/
inductive Wire where
  | start (b : Nat)
  | lit (b : List Byte)
  | mem (a k : Nat)
  | block (a k count : Nat)
  | pec
  deriving DecidableEq, Repr

/-- A subchannel beside its registers. -/
structure Sub where
  ph    : ScPh
  /-- a delivered entry and whether it came from host memory -/
  got   : Option (List Byte × Bool)
  /-- the next fetch goes to host memory, past the cache (R271, R284) -/
  force : Bool
  /-- the fetch re-reads a tail already reported (R271) -/
  tailRe : Bool
  /-- the current entry, and the first entry of a SCATTER run in progress (R253) -/
  cce   : Cce
  head  : Option Cce
  /-- bytes of the current entry done (R262) -/
  moved : Nat
  /-- the current IAL segment: address, length, LAST; and the offset reached in it (R254) -/
  seg   : Option (Nat × Nat × Bool)
  segOff : Nat
  /-- DEV_STATUS of the running operation (R349): bytes, and bits 8 to 11 -/
  opBytes : Nat
  opFlags : Nat
  /-- a previous entry left the operation open by NOSTOP or HOLD_CS (R346) -/
  joined : Bool
  /-- the device ended the operation inside a SCATTER run; bus time of a raw SPI operation in ns (R359) -/
  ended : Bool
  opNs  : Nat
  /-- what the operation has put on a PB or IT bus, and what it still sends again because it was reopened (R348) -/
  opSent  : List Wire
  opAgain : List Wire
  /-- the entry's transaction has begun on the bus; the PEC so far (R353) -/
  begun : Bool
  opPec : Nat
  /-- a flash program or erase is polled, until this tick at most (R362) -/
  busy  : Option Nat
  /-- a hold that waits for the end of an open raw SPI operation, and its status (R348) -/
  holdDue : Option (Option Nat)
  /-- a SCATTER run that was suspended must be admitted again (R264) -/
  readmit : Bool
  /-- values read for the posting aperture (R261) -/
  apert : List Byte
  /-- JUMPs executed in the frame of the tick `jumpTick` (R257) -/
  jumps : Nat
  jumpTick : Nat
  waitEnd : Nat
  forced : Bool
  /-- the flash pointer (R361) -/
  flash : Nat
  /-- the latest SSR: its address and bytes (R269) -/
  ssr   : Option (Nat × List Byte)
  deriving DecidableEq, Repr

/-- A cache or victim line: its set, way, owner, tag (address bits 63:12) and four sectors (R274). -/
structure Line where
  set_  : Nat
  way   : Nat
  owner : Nat
  tag   : Nat
  sect  : List (Option (List Byte))
  deriving DecidableEq, Repr

/-- A store buffer entry (R281). -/
structure StoreE where
  owner : Nat
  addr  : Nat
  bytes : List Byte
  deriving DecidableEq, Repr

/-- An outstanding miss (R277): the subchannel, its owner, the address, and whether its fill may be installed (R286). -/
structure Miss where
  sub   : Nat
  owner : Nat
  addr  : Nat
  install : Bool
  deriving DecidableEq, Repr

/-- The chain cache. -/
structure Cch where
  lines   : List Line
  /-- the sets' round-robin pointers, those that are not 0 (R278) -/
  ptrs    : List (Nat × Nat)
  /-- oldest first (R279) -/
  victims : List Line
  stores  : List StoreE
  miss    : Option Miss
  /-- subchannels whose miss waits for the outstanding one, and the one whose miss was issued last (R277) -/
  waits   : List Nat
  last    : Nat
  deriving DecidableEq, Repr

/-! ## Device ports (chapter 15) -/

/-- A device port beside its registers. -/
structure DPort where
  /-- the settings of the running operation (R462) -/
  cfg   : Word
  /-- the subchannel granted last (R248) -/
  last  : Nat
  /-- sense block contents (Table 15-3): last DEV_STATUS, transactions, characters, status of the last poll, GETSTATUS -/
  lastDev : Nat
  count : Nat
  poll  : Nat
  stat2 : Nat
  ibiPend : Bool
  brk   : Bool
  /-- the receive buffer: characters and whether each had an error (R364) -/
  rx    : List (Byte × Bool)
  /-- tick of the latest character or of the READ's start, for the idle end of R364 -/
  rxTick : Nat
  /-- characters in the buffer that came before the loss that OVR shows (R364) -/
  pre   : Nat
  /-- CTS_N is high; RTS_N is driven high (R363) -/
  ctsHigh : Bool
  rtsHigh : Bool
  /-- arbitration losses of the running operation; the port waits for an idle bus (R354) -/
  losses : Nat
  waitIdle : Bool
  deriving DecidableEq, Repr

/-- Device ports. -/
structure Dpt where
  ports : List DPort
  /-- latched GPIO edges (R351, R365) -/
  edges : Nat
  deriving DecidableEq, Repr

/-! ## Block Mover (chapter 12) -/

/-- A descriptor (Table 12-1). -/
structure Desc where
  src       : Nat
  dst       : Nat
  srcLine   : Nat
  srcStride : Nat
  dstLine   : Nat
  dstStride : Nat
  srcLines  : Nat
  dstLines  : Nat
  tag       : Nat
  ctrl      : Nat
  rsv       : Nat
  next      : Nat
  deriving DecidableEq, Repr

/-- What a channel does next. -/
inductive DcPh where
  | off
  /-- a descriptor fetch is due or outstanding -/
  | fetch
  /-- the descriptor waits for admission -/
  | adm
  /-- bursts run -/
  | run
  deriving DecidableEq, Repr

/-- Why a channel is stopping once its bursts in flight are written and confirmed. -/
inductive DcStop where
  /-- a hold: the status of its interim record, if it posts one (R309, R329) -/
  | hold (status : Option Nat)
  | abort
  /-- a reassignment to a new configuration word (R312) -/
  | reassign (cfg : Word)
  /-- an all-stop (R314) -/
  | estop
  /-- the descriptor ends BAD: status, kind and address (R313, R317) -/
  | bad (status kind addr : Nat)
  deriving DecidableEq, Repr

/-- A burst in flight: its offset in the descriptor's byte stream and its length (R298, R299). -/
structure Burst where
  off : Nat
  len : Nat
  deriving DecidableEq, Repr

/-- A channel beside its registers. -/
structure Chan where
  ph     : DcPh
  /-- a descriptor read is outstanding; it re-reads a tail -/
  fetching : Bool
  tailRe : Bool
  desc   : Option Desc
  /-- in TAIL_WAIT: the total and the TAG of the tail (R311) -/
  tail   : Option (Nat × Nat)
  /-- the prefetched NEXT (R301), and whether its read is outstanding -/
  pre    : Option (List Byte)
  preAsk : Bool
  /-- bytes granted to bursts, bytes written, and bytes confirmed (R307) -/
  issued : Nat
  written : Nat
  conf   : Nat
  flight : List Burst
  /-- a zero-length read that confirms the bytes written so far is outstanding (R302): the bytes it confirms -/
  resp   : Option Nat
  stop   : Option DcStop
  /-- commands that wait for the stop: their tags -/
  waits  : List Tag
  /-- CRQ slots reserved (R305) -/
  slots  : Nat
  lastTag : Nat
  /-- the latest record: the address of its slot and its bytes (R317) -/
  rec_  : Option (Nat × List Byte)
  forced : Bool
  /-- stopped by the all-stop (R315) -/
  estop  : Bool
  deriving DecidableEq, Repr

/-- The Block Mover. -/
structure Bmv where
  chans : List Chan
  /-- exchange memory: bytes that are not 0 (R292, R293) -/
  xmem  : List (Nat × Byte)
  /-- the wheel's position and the channel granted last (R300) -/
  wheel : Nat
  last  : Nat
  /-- blocks that wait for bursts in flight before they change hands (R293): the block and its new owner byte -/
  xpend : List (Nat × Nat)
  deriving DecidableEq, Repr

/-! ## Card ports (chapter 16) -/

/-- The step of an activation or of the running port. -/
inductive CdPh where
  | off
  /-- regulator on, VCC settling -/
  | settle
  /-- clock running, RST low -/
  | reset
  /-- the ATR window -/
  | window
  /-- between classes: normal deactivation and the 10 ms wait -/
  | gap
  /-- a PPS request was sent -/
  | pps
  /-- an S(IFS request) was sent: how many times -/
  | ifs (sent : Nat)
  /-- exchanges possible -/
  | run
  deriving DecidableEq, Repr

/-- Who asked for an exchange. -/
inductive ExWho where
  /-- a CARD_APDU by its tag and session -/
  | apdu (t : Tag) (h : Nat)
  /-- MANAGE CHANNEL open for a CARD_OPEN -/
  | open_ (t : Tag) (v : Fin 16)
  /-- MANAGE CHANNEL close of a channel: for a CARD_CLOSE of a session, or after a reset of the owner -/
  | close (t : Option (Tag × Nat)) (c : Nat)
  /-- the service card challenge (R393): selecting, then authenticating -/
  | auth (selected : Bool)
  deriving DecidableEq, Repr

/-- A running exchange (R390). -/
structure Exch where
  who   : ExWho
  /-- the command APDU, and the response data collected -/
  cmd   : List Byte
  resp  : List Byte
  /-- T=0: data still to send; T=1: information bytes not yet sent -/
  tx    : List Byte
  /-- T=0: response bytes expected, and those due before the next procedure byte; a first status byte -/
  rx    : Nat
  run   : Nat
  sw1   : Option Byte
  /-- the header (T=0) or block (T=1) sent last -/
  last  : List Byte
  /-- recovery attempts: R-blocks and S(RESYNCH) (Table 16-4), and the status of the first error -/
  rtry  : Nat
  sync  : Nat
  err   : Nat
  /-- its response is discarded: the owner was reset (R339) -/
  discard : Bool
  deriving DecidableEq, Repr

/-- A card session (R388). -/
structure Sess where
  handle : Nat
  port   : Nat
  chan   : Nat
  owner  : Who
  /-- its exclusive hold expired and was not yet reported (R391) -/
  expired : Bool
  deriving DecidableEq, Repr

/-- The clock contact. -/
inductive CdClk where
  | low | high | running
  deriving DecidableEq, Repr

/-- A card port beside its registers. -/
structure Card where
  ph     : CdPh
  /-- the contacts: VCC on, RST high, the clock, reception on I/O (Tables 16-3, 16-5) -/
  vcc    : Bool
  rst    : Bool
  clk    : CdClk
  io     : Bool
  /-- the class in use or being tried, and the classes already tried (0 A, 1 B, 2 C) -/
  cls    : Nat
  tried  : Nat
  /-- commands that wait for the activation, and whether it serves a challenge -/
  waits  : List Tag
  forAuth : Bool
  forced : Bool
  /-- a warm reset of R381 runs -/
  warm   : Bool
  /-- the PPS fallback has been used (R378): no PPS in this activation -/
  ppsDone : Bool
  pps    : List Byte
  atr    : List Byte
  /-- logical channels the card offers (R388) -/
  chans  : Nat
  /-- T=1 sequence numbers: the next block to send and the next expected -/
  ns     : Bool
  nr     : Bool
  exch   : Option Exch
  /-- exchanges that wait, oldest first, with their command APDUs -/
  queue  : List (ExWho × List Byte)
  /-- exclusive begins that wait: session, limit, tag (R391) -/
  exclQ  : List (Nat × Nat × Tag)
  exclEnd : Nat
  gen    : Nat
  idleTick : Nat
  /-- commands that wait for a normal deactivation, and whether one is due at the exchange's end -/
  deact  : List Tag
  deactDue : Bool
  /-- the clock has been restarted for a waiting exchange: the tick from which its first character may be sent (R382) -/
  restart : Option Nat
  deriving DecidableEq, Repr

/-- Card ports. -/
structure Crd where
  ports : List Card
  sess  : List Sess
  deriving DecidableEq, Repr
/-! ## What leaves the block -/

/-- Flash commands (R361): Fast Read, Page Program, an erase with its opcode (none: a whole slot, erased for FW_ERASE), the reset pair. -/
inductive FlashOp where
  | read
  | program
  | erase (opcode : Option Nat)
  | reset
  deriving DecidableEq, Repr

/-- What Gorros sends or answers, in order: the model's trace of its outward actions.
(Log: DESIGN CHOICE 7, 66) -/
inductive Out where
  /-- a register read returns a value -/
  | value (fn : ReadFn) (v : Nat)
  /-- the leader sends a beacon: eight bits of the counter and the ninth, odd parity (R78) -/
  | beacon (v : BitVec 8) (parity : Bool)
  /-- a memory write to host memory on a port, under a PASID if any (R190, R209) -/
  | wr (p : Port) (pasid : Option Nat) (a : Nat) (bytes : List Byte) (ats : Bool)
  /-- a memory read of host memory; `ats`: a translated request, to the page that the translation gave (R210) -/
  | rd (p : Port) (pasid : Option Nat) (a len : Nat) (ats : Bool)
  /-- a translation request of a function for the page at `a` (R210) -/
  | xlat (p : Port) (fn : Nat) (pasid : Option Nat) (a : Nat) (write : Bool)
  /-- an error reported through AER (R215) -/
  | aer (p : Port) (fn : Nat) (e : AerErr) (sev : AerSev)
  /-- a packet of the MCTP SMBus binding: first and last of its message, and its bytes (R220) -/
  | mctp (som eom : Bool) (bytes : List Byte)
  /-- an MSI-X vector raised: the write of its table entry's data -/
  | msi (p : Port) (w : Who) (vec : Nat)
  /-- bytes that a device port puts on its bus: with the address bytes, counts and PEC of the transaction (R353, R355, R359, R363) -/
  | dev (x : Nat) (bytes : List Byte)
  /-- an action of a port that puts no data on its bus: a recovery, a CCC with its target and payload, a break, a level of RTS_N -/
  | devCtl (x : Nat) (imm : Nat) (target : Nat)
  /-- a flash command on a chip select, at an address, with the bytes programmed (R361) -/
  | flash (x cs : Nat) (op : FlashOp) (addr : Nat) (bytes : List Byte)
  /-- the operation on a port ends or is closed: STOP, or chip select high (R346, R348) -/
  | devEnd (x : Nat)
  /-- characters or a block sent to the card of a port -/
  | card (p : Nat) (bytes : List Byte)
  /-- the data bytes of an SMBus reply, its PEC last; a NACK -/
  | smb (bytes : List Byte)
  | smbNack
  /-- an MCTP or SPDM response message of a context (R220, R221) -/
  | reply (ctx : Nat) (bytes : List Byte)
  /-- Sentinel's answer to Service firmware: a journal record (R155) -/
  | svc (bytes : List Byte)
  /-- a Page Request (R212), an Invalidation Completion (R211), a PME_TO_Ack (R191) -/
  | pageReq (p : Port) (fn : Nat) (pasid : Option Nat) (a : Nat) (write last : Bool)
  | invDone (p : Port) (fn : Nat)
  | pmeAck (p : Port)
  /-- a read request refused: with Unsupported Request (true) or Completer Abort -/
  | refuse (p : Port) (ur : Bool)
  deriving DecidableEq, Repr

/-! ## The state -/

/-- Why the machine stops. The model has one such reason and no command raises it. -/
inductive Fault where
  /-- Raised by no meaning: the type's only inhabitant, kept so that a stop would have a name. Safe. -/
  | unreachable
  deriving DecidableEq, Repr

/-- Why a command has no meaning. -/
inductive Refusal where
  /-- Raised by an arm of `exec` whose command has no meaning yet. Safe: nothing is claimed of it. -/
  | notModelled (mnemonic : String)
  deriving DecidableEq, Repr

/-- The state of the block. -/
structure State where
  /-- the register file: registers that differ from their Reset value, by ascending key -/
  regs  : List (Nat × Word)
  tb    : Timebase
  st    : Store
  rails : List Rail
  seq   : Seq
  sw    : Swarm
  sup   : Sup
  thm   : Thm
  adm   : Adm
  lamps : List Lamp
  pins  : Pins
  rng   : Rng
  hst   : Hst
  snt   : Snt
  chr   : Chr
  rst   : Rst
  cpe   : List Sub
  cch   : Cch
  dpt   : Dpt
  bmv   : Bmv
  crd   : Crd
  /-- what has left the block, oldest first -/
  out   : List Out
  /-- the model's own counter of free values: no statement rests on its value -/
  free  : Nat
  /-- the commands that wait, first in first out -/
  pending : List Instr
  deriving DecidableEq, Repr

/-! ## Reset -/

/-- Every part of the state with nothing in progress: what a Cold reset leaves before its records (R408).
(Log: DESIGN CHOICE 5, 8, 9, 167, 176; DEDUCED 30, 54) -/
def State.blank : State where
  regs := []
  tb := ⟨0, 0, 0, 6, false, 0, 0, 0, 0, 0, 0, none, [], [], 0, false, 0⟩
  st := {
    mem := [], ecc := [], dirA := some ⟨1, 0, 0, 0⟩, dirB := some ⟨1, 0, 0, 0⟩, jq := [], evq := [], lostTs := 0
    journal := ⟨[], 0, 0⟩, log := ⟨[], 0, 0⟩, snaps := ⟨[], 0, 0⟩
    nvA := ⟨0, []⟩, nvB := ⟨0, []⟩, lastB := true, snap := none, collapsed := false }
  rails := List.replicate 24 ⟨false, 0, false, 0, 0, false, 0, 0, 0, 0, 0, 0, 0, false, []⟩
  seq := ⟨false, false, false, 0, false, false⟩
  sw := {
    claimed := false, claimTick := 0, claimDue := false, high := true, since := 0, holdFrom := none, fellBack := false, receiving := false, lastBeacon := 0
    beaconAt := 0, resyncReq := true, rejoin := false, pulse := none, stuckDone := false, noBeaconDone := false
    missDue := false }
  sup := {
    isMa := List.replicate 8 0, busVs := 0, bulkVs := 0, shunt := 0, cocVs := 0, staleVs := 0, staleOther := 0
    busMin := 0, busMax := 0, bulkMin := 0, bulkMax := 0, rot := 0, displaced := 0, rotItem := 0, rotVal := 0
    adcReq := [], calReq := none, pfw := true, pfwPred := false, latched := false, leadEnd := none, leadCause := 0
    pg := 0, presRun := 0, absRun := 0, chgEnd := 0, gateRun := 0, limRun := 0, onRun := 0
    fast := ⟨0, 0, 0, 0, 1023, 0, 1023, 0, 0, [], 0, none, none⟩, vbulk := 0, hist := [], ebulk := 0, lastRaw := 0
    accFrames := 0, draw := 0, etot := 0, evs := List.replicate 4 ⟨false, 0, 0, 0, 0⟩, warnRun := 0, failRun := 0
    disFrom := 0, disRun := 0, disDone := false, disOk := false, ovHold := false, snapReq := none }
  thm := {
    sum := 0, cnt := 0, bad := false, lastSum := 0, lastCnt := 0, lastBad := false, remote := List.replicate 8 0
    limit := List.replicate 8 none, staleRec := []
    warn := List.replicate 9 ⟨0, 0, false⟩, crit := List.replicate 9 ⟨0, 0, false⟩ }
  adm := ⟨[], []⟩
  lamps := List.replicate 8 ⟨0, 0, none, false, 0, 0, 0, none, none, none, 0, 0⟩
  pins := {
    released := false, en := 0, gate := .off, bleed := false, cocChg := false, coreEn := true, throt := true, gpio := false
    held := false }
  rng := ⟨List.replicate 18 ⟨0, 0, 0, 0, false, []⟩, [], 0, [], 0, []⟩
  hst := {
    fnA := List.replicate 17 false, fnB := List.replicate 17 false, downA := none, downB := none
    perstA := false, perstB := false, pmeA := false, pmeB := false, atc := [], inval := [], pri := []
    cfgA := List.replicate 17 FnCfg.reset, cfgB := List.replicate 17 FnCfg.reset, l23A := false, l23B := false, aer := [], flr := []
    rebind := [], held := [] }
  snt := {
    mbx := [], hbEnd := none, hbClear := 0, boot := 5, bootEnd := 64, slotB := false, second := false, nonce := none
    nonces := 0, sig := none, authEnd := 0, lockEnd := 0, keys := List.replicate 4 [], otpKeys := List.replicate 4 (List.replicate 96 0), otpRevoked := [], rollSvc := 0
    rollPatch := 0, debugEn := false, svc := none, entry := 0, locked := 0, nextPatch := none, runPatch := none, bistArmed := false
    bistEnd := none }
  chr := ⟨⟨[], false⟩, List.replicate 16 ⟨[], false⟩, [], none, 0⟩
  rst := {
    low := false, lowFrom := 0, core := false, downEnd := none, downFor := none, retained := false
    retBuilt := false, vault := false, vbat := true, calBad := none, cocStop := false, adopt := false, warmTick := 0
    gated := false, wakeEnd := none, wakeDue := none, trig := 1, trigTs := 0, tamper := true }
  cpe := List.replicate 32 {
    ph := .off, got := none, force := false, tailRe := false, cce := ⟨0, 0, 0, 0, 0, 0⟩, head := none, moved := 0
    seg := none, segOff := 0, opBytes := 0, opFlags := 0, joined := false, ended := false, opNs := 0, opSent := [], opAgain := []
    begun := false, opPec := 0, busy := none, holdDue := none, readmit := false, apert := []
    jumps := 0, jumpTick := 0, waitEnd := 0, forced := false, flash := 0, ssr := none }
  cch := ⟨[], [], [], [], none, [], 31⟩
  dpt := ⟨List.replicate 13 ⟨0, 31, 0, 0, 0, 0, false, false, [], 0, 0, false, false, 0, false⟩, 0⟩
  bmv := {
    chans := List.replicate 16
      ⟨.off, false, false, none, none, none, false, 0, 0, 0, [], none, none, [], 0, 0xFFFF, none, false, false⟩
    xmem := [], wheel := 0, last := 15, xpend := [] }
  crd := {
    ports := List.replicate 2 {
      ph := .off, vcc := false, rst := false, clk := .low, io := false, cls := 3, tried := 0, waits := []
      forAuth := false, forced := false, warm := false, ppsDone := false, pps := [], atr := [], chans := 1, ns := false
      nr := false, exch := none, queue := [], exclQ := [], exclEnd := 0, gen := 0, idleTick := 0, deact := []
      deactDue := false, restart := none }
    sess := [] }
  out := []
  free := 0
  pending := []

/-- An event record that a reset queues (R409, R424, R32). -/
def resetEv (code subject a0 : Nat) : Ev :=
  let a := fun i => (Config.recordArg code i).toNat
  ⟨0x20, code, subject, a0, a 1, a 2, 0, a 4, 0, false⟩

/-- The machine right after reset: the first Cold reset of a device whose store is blank (R424, R425), carried through step 5
of Table 6-2: the store is formatted, its records wait to be written, the settings hold their Reset values, CORE_EN is
asserted, and CORE has not started.
(Log: DESIGN CHOICE 5) -/
def State.reset : State :=
  { State.blank with
    regs := [(0x60B0, 0xE2), (0xA008, 0x4040), (0x30004, 0x101), (0x30018, 4), (0x3003C, 1)]
    st := { State.blank.st with
      jq := [⟨0x20, .init, false, false, 0, [], 0, .none⟩]
      evq := [resetEv 0x1001 0 (Config.recordArg 0x1001 0).toNat, resetEv 0xE001 1 1, resetEv 0xE007 0 1] } }

end Sys2Proof.Machine
end

