-- ==== Sys2Proof/Machine/Ops.lean ====
section
/-!
DEFINITION. The named operations every block uses: registers and fields, the clock and durations, stamps, records,
journal items and what leaves the block.
-/

namespace Sys2Proof.Machine

/-- What a command answers. -/
abbrev Res := Host.Outcome State Fault Refusal

/-! ## Registers -/

/-- The word of the register at key `off` (R6, R13: an unlisted register holds its Reset value). -/
def State.reg (s : State) (off : Nat) : Word := cellGet resetWord s.regs off

/-- Writes the word of the register at key `off`. -/
def State.setReg (s : State) (off : Nat) (w : Word) : State :=
  { s with regs := cellSet resetWord s.regs off w }

/-- The value of a field. -/
def State.get (s : State) (f : FRef) : Nat := fieldOf (s.reg f.off) f.lo f.w

/-- Is a one-bit field 1? -/
def State.on (s : State) (f : FRef) : Bool := s.get f == 1

/-- Writes a field and leaves the register's other bits. -/
def State.put (s : State) (f : FRef) (v : Nat) : State :=
  s.setReg f.off (withField (s.reg f.off) f.lo f.w v)

/-- Writes a one-bit field. -/
def State.putB (s : State) (f : FRef) (b : Bool) : State := s.put f (b2n b)

/-- The signed value of a field. -/
def State.getS (s : State) (f : FRef) : Int := signedOf f.w (s.get f)

/-- Writes a signed value into a field. -/
def State.putS (s : State) (f : FRef) (v : Int) : State := s.put f (encSigned f.w v)

/-- A counter field counts one and saturates (R430). -/
def State.count (s : State) (f : FRef) : State := s.put f (satInc f.w (s.get f))

/-! ## Time -/

/-- The timestamp of the current frame's tick; of the coming one, once a command of its phase 1 has run. -/
def State.tickTs (s : State) : Nat := (if s.tb.early then s.tb.frame + 1 else s.tb.frame).toNat * 1024

/-- The timestamp of the moment: FRAME and SUBFRAME (R5); in phase 1 of the coming tick, that tick's.
(Log: DESIGN CHOICE 26) -/
def State.now (s : State) : Nat := if s.tb.early then s.tickTs else s.tb.frame.toNat * 1024 + s.tb.sub.toNat

/-- Moves to a new moment of the frame: SUBFRAME never falls (R51) and is otherwise open.
(Log: DESIGN CHOICE 6, 65) -/
def State.touch (s : State) : State :=
  let n := Config.freeSub s.free
  { s with tb := { s.tb with sub := if s.tb.sub ≤ n then n else s.tb.sub }, free := s.free + 1 }

/-- Opens phase 1 of the coming tick: what runs before its FRAME_TICK is stamped with that tick (R38, R50, R51).
(Log: DESIGN CHOICE 26) -/
def State.opened (s : State) : State := { s with tb := { s.tb with early := true } }

/-- End of a duration of `n` frames that starts outside phase 1: its origin is the next tick (R48). In phase 1 of the coming
tick, opened before it, that tick is the origin.
(Log: DESIGN CHOICE 66) -/
def State.after (s : State) (n : Nat) : Nat := s.tb.ticks + 1 + n

/-- End of a duration of `n` frames that starts in phase 1 of the current tick (R48).
(Log: DESIGN CHOICE 66) -/
def State.afterTick (s : State) (n : Nat) : Nat := s.tb.ticks + b2n s.tb.early + n

/-- The frame number at tick `t`. -/
def State.frameAt (s : State) (t : Nat) : Nat := (s.tb.frame.toNat + (t - s.tb.ticks)) % 2 ^ 40

/-- Has the tick `t` come?
(Log: DESIGN CHOICE 66) -/
def State.due (s : State) (t : Nat) : Bool := decide (t ≤ s.tb.ticks)

/-- Did the current frame complete phase `p` (R42, R43)?
(Log: DESIGN CHOICE 4) -/
def State.phase (s : State) (p : Nat) : Bool := decide (p ≤ s.tb.done)

/-- Is the block in SLEEP (R414)? -/
def State.asleep (s : State) : Bool := s.get RST_PSTATE_STATE == 2

/-- Does Sentinel serve housekeeping slots: not in reset, gated in SLEEP, or off? -/
def State.sentinelRuns (s : State) : Bool := !s.rst.low && !s.rst.gated && !s.rst.vault

/-- Has the frame a housekeeping slot: its phases 1 to 5 are complete (R37, R40, R42)? In SLEEP Sentinel, until it gates its
clock, works without phases (R415).
(Log: DESIGN CHOICE 4) -/
def State.slot (s : State) : Bool := s.phase 5 || (s.asleep && !s.rst.gated)

/-! ## Records -/

/-- The arguments of a record, the spec's where it names them and open where it does not.
(Log: DEDUCED 11; DESIGN CHOICE 12) -/
def recArg (code i : Nat) : Option Nat → Nat
  | some n => n
  | none => (Config.recordArg code i).toNat

/-- The number that stands in a record's argument for an alternative that the spec names without a number.
(Log: DESIGN CHOICE 13, 13) -/
def argCode (code alt : Nat) : Nat := (Config.argCode code alt).toNat

/-- Records that a chapter requires on the Owner's Event ring whatever RNG_EVMASK says (R206, R216, R235, R273, R289, R318,
R339, R384, R386). -/
def evAlways (code : Nat) : Bool :=
  code == 0x7003 || code == 0x7008 || code == 0x7009 || code == 0x8002 || code == 0x8005 || code == 0x8003 ||
    code == 0x9001 || code == 0x9003 || code == 0x9004 || code == 0xB001 || code == 0xB002 || code == 0xB003

/-- Queues an event record stamped `ts`, or counts it as lost (R184); `only` keeps it off the Event ring (R339).
(Log: DEDUCED 81) -/
def State.logWith (s : State) (only : Bool) (ts : Nat) (origin : Origin) (code subject : Nat)
    (args : List (Option Nat)) : State :=
  let a := fun i => recArg code i (args.getD i none)
  let e : Ev := ⟨origin.code, code, subject, a 0, a 1, a 2, a 3, a 4, ts, only⟩
  if s.st.evq.length < 16 then { s with st := { s.st with evq := s.st.evq ++ [e] } }
  else
    let first := s.get JNL_EVDROP_COUNT == 0
    let s := s.count JNL_EVDROP_COUNT
    let s := { s with st := { s.st with lostTs := if first then ts else s.st.lostTs } }
    if only || !evAlways code then s
    else if s.rng.evHeld.length < 64 then { s with rng := { s.rng with evHeld := s.rng.evHeld ++ [(e, 0xFFFFFFFF)] } }
    else s.count RNG_EVDROP_COUNT

/-- Queues an event record stamped `ts`. -/
def State.logAt (s : State) (ts : Nat) (origin : Origin) (code subject : Nat) (args : List (Option Nat)) : State :=
  s.logWith false ts origin code subject args

/-- Queues an event record of Sentinel stamped at a new moment of the frame (R183).
(Log: DEDUCED 11) -/
def State.log (s : State) (code subject : Nat) (args : List (Option Nat)) : State :=
  let s := s.touch
  s.logAt s.now .sentinel code subject args

/-- The journal item of a register whose word changes from `old` to `new`: MASK marks the bits of the changed fields
(Table 7-6). -/
def jItem (off : Nat) (old new : Word) : JItem :=
  ⟨off, (fieldsAt off).foldl (fun m f =>
      if fieldOf old f.lo f.w = fieldOf new f.lo f.w then m else m ||| fieldMask f.lo f.w) 0, old, new⟩

/-- Queues a journal entry (R182). -/
def State.journal (s : State) (e : JEntry) : State :=
  { s with st := { s.st with jq := s.st.jq ++ [e] } }

/-- Sends something out. -/
def State.emit (s : State) (o : Out) : State := { s with out := s.out ++ [o] }

/-! ## Rails -/

/-- A rail's internal state, as reset leaves it. -/
def Rail.idle : Rail := ⟨false, 0, false, 0, 0, false, 0, 0, 0, 0, 0, 0, 0, false, []⟩

/-- Rail `n`. -/
def State.rail (s : State) (n : Nat) : Rail := s.rails.getD n Rail.idle

/-- Changes rail `n`. -/
def State.modRail (s : State) (n : Nat) (f : Rail → Rail) : State := { s with rails := modAt s.rails n f }

/-- The numbers below `n`, ascending. -/
def upTo (n : Nat) : List Nat := List.range n

/-- Runs `f` for every rail slot in ascending order. -/
def State.forRails (s : State) (f : Nat → State → State) : State :=
  (upTo 24).foldl (fun s n => f n s) s

end Sys2Proof.Machine
end

