-- ==== Sys2Proof/Machine/Items.lean ====
section
/-!
DEFINITION. Admission items (chapter 13): the order of parties, presenting, dropping and starting an item, and the
registers that show it.
-/

namespace Sys2Proof.Machine

/-- The rank of a party in the order of R18: Sentinel, the Owner, then the VIs from the VI pointer (R19). -/
def State.rank (s : State) : Origin → Nat
  | .owner _ => 1
  | .vi v => 2 + (v.val + 16 - s.get FRM_VIPTR_PTR) % 16
  | _ => 0

/-- The pending or admitted item of a requester. -/
def State.item (s : State) (r : Nat) : Option AdmItem := s.adm.items.find? fun i => i.req == r

/-- The bit of requester `r` in the wait map (R445). -/
def waitBit (r : Nat) : FRef := if r < 32 then ⟨0x7814, r, 1⟩ else ⟨0x7818, r - 32, 1⟩

/-- Shows BUDGET_WAIT on the requester's own block, or its end (R324): a subchannel or channel returns to ACTIVE, a card
port to INACTIVE until its activation starts. -/
def State.reqWait (s : State) (r : Nat) (w : Bool) : State :=
  if r < 32 then s.put (CPE_SCSTAT0_STATE r) (if w then 2 else 1)
  else if r < 48 then s.put (BMV_DCSTAT_STATE (r - 32)) (if w then 2 else 1)
  else if r < 50 then s.put (CRD_PSTAT_STATE (r - 48)) (if w then 2 else 1)
  else s.putB (LMP_STAT_BUDGET_WAIT (r - 50)) w

/-- The registers of requester `r` follow its item (R324, R325, R445). -/
def State.admShow (s : State) (r : Nat) : State :=
  match s.item r with
  | some i =>
    let bw := i.deferred && i.admitted.isNone
    let s := (s.put (ADM_REQSTAT_CLASS r) i.cls).putB (ADM_REQSTAT_PENDING r) i.admitted.isNone
    ((s.putB (ADM_REQSTAT_BUDGET_WAIT r) bw).put (ADM_REQSTAT_WAIT r) i.wait).putB (waitBit r) bw
  | none => (s.setReg (0x7900 + 4 * r) 0).put (waitBit r) 0

/-- Presents an item for admission: at most one a requester (R319). -/
def State.present (s : State) (r cls : Nat) (owner : Origin) : State :=
  if (s.item r).isSome then s
  else
    let it : AdmItem := ⟨r, cls, owner, 0, 0, false, none, false⟩
    ({ s with adm := { s.adm with items := s.adm.items ++ [it] } }).admShow r

/-- Drops the item of a requester: halted, suspended or done; a reservation runs on (R321, R325). -/
def State.admDrop (s : State) (r : Nat) : State :=
  ({ s with adm := { s.adm with items := s.adm.items.filter fun i => i.req != r } }).admShow r

/-- Has the requester an item that admission has passed and whose tick has come (R324)? -/
def State.mayStart (s : State) (r : Nat) : Bool :=
  match s.item r with
  | some i => match i.admitted with
    | some t => s.due t
    | none => false
  | none => false

/-- Was the requester's item forced (R325)? -/
def State.wasForced (s : State) (r : Nat) : Bool :=
  match s.item r with
  | some i => i.forced
  | none => false

end Sys2Proof.Machine
end

