-- ==== Sys2Proof/Machine/Complete.lean ====
section
/-!
DEFINITION. Owners and their ports, interrupts, completion entries and the Event ring (chapters 08 and 09): what every
command and record uses to report.
-/

namespace Sys2Proof.Machine

/-! ## Owners, ports, functions -/

/-- The owner of a ring. -/
def whoOf : RingId → Who
  | .vi v => some v
  | _ => none

/-- The owner an OWNER field names: 0 to 15 a VI, else the Owner (R246, R290, R396). -/
def whoOfCode (n : Nat) : Who := if h : n < 16 then some ⟨n, h⟩ else none

/-- The code of an owner in those fields. -/
def whoCode : Who → Nat
  | none => 16
  | some v => v.val

/-- The base key of a ring's register block (Table 9-2). -/
def ringKey : RingId → Nat
  | .sub => ownSubRing
  | .adm => ownAdmRing
  | .vi v => vfBase v.val

/-- The ring's index in the command interface. -/
def ringIdx : RingId → Nat
  | .sub => 0
  | .adm => 1
  | .vi v => 2 + v.val

/-- The port of a binding bit (R453). -/
def portOf (b : Bool) : Port := if b then .hpb else .hpa

/-- The port an owner is bound to (R203): the old one while a committed change of binding still completes its bursts
(R205). -/
def State.portOf (s : State) (w : Who) : Port :=
  match s.hst.rebind.find? fun r => r.1 == w with
  | some r => r.2.1
  | none =>
    match w with
    | none => Machine.portOf (s.on HST_OWNBIND_PORT)
    | some v => Machine.portOf (s.on (HST_VIBIND_PORT v.val))

/-- Does a change of the owner's binding still hold its new bursts back (R205)? -/
def State.rebinding (s : State) (w : Who) : Bool := s.hst.rebind.any fun r => r.1 == w

/-- The function number on a port: PF0, or VF k for VI k-1 (R194). -/
def fnOf : Who → Nat
  | none => 0
  | some v => v.val + 1

/-- The LINK code of a port in HST_PORTSTAT (R453). -/
def linkF (p : Port) : FRef := ⟨0xA008, (if p = .hpa then 0 else 8), 2⟩
def rateF (p : Port) : FRef := ⟨0xA008, (if p = .hpa then 2 else 10), 2⟩
def widthF (p : Port) : FRef := ⟨0xA008, (if p = .hpa then 4 else 12), 1⟩
def d3F (p : Port) : FRef := ⟨0xA008, (if p = .hpa then 5 else 13), 1⟩
def idleF (p : Port) : FRef := ⟨0xA008, (if p = .hpa then 6 else 14), 1⟩

/-- The port's link is in L0 or L1.
(Log: DEDUCED 109) -/
def State.linkUp (s : State) (p : Port) : Bool := decide (2 ≤ s.get (linkF p))

/-- The function is in D0 with Memory Space and Bus Master enabled.
(Log: DEDUCED 113) -/
def State.fnOk (s : State) (p : Port) (fn : Nat) : Bool :=
  (if p = .hpa then s.hst.fnA else s.hst.fnB).getD fn false

/-- Would an owner be served on a port (R203)?
(Log: DEDUCED 113) -/
def State.servedOn (s : State) (w : Who) (p : Port) : Bool := s.linkUp p && s.fnOk p (fnOf w)

/-- Is the VI enabled; the Owner always is?
(Log: DEDUCED 113) -/
def State.viEn (s : State) : Who → Bool
  | none => true
  | some v => s.on (HST_VIBIND_EN v.val)

/-- Is the owner served (R203): bound, enabled, and the four conditions hold on its port? -/
def State.served (s : State) (w : Who) : Bool := s.viEn w && s.servedOn w (s.portOf w)

/-- Does a register access by an owner arrive: CORE runs, the link of its port is up, and a VI is enabled (R16, R22, R201)? -/
def State.arrives (s : State) (w : Who) : Bool := s.rst.core && s.linkUp (s.portOf w) && s.viEn w

/-- Does a write of the Owner's registers in a block of CORE arrive, through either port or by JTAG (R16, R22, R157)? -/
def State.ownerReach (s : State) : Bool := s.rst.core && (s.linkUp .hpa || s.linkUp .hpb || s.snt.debugEn)

/-- Does a write of a ring's registers arrive (R16, R22)? -/
def State.ringReach (s : State) : RingId → Bool
  | .vi v => s.arrives (some v)
  | _ => s.ownerReach

/-- Does a register write by a party arrive: through its port's link, or by JTAG while OTP DEBUG_EN is set (R16, R22, R157)? -/
def State.reaches (s : State) : Sender → Bool
  | .owner p => s.rst.core && s.linkUp p
  | .vi v => s.arrives (some v)
  | .debug => s.snt.debugEn

/-- The owner whose registers a sender writes: JTAG those of the Owner (R157). -/
def senderWho : Sender → Who
  | .vi v => some v
  | _ => none

/-- The PASID of an owner's requests (R209). -/
def State.pasid (s : State) : Who → Option Nat
  | none => if s.on HST_OWNPASID_EN then some (s.get HST_OWNPASID_PASID) else none
  | some v => some (s.get (HST_VIPASID_PASID v.val))

/-- The origin code of an owner's requests: the Owner names its port (Table 7-5). -/
def State.originOf (s : State) : Who → Origin
  | none => .owner (s.portOf none)
  | some v => .vi v

/-- What the host configured in a function of a port. -/
def State.fnCfg (s : State) (p : Port) (fn : Nat) : FnCfg :=
  (if p = .hpa then s.hst.cfgA else s.hst.cfgB).getD fn FnCfg.reset

/-- Are an owner's requests translated: ATS is enabled for its function (R210)? -/
def State.atsOn (s : State) (w : Who) : Bool := (s.fnCfg (s.portOf w) (fnOf w)).ats

/-- Drops the entry that a new one replaces in a full translation cache: never the one used last (R210).
(Log: DESIGN CHOICE 172) -/
def State.atcEvict (s : State) : State :=
  if s.hst.atc.length < 256 then s
  else
    { s with
      free := s.free + 1
      hst := { s.hst with atc := s.hst.atc.eraseIdx (1 + (Config.atcVictim s.free).toNat % 255) } }

/-- HST_ATCSTAT follows the translation cache, the held invalidations and the outstanding page requests (R210 to R212).
(Log: DEDUCED 114) -/
def State.atcShow (s : State) : State :=
  let s := (s.put HST_ATCSTAT_VALID s.hst.atc.length).put HST_ATCSTAT_INVAL s.hst.inval.length
  s.put HST_ATCSTAT_PRI (s.hst.pri.countP fun q => q.sent)

/-- Translates the page of an access before it is made, where ATS is enabled (R210): an entry of the translation cache that permits the
access serves, and becomes the one used last; else a translation request is sent and its result enters the cache.
(Log: DEDUCED 114) -/
def State.translate (s : State) (w : Who) (a : Nat) (write : Bool) : State :=
  if s.atsOn w then
    let p := s.portOf w
    let tag (e : Port × Nat × Nat × Nat × Bool) : Bool :=
      let (q, f, i, pg, _) := e
      q == p && f == fnOf w && i == (s.pasid w).getD 0 && pg == a / 4096
    match s.hst.atc.find? fun e => tag e && (!write || e.2.2.2.2) with
    | some e => { s with hst := { s.hst with atc := e :: s.hst.atc.erase e } }
    | none =>
      let s := { s with hst := { s.hst with atc := s.hst.atc.filter fun e => !tag e } }
      let s := s.atcEvict
      let e := (p, fnOf w, (s.pasid w).getD 0, a / 4096, write)
      (({ s with hst := { s.hst with atc := e :: s.hst.atc } }).emit (.xlat p (fnOf w) (s.pasid w) (a / 4096 * 4096) write)).atcShow
  else s

/-- The pieces of at most `k` bytes of an access of `n` bytes at `a`, none across a 4 KiB boundary: offsets and lengths. At most `fuel`
pieces are made.
(Log: DESIGN CHOICE 7) -/
def pieces (k : Nat) : Nat → Nat → Nat → Nat → List (Nat × Nat)
  | 0, _, _, _ => []
  | fuel + 1, a, o, n =>
    let m := min k (4096 - (a + o) % 4096)
    if n ≤ m then [(o, n)] else (o, m) :: pieces k fuel a (o + m) (n - m)

/-- Writes host memory for an owner, in requests of at most 256 bytes (R190, R209).
(Log: DESIGN CHOICE 7) -/
def State.hostWr (s : State) (w : Who) (a : Nat) (bytes : List Byte) : State :=
  (pieces 256 (bytes.length / 256 * 2 + 2) a 0 bytes.length).foldl (fun t c =>
    let t := t.translate w (a + c.1) true
    t.emit (.wr (t.portOf w) (t.pasid w) (a + c.1) ((bytes.drop c.1).take c.2) (t.atsOn w))) s

/-- Reads host memory for an owner, in requests of at most 512 bytes (R190, R209).
(Log: DESIGN CHOICE 7) -/
def State.hostRd (s : State) (w : Who) (a len : Nat) : State :=
  (pieces 512 (len / 512 * 2 + 2) a 0 len).foldl (fun t c =>
    let t := t.translate w (a + c.1) false
    t.emit (.rd (t.portOf w) (t.pasid w) (a + c.1) c.2 (t.atsOn w))) s

/-- The owner as an option of a number, for keys. -/
def whoNum : Who → Option Nat
  | none => none
  | some v => some v.val

/-- The mask bit of an MSI-X vector, and its pending bit.
(Log: PRESUMED 10) -/
def msixMask (w : Who) (p : Port) (k : Nat) : FRef := ⟨msixBase (whoNum w) p.num + 16 * k + 12, 0, 1⟩
def msixPend (w : Who) (p : Port) (k : Nat) : FRef := ⟨msixBase (whoNum w) p.num + 0x2000 + 4 * (k / 32), k % 32, 1⟩

/-- Raises an MSI-X vector of an owner's function on its port: sent, or pending while its entry is masked. -/
def State.raise (s : State) (w : Who) (k : Nat) : State :=
  let p := s.portOf w
  if s.on (msixMask w p k) then s.put (msixPend w p k) 1 else s.emit (.msi p w k)

/-- Has the owner failed over to a port on which its work has not resumed (R206 step 4)? -/
def State.moving (s : State) (w : Who) : Bool :=
  s.hst.rebind.any fun r => r.1 == w && r.2.1 == (match w with
    | none => Machine.portOf (s.on HST_OWNBIND_PORT)
    | some v => Machine.portOf (s.on (HST_VIBIND_PORT v.val)))

/-- A host write that must wait, in order, while its owner is not served: its bytes and the vector raised after it
(R206, R338). -/
def State.hostPut (s : State) (w : Who) (a : Nat) (bytes : List Byte) (vec : Option Nat) : State :=
  if s.served w && !s.moving w && !(s.hst.held.any fun h => h.1 == w) then
    let s := s.hostWr w a bytes
    match vec with
    | some v => s.raise w v
    | none => s
  else { s with hst := { s.hst with held := s.hst.held ++ [(w, a, bytes, vec)] } }

/-- Issues the held writes of an owner that is served again, in order (R338). -/
def State.hostFlush (s : State) (w : Who) : State :=
  let l := s.hst.held.filter fun h => h.1 == w
  let s := { s with hst := { s.hst with held := s.hst.held.filter fun h => h.1 != w } }
  l.foldl (fun s h => s.hostPut w h.2.1 h.2.2.1 h.2.2.2) s

/-! ## Translation state -/

/-- Page requests that the host allows outstanding on a port, at most 32 (Table 8-2); none while PRI is disabled (R212).
(Log: DEDUCED 115) -/
def State.priAlloc (s : State) (p : Port) : Nat :=
  match (s.fnCfg p 0).pri with
  | some k => min 32 k.toNat
  | none => 0

/-- Sends the waiting page request whose owner comes first in the order of R18, while the allocation lasts: a group of one page, Last
set (R212). -/
def State.priNext (s : State) (p : Port) : State :=
  let mine (q : PageReq) : Bool := s.portOf q.who == p
  let rank (q : PageReq) : Nat := s.rank (s.originOf q.who)
  let best := (s.hst.pri.filter fun q => mine q && !q.sent).foldl (fun (b : Option PageReq) q =>
    match b with
    | some c => if rank q < rank c then some q else some c
    | none => some q) none
  match best with
  | some q =>
    if (s.hst.pri.countP fun x => mine x && x.sent) < s.priAlloc p then
      let e := s.after (s.get HST_PRICFG_TMO)
      let s := { s with hst := { s.hst with
        pri := s.hst.pri.map fun (x : PageReq) => if x = q then { x with sent := true, end_ := e } else x } }
      s.atcShow.emit (.pageReq p (fnOf q.who) (s.pasid q.who) (q.addr / 4096 * 4096) q.write true)
    else s
  | none => s

/-- Sends what the allocations of both ports allow (R212). -/
def State.priSend (s : State) : State :=
  (upTo 32).foldl (fun t _ => (t.priNext .hpa).priNext .hpb) s

/-- Drops the page requests that `p` accepts: a response that still arrives is discarded, and waiting ones take their turn (R212,
R329). -/
def State.priDrop (s : State) (p : PageReq → Bool) : State :=
  if s.hst.pri.any p then (({ s with hst := { s.hst with pri := s.hst.pri.filter fun q => !p q } }).atcShow).priSend else s

/-- Drops the page requests of a subchannel. -/
def State.scPriDrop (s : State) (n : Nat) : State :=
  s.priDrop fun q => match q.tgt with
    | .sub k => k.val == n
    | _ => false

/-- Drops the page requests of a channel's data access or fetch. -/
def State.dcPriDrop (s : State) (n : Nat) : State :=
  s.priDrop fun q => match q.tgt with
    | .chanData k => k.val == n
    | .chanFetch k => k.val == n
    | _ => false

/-- Is a page request outstanding for the write of subchannel `n`'s SSR, or of channel `n`'s record? That record is kept until it is
written (R269, R317). -/
def State.ssrAsked (s : State) (n : Nat) : Bool :=
  s.hst.pri.any fun q => match q.tgt with
    | .ssr k => k.val == n
    | _ => false
def State.recAsked (s : State) (n : Nat) : Bool :=
  s.hst.pri.any fun q => match q.tgt with
    | .chanRec k => k.val == n
    | _ => false

/-- Drops the page request for a subchannel's SSR, or for a channel's record. -/
def State.ssrPriDrop (s : State) (n : Nat) : State :=
  s.priDrop fun q => match q.tgt with
    | .ssr k => k.val == n
    | _ => false
def State.recPriDrop (s : State) (n : Nat) : State :=
  s.priDrop fun q => match q.tgt with
    | .chanRec k => k.val == n
    | _ => false

/-! ## Errors (R215, Table 8-5) -/

/-- The default severity of an error. -/
def AerErr.severity : AerErr → AerSev
  | .receiver | .badTlp | .badDllp | .replayRollover | .replayTimeout | .advisory | .corrected => .correctable
  | .poisoned | .completionTimeout | .completerAbort | .unexpected | .ecrc | .unsupported => .nonFatal
  | .dataLink | .overflow | .flowControl | .malformed | .internal => .fatal

/-- A function of a port reports an error through AER (R215).
(Log: DEDUCED 173) -/
def State.aerReport (s : State) (p : Port) (fn : Nat) (e : AerErr) : State :=
  let s := if s.hst.aer.contains (p, fn, e) then s else { s with hst := { s.hst with aer := s.hst.aer ++ [(p, fn, e)] } }
  s.emit (.aer p fn e e.severity)

/-! ## Completion entries -/

/-- A ring pair as reset leaves it. -/
def RingX.idle : RingX := ⟨0, 0, 0, 0, false, []⟩

/-- The internal state of a ring pair. -/
def State.ring (s : State) (r : RingId) : RingX := s.rng.rings.getD (ringIdx r) RingX.idle

/-- Changes a ring pair's internal state. -/
def State.modRing (s : State) (r : RingId) (f : RingX → RingX) : State :=
  { s with rng := { s.rng with rings := modAt s.rng.rings (ringIdx r) f } }

/-- The number of entries of a ring whose size register holds `l` (R225). -/
def ringSize (l : Nat) : Nat := 2 ^ l

/-- A 64-bit base from its LO field (bits 31:12) and HI field. -/
def base64 (lo hi : Nat) : Nat := lo * 4096 + hi * 2 ^ 32

/-- Writes one completion entry at the write index with the current phase, in one 16-byte write (R231, R237). -/
def State.writeCpl (s : State) (r : RingId) (c : Cpl) : State :=
  let k := ringKey r
  let wr := s.get (RNG_CQTAIL_WR k)
  let ph := s.get (RNG_CQTAIL_PHASE k)
  let a := base64 (s.get (RNG_CQBASE_LO_BASE k)) (s.get (RNG_CQBASE_HI_BASE k)) + 16 * wr
  let sqid : Nat := if r = .adm then 1 else 0
  let bytes := leBytes 4 c.result ++ leBytes 4 c.aux ++ leBytes 2 c.cid ++ leBytes 2 (s.get (RNG_SQHEAD_HEAD k)) ++
    leBytes 1 c.status ++ leBytes 1 sqid ++ leBytes 1 0 ++ leBytes 1 ph
  let s := s.hostWr (whoOf r) a bytes
  if wr + 1 < ringSize (s.get (RNG_CQSIZE_LOG2 k)) then s.put (RNG_CQTAIL_WR k) (wr + 1)
  else (s.put (RNG_CQTAIL_WR k) 0).put (RNG_CQTAIL_PHASE k) (1 - ph)

/-- Raises the ring's vector: every unsignalled entry is signalled. -/
def State.raiseRing (s : State) (r : RingId) : State :=
  let s := s.modRing r fun x => { x with unsig := 0 }
  s.raise (whoOf r) (s.get (RNG_CQVEC_VEC (ringKey r)))

/-- The coalescing of R234 after one posted completion. -/
def State.signal (s : State) (r : RingId) (c : Cpl) : State :=
  if c.noIrq then s
  else if c.status != 0 then s.raiseRing r
  else
    let k := ringKey r
    let n := (s.ring r).unsig + 1
    if s.get (RNG_CQVEC_COAL_CNT k) + 1 ≤ n then s.raiseRing r
    else s.modRing r fun x =>
      { x with unsig := n, unsigEnd := if n = 1 then s.after (s.get (RNG_CQVEC_COAL_TIME k)) else x.unsigEnd }

/-- Posts a completion, or holds it in order while the owner is not served (R231, R338). -/
def State.post (s : State) (r : RingId) (c : Cpl) : State :=
  if s.served (whoOf r) && !s.moving (whoOf r) && (s.ring r).held.isEmpty then (s.writeCpl r c).signal r c
  else s.modRing r fun x => { x with held := x.held ++ [c] }

/-- Writes the completions that were held for a ring, in order (R338). -/
def State.postHeld (s : State) (r : RingId) : State :=
  let l := (s.ring r).held
  let s := s.modRing r fun x => { x with held := [] }
  l.foldl (fun s c => (s.writeCpl r c).signal r c) s

/-- The fetched command with a tag. -/
def State.cmd (s : State) (t : Tag) : Option Cmd := s.rng.cmds.find? fun c => c.tag == t

/-- Changes the fetched command with a tag. -/
def State.modCmd (s : State) (t : Tag) (f : Cmd → Cmd) : State :=
  { s with rng := { s.rng with cmds := s.rng.cmds.map fun c => if c.tag == t then f c else c } }

/-- Does a mailbox request quote a tag (R155)? -/
def quotes (t : Tag) : MbxReq → Bool
  | .cmd u _ => u == t
  | _ => false

/-- Drops a command from the origin ledger and its mailbox slot (R155). -/
def State.dropCmd (s : State) (t : Tag) : State :=
  { s with
    rng := { s.rng with cmds := s.rng.cmds.filter fun c => c.tag != t }
    snt := { s.snt with mbx := s.snt.mbx.filter fun m => !quotes t m.req } }

/-- The status a forced item reports: the numerically greater of 0x41 and its own (R327). -/
def forcedStatus (forced : Bool) (st : Nat) : Nat := if forced then max 0x41 st else st

/-- Completes a command: its entry is posted and it leaves the origin ledger (R231, R237); a doorbell that its halt overrode shows in
AUX bit 0 (R243). -/
def State.complete (s : State) (t : Tag) (status result aux : Nat) : State :=
  match s.cmd t with
  | none => s
  | some c =>
    let st := forcedStatus c.forced status
    (s.dropCmd t).post c.ring ⟨result, if c.lostDb then setBit aux 0 true else aux, c.entry.cid.toNat, st, bitOf c.entry.flags.toNat 1⟩

/-- Completes a command that succeeds. -/
def State.done (s : State) (t : Tag) (result aux : Nat) : State := s.complete t 0x00 result aux

/-- Writes a command's host buffer, cut to BUF_LEN: a longer result is TRUNCATED (0x05). -/
def State.doneBuf (s : State) (t : Tag) (bytes : List Byte) (result aux : Nat) : State :=
  match s.cmd t with
  | none => s
  | some c =>
    let n := c.entry.len.toNat
    let s := s.hostPut (whoOf c.ring) c.entry.buf.toNat (bytes.take n) none
    s.complete t (if n < bytes.length then 0x05 else 0x00) result aux

/-- Parameter `i` of an entry. -/
def SqEntry_param (e : SqEntry) (i : Nat) : Nat := (e.params.getD i 0).toNat

/-- The address in two parameters (R240). -/
def paramAddr (e : SqEntry) (i : Nat) : Nat := SqEntry_param e i + SqEntry_param e (i + 1) * 2 ^ 32

/-- The record BAD_ACCESS: SUBJECT is the function, ARG0 the offset (Table 8-9). -/
def State.badAccess (s : State) (w : Who) (off : Nat) : State := s.log 0x7005 (fnOf w) [some off]

/-! ## The Event ring -/

/-- The Event ring is enabled (R455). -/
def State.evOn (s : State) : Bool := s.get RNG_EVSIZE_LOG2 != 0

/-- Has the Event ring room for one entry? -/
def State.evRoom (s : State) : Bool :=
  let n := ringSize (s.get RNG_EVSIZE_LOG2)
  s.evOn && s.served none && !s.moving none && (s.get RNG_EVTAIL_WR + 1) % n != s.rng.evHead

/-- Writes one 64-byte Event ring entry at the write index (R238). -/
def State.writeEv (s : State) (e : Ev) (logSeq : Nat) : State :=
  let wr := s.get RNG_EVTAIL_WR
  let ph := s.get RNG_EVTAIL_PHASE
  let a := base64 (s.get RNG_EVBASE_LO_BASE) (s.get RNG_EVBASE_HI_BASE) + 64 * wr
  let bytes := leBytes 2 e.code ++ leBytes 2 e.subject ++ leBytes 4 e.a0 ++ leBytes 4 e.a1 ++ leBytes 4 e.a2 ++
    leBytes 8 e.ts ++ leBytes 8 e.a3 ++ leBytes 8 e.a4 ++ leBytes 4 logSeq ++ zeros 19 ++ leBytes 1 ph
  let s := s.hostWr none a bytes
  let s := if wr + 1 < ringSize (s.get RNG_EVSIZE_LOG2) then s.put RNG_EVTAIL_WR (wr + 1)
    else (s.put RNG_EVTAIL_WR 0).put RNG_EVTAIL_PHASE (1 - ph)
  s.raise none (s.get RNG_EVVEC_VEC)

/-- Queues an Event ring entry: at most 64 are held, and a further one is dropped and counted (R235). -/
def State.evQueue (s : State) (e : Ev) (logSeq : Nat) : State :=
  if s.rng.evHeld.length < 64 then { s with rng := { s.rng with evHeld := s.rng.evHeld ++ [(e, logSeq)] } }
  else s.count RNG_EVDROP_COUNT

/-- The EVENT_DROP entry of the Event ring: ARG0 is the number dropped (R235, R455). -/
def State.evDropEntry (s : State) : State :=
  if s.get RNG_EVDROP_COUNT != 0 && s.evRoom then
    let a := fun i => recArg 0x6003 i none
    let e : Ev := ⟨Origin.sentinel.code, 0x6003, 0, s.get RNG_EVDROP_COUNT, a 1, a 2, a 3, a 4, s.now, false⟩
    (s.writeEv e 0xFFFFFFFF).put RNG_EVDROP_COUNT 0
  else s

/-- Posts held entries in order while there is room: the EVENT_DROP entry comes first once entries were dropped. -/
def State.evFlush (s : State) : Nat → State
  | 0 => s
  | k + 1 =>
    match s.rng.evHeld with
    | [] => s
    | (e, q) :: l =>
      if s.evRoom then
        (({ s with rng := { s.rng with evHeld := l } }).writeEv e q).evFlush k
      else s

/-- Posts what the Event ring can take.
(Log: DEDUCED 124) -/
def State.evPost (s : State) : State := (s.evDropEntry.touch).evFlush 64

/-- Posts what waits for the Event ring, once it has room (R235). -/
def State.evWaiting (s : State) : State :=
  if (s.rng.evHeld.isEmpty && s.get RNG_EVDROP_COUNT == 0) || !s.evRoom then s else s.evPost

/-- An Event Log record has been written with SEQ `q`: it is posted if its category is enabled or a chapter requires it
(R235). -/
def State.evRecord (s : State) (e : Ev) (q : Nat) : State :=
  if e.logOnly then s
  else if evAlways e.code || bitOf (s.get RNG_EVMASK_MASK) (e.code / 4096) then (s.evQueue e q).evPost else s

end Sys2Proof.Machine
end

