-- ==== Sys2Proof/Machine/ChainCache.lean ====
section
/-!
DEFINITION. The chain cache (chapter 11): lookups, fills, the victim buffer, the store buffer and invalidations.
-/

namespace Sys2Proof.Machine

/-! ## Lines -/

/-- The set of an address: bits [11:6] (R274). -/
def setOf (a : Nat) : Nat := a / 64 % 64

/-- The sector of an address: bits [5:4]. -/
def sectOf (a : Nat) : Nat := a / 16 % 4

/-- The tag of an address: bits [63:12]. -/
def tagOf (a : Nat) : Nat := a / 4096

/-- Is this the line of an owner and address? -/
def Line.isFor (l : Line) (o a : Nat) : Bool := l.owner == o && l.set_ == setOf a && l.tag == tagOf a

/-- The bytes of the sector that holds address `a`, if valid. -/
def Line.at (l : Line) (a : Nat) : Option (List Byte) := l.sect.getD (sectOf a) none

/-- Has the line a valid sector? -/
def Line.live (l : Line) : Bool := l.sect.any Option.isSome

/-- The address of the line's first byte. -/
def Line.base (l : Line) : Nat := l.tag * 4096 + l.set_ * 64

/-- The cached line of an owner and address. -/
def Cch.line (c : Cch) (o a : Nat) : Option Line := c.lines.find? (·.isFor o a)

/-- The victim line of an owner and address. -/
def Cch.victim (c : Cch) (o a : Nat) : Option Line := c.victims.find? (·.isFor o a)

/-- The registers that follow the cache and the store buffer (R458). -/
def State.cchShow (s : State) : State :=
  let c := s.cch
  let s := s.put CCH_STAT_VALID ((c.lines ++ c.victims).countP Line.live)
  let s := s.put CCH_STAT_SB c.stores.length
  let s := s.putB CCH_STAT_MISS c.miss.isSome
  let own := (upTo 17).foldl (fun m o => if c.stores.any (fun e => e.owner == o) then m + 2 ^ o else m) 0
  ((s.put CCH_SBMIRROR_OWNERS own).put CCH_SBMIRROR_COUNT c.stores.length).put RST_LOSTSTORES_COUNT c.stores.length

/-- Changes the cache and lets the registers follow. -/
def State.modCch (s : State) (f : Cch → Cch) : State := ({ s with cch := f s.cch }).cchShow

/-- Puts a displaced line with a valid sector into the 4-line victim buffer (R279). -/
def Cch.evict (c : Cch) (l : Line) : Cch :=
  if l.live then
    let v := c.victims ++ [l]
    { c with victims := if 4 < v.length then v.drop 1 else v }
  else c

/-- The way a line of set `k` takes (R278): the lowest without a valid sector, else the one the set's pointer names; and
whether the pointer was used. -/
def Cch.pickWay (c : Cch) (k : Nat) : Nat × Bool :=
  let live (w : Nat) := c.lines.any fun l => l.set_ == k && l.way == w && l.live
  match (upTo 4).find? (fun w => !live w) with
  | some w => (w, false)
  | none => (cellGet (fun _ => 0) c.ptrs k, true)

/-- Allocates a way of its set to a line, displacing what is there (R278, R279).
(Log: DEDUCED 139) -/
def Cch.alloc (c : Cch) (l : Line) : Cch :=
  let (w, used) := c.pickWay l.set_
  let old := c.lines.find? fun x => x.set_ == l.set_ && x.way == w
  let c := { c with lines := c.lines.filter (fun x => !(x.set_ == l.set_ && x.way == w)) ++ [{ l with way := w }] }
  let c := if used then { c with ptrs := cellSet (fun _ => 0) c.ptrs l.set_ ((w + 1) % 4) } else c
  match old with
  | some o => c.evict o
  | none => c

/-- Changes the cached or victim line of an owner and address. -/
def Cch.mapLine (c : Cch) (o a : Nat) (f : Line → Line) : Cch :=
  { c with
    lines := c.lines.map fun (l : Line) => if l.isFor o a then f l else l
    victims := c.victims.map fun (l : Line) => if l.isFor o a then f l else l }

/-- Drops the cached and victim lines that `p` accepts; answers how many had a valid sector (R285). -/
def Cch.drop (c : Cch) (p : Line → Bool) : Cch × Nat :=
  ({ c with lines := c.lines.filter (fun l => !p l), victims := c.victims.filter (fun l => !p l) },
    (c.lines ++ c.victims).countP fun l => p l && l.live)

/-! ## Reads -/

/-- Do two byte ranges overlap? -/
def overlap (a n b m : Nat) : Bool := decide (a < b + m) && decide (b < a + n)

/-- What the store buffer says of a read (R281): the forwarded bytes, or how many of the oldest entries must drain first. -/
inductive Fwd where
  | bytes (l : List Byte)
  | wait
  | free
  deriving DecidableEq, Repr

/-- The overlap rules of R281 for a read of `n` bytes by an owner.
(Log: DEDUCED 138) -/
def Cch.forward (c : Cch) (o a n : Nat) : Fwd :=
  match (c.stores.filter fun e => e.owner == o && overlap e.addr 16 a n).getLast? with
  | none => .free
  | some e => if e.addr ≤ a && a + n ≤ e.addr + 16 then .bytes ((e.bytes.drop (a - e.addr)).take n) else .wait

/-- A lookup's answer. -/
inductive Look where
  /-- a hit, or bytes forwarded from the store buffer -/
  | hit (bytes : List Byte) (fromBuf : Bool)
  /-- a host read must be issued -/
  | miss
  /-- the read waits: a miss or overlapping stores are in the way -/
  | wait
  deriving DecidableEq, Repr

/-- Looks an entry up in the cache and the victim buffer (R276, R279); a victim moves back into its set.
(Log: DEDUCED 138) -/
def State.cchLook (s : State) (o a : Nat) : State × Look :=
  match s.cch.forward o a 16 with
  | .bytes l => (s, .hit l true)
  | .wait => (s, .wait)
  | .free =>
    if !s.on CCH_CFG_EN then (s, if s.cch.miss.isSome then .wait else .miss)
    else
      match s.cch.line o a with
      | some l =>
        match l.at a with
        | some b => (s.count CCH_HITCNT_COUNT, .hit b false)
        | none => (s, if s.cch.miss.isSome then .wait else .miss)
      | none =>
        match s.cch.victim o a with
        | some l =>
          let s := s.modCch fun c => ({ c with victims := c.victims.filter fun (v : Line) => !v.isFor o a }).alloc l
          match l.at a with
          | some b => (s.count CCH_VBHITCNT_COUNT, .hit b false)
          | none => (s, if s.cch.miss.isSome then .wait else .miss)
        | none => (s, if s.cch.miss.isSome then .wait else .miss)

/-- Issues the host read of a miss: from the addressed sector to the end of its line (R276).
(Log: DEDUCED 139) -/
def State.cchMiss (s : State) (sub o a : Nat) (install : Bool) : State :=
  let s := s.count CCH_MISSCNT_COUNT
  let s := s.modCch fun c => { c with miss := some ⟨sub, o, a, install && s.on CCH_CFG_EN⟩ }
  s.hostRd (whoOfCode o) a (64 - a % 64)

/-- Installs the sectors a fill returned, in order from the addressed one (R276, R278).
(Log: DEDUCED 139) -/
def Cch.install (c : Cch) (o a : Nat) (bytes : List Byte) : Cch :=
  let sector (k : Nat) : Option (List Byte) :=
    if sectOf a ≤ k then some ((bytes.drop (16 * (k - sectOf a))).take 16) else none
  let fill (l : Line) : Line := { l with sect := (upTo 4).map fun k => orSome (sector k) (l.sect.getD k none) }
  if (c.line o a).isSome || (c.victim o a).isSome then c.mapLine o a fill
  else c.alloc (fill ⟨setOf a, 0, o, tagOf a, [none, none, none, none]⟩)

/-! ## Stores -/

/-- A marker enters the store buffer and updates a line that it hits (R280). -/
def State.cchStore (s : State) (o a : Nat) (bytes : List Byte) : State :=
  s.modCch fun c =>
    let c := c.mapLine o a fun l => { l with sect := modAt l.sect (sectOf a) fun _ => some bytes }
    { c with stores := c.stores ++ [⟨o, a, bytes⟩] }

/-- The oldest store enters its owner's host transmit queue (R281). -/
def State.storeDrain1 (s : State) : State :=
  match s.cch.stores with
  | [] => s
  | e :: l => (s.modCch fun c => { c with stores := l }).hostPut (whoOfCode e.owner) e.addr e.bytes none

/-- Drains the whole store buffer, as a report or a drain command requires (R267, R283).
(Log: DEDUCED 139) -/
def State.storeDrainAll (s : State) : State := (upTo s.cch.stores.length).foldl (fun s _ => s.storeDrain1) s

/-- STORE_DRAIN (R281): one entry, the oldest. -/
def execStoreDrain (s : State) : Res := .next s.storeDrain1

/-- A write of READ data to host memory invalidates the owner's sectors it touches (R282). -/
def State.cchTouch (s : State) (o a n : Nat) : State :=
  if n = 0 then s
  else
    let f (l : Line) : Line :=
      if l.owner == o then
        { l with sect := (upTo 4).map fun k =>
            if overlap (l.base + 16 * k) 16 a n then none else l.sect.getD k none }
      else l
    s.modCch fun c => { c with lines := c.lines.map f, victims := c.victims.map f }

/-! ## Maintenance -/

/-- Is a line within a scope of Table 11-1 for an issuer of code `o`? -/
def inScope (scope o a lo la : Nat) : Bool :=
  match scope with
  | 0 => o == 16 || lo == o
  | 1 => lo == o
  | 2 => lo == o && la / 64 == a / 64
  | 3 => lo == o && la / 4096 == a / 4096
  | _ => false

/-- Invalidates the lines of a scope, in the cache and the victim buffer; an outstanding fill within the scope is delivered
but not installed (R285, R286). Answers the number of lines.
(Log: DEDUCED 139) -/
def State.cchInval (s : State) (scope o a : Nat) : State × Nat :=
  let p (l : Line) : Bool := inScope scope o a l.owner l.base
  let (c, n) := s.cch.drop p
  let miss := c.miss.map fun m => if inScope scope o a m.owner m.addr then { m with install := false } else m
  (s.modCch fun _ => { c with miss := miss }, n)

/-- CCH_INVAL_ALL (R16, R285): scope 0 from the Owner. -/
def execCchInvalAll (s : State) : Res := .next <| if s.ownerReach then (s.cchInval 0 16 0).1 else s

/-- CCH_CTL_DRAIN (R16, R285): the store buffer drains. -/
def execCchCtlDrain (s : State) : Res := .next <| if s.ownerReach then s.storeDrainAll else s

/-- CCH_CNT_CLR (R16, R458): the four counters become 0 in one cycle. -/
def execCchCntClr (s : State) : Res :=
  .next <|
    if s.ownerReach then
      (((s.put CCH_HITCNT_COUNT 0).put CCH_MISSCNT_COUNT 0).put CCH_VBHITCNT_COUNT 0).put CCH_STAT_REFETCH 0
    else s

/-- Every line becomes invalid (R287, R288). -/
def State.cchClear (s : State) : State :=
  s.modCch fun c => { c with lines := [], victims := [], ptrs := [], miss := none, waits := [] }

/-- Discards the stores of the owners that `p` accepts; answers how many (R288). -/
def State.storesDrop (s : State) (p : Nat → Bool) : State × Nat :=
  let n := s.cch.stores.countP fun e => p e.owner
  (s.modCch fun c => { c with stores := c.stores.filter fun e => !p e.owner }, n)

end Sys2Proof.Machine
end

