-- ==== Sys2Proof/Machine/Cpe.lean ====
section
/-!
DEFINITION. Subchannels (chapter 10): status records, ends, failures, holds, halts and resumptions, entry checks, the
fetch, and the entries that never reach a device.
-/

namespace Sys2Proof.Machine

/-! ## State codes (Table 10-5) and SSR reasons (Table 10-7) -/

abbrev scIDLE : Nat := 0
abbrev scACTIVE : Nat := 1
abbrev scBUDGET : Nat := 2
abbrev scWAITING : Nat := 3
abbrev scTAIL : Nat := 4
abbrev scSUSPENDED : Nat := 5
abbrev scPAGE : Nat := 6
abbrev scSTOPPED : Nat := 7

abbrev whyNOTIFY : Nat := 1
abbrev whyTAIL : Nat := 2
abbrev whyEND : Nat := 3
abbrev whyERROR : Nat := 4
abbrev whySUSPENDED : Nat := 5
abbrev whyHALTED : Nat := 6

/-! ## A subchannel -/

/-- No entry. -/
def Cce.none_ : Cce := ⟨0, 0, 0, 0, 0, 0⟩

/-- A subchannel without a chain. -/
def Sub.idle : Sub :=
  ⟨.off, none, false, false, .none_, none, 0, none, 0, 0, 0, false, false, 0, [], [], false, 0, none, none, false, [], 0, 0, 0, false, 0, none⟩

/-- Subchannel `n`. -/
def State.sub (s : State) (n : Nat) : Sub := s.cpe.getD n Sub.idle

/-- Changes subchannel `n`. -/
def State.modSub (s : State) (n : Nat) (f : Sub → Sub) : State := { s with cpe := modAt s.cpe n f }

/-- Its state, owner, owner code, port and device class. -/
def State.scSt (s : State) (n : Nat) : Nat := s.get (CPE_SCSTAT0_STATE n)
def State.scOwner (s : State) (n : Nat) : Who := whoOfCode (s.get (CPE_SCCFG_OWNER n))
def State.scCode (s : State) (n : Nat) : Nat := whoCode (s.scOwner n)
def State.scPort (s : State) (n : Nat) : Nat := s.get (CPE_SCCFG_PORT n)

/-- The address of its resume point's entry (CPE_SCPTR). -/
def State.scAddr (s : State) (n : Nat) : Nat :=
  s.get (CPE_SCPTR_LO_ADDR n) * 16 + s.get (CPE_SCPTR_HI_ADDR n) * 2 ^ 32

/-- Moves the resume point to the entry at `a`. -/
def State.setScAddr (s : State) (n a : Nat) : State :=
  (s.put (CPE_SCPTR_LO_ADDR n) (a / 16)).put (CPE_SCPTR_HI_ADDR n) (a / 2 ^ 32)

/-- Flag bit `i` of an entry (Table 10-2). -/
def Cce.flag (c : Cce) (i : Nat) : Bool := bitOf c.flags i

/-- Bytes of the entry in hand not transferred (RESIDUAL of Table 10-7). -/
def State.scResid (s : State) (n : Nat) : Nat :=
  let u := s.sub n
  if u.ph = .ready ∨ u.ph = .adm ∨ u.ph = .op then
    if u.cce.code == 0x20 || u.cce.code == 0x21 || u.cce.code == 0x23 then u.cce.count - u.moved else 0
  else 0

/-- CPE_SCSTAT word 1 shows the bytes still to transfer (R262). -/
def State.scShow (s : State) (n : Nat) : State := s.put (CPE_SCSTAT1_RESID n) (s.scResid n)

/-- DEV_STATUS of the running or last operation (R349). -/
def Sub.devStatus (u : Sub) : Nat := min 255 u.opBytes + 256 * u.opFlags

/-- Does subchannel `n` hold an operation open on its port (R346)? -/
def State.holdsPort (s : State) (n : Nat) : Bool :=
  s.on (DPT_PORTSTAT_OPEN (s.scPort n)) && s.get (DPT_PORTSTAT_HOLDER (s.scPort n)) == n

/-- Closes the port operation a subchannel holds open (R346, R348). -/
def State.portRelease (s : State) (n : Nat) : State :=
  let x := s.scPort n
  let s := s.modSub n fun u => { u with joined := false }
  if s.holdsPort n then ((s.put (DPT_PORTSTAT_OPEN x) 0).put (DPT_PORTSTAT_HOLDER x) 0).emit (.devEnd x) else s

/-- Does it hold a raw SPI operation open, which is never closed at a boundary (Table 15-2, R359)? -/
def State.rawOpen (s : State) (n : Nat) : Bool :=
  s.holdsPort n && (s.scPort n == 8 || s.scPort n == 9) && !bitOf (((s.sub n).head.getD (s.sub n).cce).dev) 1

/-! ## Status records -/

/-- The address of a subchannel's SSR area (R263). -/
def State.ssrBase (s : State) (n : Nat) : Nat := s.get (CPE_SCSSR_LO_BASE n) * 32 + s.get (CPE_SCSSR_HI_BASE n) * 2 ^ 32

/-- Posts an SSR (R266, R267): the store buffer drains first; the record lies at SEQ mod 2^k, and its vector is raised
unless QUIET covers a status of 0. -/
def State.ssr (s : State) (n reason status resid fault : Nat) : State :=
  let s := s.storeDrainAll.touch
  let seq := s.get (CPE_SCSEQ_SEQ n)
  let a := s.ssrBase n + 32 * (seq % 2 ^ s.get (CPE_SCSSRCFG_K n))
  let bytes := leBytes 8 (s.scAddr n) ++ leBytes 8 fault ++ leBytes 8 s.now ++ leBytes 2 resid ++ leBytes 1 status ++
    leBytes 1 (s.scSt n + 16 * reason) ++ leBytes 2 (s.sub n).devStatus ++ leBytes 2 seq
  let s := if s.ssrAsked n then s else s.modSub n fun u => { u with ssr := some (a, bytes) }
  let vec := if s.on (CPE_SCSSRCFG_QUIET n) && status == 0 then none else some (s.get (CPE_SCSSRCFG_VEC n))
  let s := s.hostPut (s.scOwner n) a bytes vec
  (s.put (CPE_SCSEQ_SEQ n) (seq + 1)).put (CPE_SCSTAT0_LAST n) status

/-- The chain ends or fails: the operation closes, the admission item goes, and the state is STOPPED with an SSR (R252,
R268). -/
def State.scStop (s : State) (n reason status resid fault : Nat) : State :=
  let s := (s.portRelease n).admDrop n
  let s := s.put (CPE_SCSTAT0_STATE n) scSTOPPED
  let s := if (s.sub n).holdDue.isSome then s.put (CPE_SCSTAT0_HOLDS n) 0 else s
  let s := s.ssr n reason status resid fault
  s.modSub n fun u => { u with ph := .off, got := none, head := none, forced := false, apert := [], busy := none, holdDue := none }

/-- The entry in hand fails with a status (R268). -/
def State.scFail (s : State) (n status fault : Nat) : State := s.scStop n whyERROR status (s.scResid n) fault

/-- The subchannel becomes IDLE: nothing of the chain is kept, except SEQ and the flash pointer (R266, R456). -/
def State.scIdle (s : State) (n : Nat) : State :=
  let s := (s.portRelease n).admDrop n
  let s := ((s.put (CPE_SCSTAT0_STATE n) scIDLE).put (CPE_SCSTAT0_DB_PEND n) 0).put (CPE_SCSTAT0_HOLDS n) 0
  let s := (s.setScAddr n 0).setReg (0xC204 + 8 * n) 0
  s.modSub n fun u => { Sub.idle with flash := u.flash, ssr := u.ssr, jumps := u.jumps, jumpTick := u.jumpTick }

/-- The subchannel leaves its owner: nothing of it is written under another (R247). -/
def State.scLeave (s : State) (n : Nat) : State :=
  (((s.scPriDrop n).ssrPriDrop n).scIdle n).modSub n fun u => { u with ssr := none }

/-- A halt: an SSR with reason HALTED, then IDLE (R264). -/
def State.scHalt (s : State) (n : Nat) : State :=
  if s.scSt n == scIDLE then s
  else
    let r := s.scResid n
    let a := s.scAddr n
    let s := (s.portRelease n).admDrop n
    let s := s.put (CPE_SCSTAT0_STATE n) scIDLE
    let s := (s.setScAddr n a).ssr n whyHALTED 0x60 r 0
    s.scIdle n

/-- Moves to the entry at `a` and fetches it; RESID keeps the last entry's residual until the next entry begins (R255), and
DEV_STATUS is that of an operation which goes on, else 0 (R349). -/
def State.scNext (s : State) (n a : Nat) : State :=
  let s := s.setScAddr n (a % 2 ^ 64)
  let s := s.put (CPE_SCSTAT1_IALIDX n) 0
  s.modSub n fun u =>
    { u with ph := .fetch, got := none, force := false, tailRe := false, moved := 0, seg := none, segOff := 0
             opBytes := if u.joined || u.head.isSome then u.opBytes else 0
             opFlags := if u.joined || u.head.isSome then u.opFlags else 0
             opSent := if u.joined || u.head.isSome then u.opSent else []
             begun := u.begun && u.head.isSome, busy := none }

/-- The entry in hand completes with a status of 0x00 to 0x05 (R252, R256, R327): its NOTIFY, then the next entry at `next`
if CHAIN is set, else the end of the chain. -/
def State.scEntryDone (s : State) (n st next : Nat) : State :=
  let u := s.sub n
  let s :=
    if u.cce.flag 3 || u.forced then s.ssr n whyNOTIFY (if u.forced then 0x41 else st) (s.scResid n) 0 else s
  let r := s.scResid n
  let s := s.modSub n fun u => { u with forced := false, head := none, apert := [] }
  if u.cce.flag 7 then s.scNext n next
  else
    (s.modSub n fun u => { u with ph := .off }).scStop n whyEND 0x00 r 0

/-- The address of the entry after the current one. -/
def State.scFollow (s : State) (n : Nat) : Nat := s.scAddr n + 16

/-! ## Holds -/

/-- The class of the entry in hand, or of the run it belongs to (R253); flash programs and erases are at least E2 (R361). -/
def State.scClass (s : State) (n : Nat) : Nat :=
  let u := s.sub n
  let c := u.head.getD u.cce
  let x := s.scPort n
  let flash := (x == 8 || x == 9) && bitOf c.dev 1 &&
    (c.code == 0x20 || (c.code == 0x22 && c.dev / 16 % 16 == 2))
  if flash then max 2 (c.aux % 4) else c.aux % 4

/-- Suspends a chain with the status of its first hold: the admission item goes, the open operation closes and an SSR is posted. -/
def State.scSuspendNow (s : State) (n : Nat) (status : Option Nat) : State :=
  let r := s.scResid n
  let s := ((s.portRelease n).admDrop n).modSub n fun u => { u with holdDue := none }
  let s := s.put (CPE_SCSTAT0_STATE n) scSUSPENDED
  let s := s.scPriDrop n
  match status with
  | some v => s.ssr n whySUSPENDED v r 0
  | none => s

/-- A hold that waited for the end of a raw SPI operation takes effect. -/
def State.scHoldTake (s : State) (n : Nat) : State :=
  match (s.sub n).holdDue with
  | some st => s.scSuspendNow n st
  | none => s

/-- Sets a hold (R329): the first one suspends; a later one only sets its bit. A raw SPI operation runs to its end first, for it is one
burst (R348, R359). A chain that is IDLE or STOPPED has nothing to hold.
(Log: DEDUCED 137) -/
def State.scHold (s : State) (n bit : Nat) (status : Option Nat) : State :=
  let st := s.scSt n
  if st == scIDLE || st == scSTOPPED then s
  else
    let h := s.get (CPE_SCSTAT0_HOLDS n)
    let s := s.put (CPE_SCSTAT0_HOLDS n) (setBit h bit true)
    if h != 0 then s
    else if s.rawOpen n then s.modSub n fun u => { u with holdDue := some status }
    else s.scSuspendNow n status

/-- Resumes at the resume point: an entry in hand is executed again from where it stood and is admitted afresh (R262, R264). -/
def State.scGo (s : State) (n : Nat) : State :=
  let s := s.put (CPE_SCSTAT0_STATE n) scACTIVE
  s.modSub n fun u =>
    let u := { u with readmit := u.head.isSome }
    if u.ph = .adm ∨ u.ph = .op then { u with ph := .ready }
    else if u.ph = .fetch then { u with tailRe := false } else u

/-- Clears the holds of a mask; the last one cleared resumes (R329). -/
def State.scUnhold (s : State) (n mask : Nat) : State :=
  if s.scSt n == scSUSPENDED then
    let h := s.get (CPE_SCSTAT0_HOLDS n)
    let h' := h &&& (127 - mask % 128)
    let s := s.put (CPE_SCSTAT0_HOLDS n) h'
    if h' = 0 then s.scGo n else s
  else
    let h := s.get (CPE_SCSTAT0_HOLDS n) &&& (127 - mask % 128)
    let s := s.put (CPE_SCSTAT0_HOLDS n) h
    if h = 0 then s.modSub n fun u => { u with holdDue := none } else s

/-- Fetches the tail again from host memory (R271).
(Log: DEDUCED 137) -/
def State.scReread (s : State) (n : Nat) : State :=
  let s := (s.cchInval 2 (s.scCode n) (s.scAddr n)).1
  (s.put (CPE_SCSTAT0_STATE n) scACTIVE).modSub n fun u =>
    { u with ph := .fetch, got := none, force := true, tailRe := true }

/-! ## The checks of R251 -/

/-- The entry in 16 bytes (Table 10-1). -/
def cceOf (b : List Byte) : Cce := ⟨leAt b 0 1, leAt b 1 1, leAt b 2 2, leAt b 4 2, leAt b 6 1, leAt b 8 8⟩

/-- The check byte an entry should carry (R250). -/
def cceCrc (b : List Byte) : Nat := crc8 (b.take 7 ++ (b.drop 8).take 8)

/-- The flags a code permits (Tables 10-2 and 10-3). -/
def flagsAllowed (code : Nat) : Nat :=
  if code == 0x20 then 0xDE else if code == 0x21 then 0xFE else 0x8C

/-- Is a code listed in Table 10-3? -/
def codeListed (c : Nat) : Bool :=
  c == 0x09 || c == 0x0A || c == 0x0B || c == 0x0C || c == 0x20 || c == 0x21 || c == 0x22 || c == 0x23

/-- Check 3 of R251: reserved bits, fields that must be 0, permitted flags and pairs of flags, and the conditions on a
continuation (R253), for which SUSPEND is not compared. -/
def cceClean (c : Cce) (head : Option Cce) : Bool :=
  let zero : Bool :=
    match c.code with
    | 0x09 => c.count == 0 && c.dev == 0 && c.aux == 0 && c.addr == 0
    | 0x0A => c.count == 0 && c.dev == 0 && c.addr == 0
    | 0x0B => c.aux == 0
    | 0x0C => c.count == 0 && c.dev == 0 && c.aux == 0 && c.flag 7
    | 0x22 => c.addr == 0
    | _ => true
  let pairs := !(c.flag 7 && c.flag 6) && !(c.flag 5 && c.flag 1)
  let cont : Bool :=
    match head with
    | some h => c.code == h.code && c.dev == 0 && c.aux == 0 && (c.flags &&& 0x31) == (h.flags &&& 0x31)
    | none => true
  (c.flags &&& (255 - flagsAllowed c.code)) == 0 && (c.code == 0x0A || c.aux < 4) && zero && pairs && cont

/-- Check 4: alignment of a JUMP target, POST address or IAL address. -/
def cceAligned (c : Cce) : Bool :=
  if c.code == 0x0B || c.code == 0x0C || c.flag 1 then c.addr % 16 == 0 else true

/-- The first address of the posting aperture (R261). -/
abbrev apertBase : Nat := 0xFFFFFFFFFFFFF000

/-- Does an entry name the aperture? -/
def cceApert (c : Cce) : Bool :=
  (c.code == 0x20 || c.code == 0x21 || c.code == 0x23 || c.code == 0x0B) && decide (apertBase ≤ c.addr)

/-- Does a transfer that begins below the aperture run into it?
(Log: DEDUCED 141) -/
def cceCross (c : Cce) : Bool :=
  (c.code == 0x20 || (c.code == 0x21 && !c.flag 5) || c.code == 0x23) && !c.flag 1 && decide (c.addr < apertBase) &&
    decide (apertBase < c.addr + c.count)

/-- The status that refuses an aperture address (R261). -/
def apertRefuse (vi : Bool) : Nat := if vi then 0x30 else 0x14

/-- Check 5: the status of an aperture address that is not valid (R261).
(Log: DEDUCED 141) -/
def apertStatus (c : Cce) (vi : Bool) : Option Nat :=
  if cceCross c then some (apertRefuse vi)
  else if !cceApert c then none
  else if vi then some 0x30
  else
    let o := c.addr - apertBase
    if c.code == 0x21 && (c.flags &&& 0x62) == 0 && o % 2 == 0 && o ≤ 0xE && c.count % 2 == 0 && 2 ≤ c.count &&
        c.count ≤ 16 && o + c.count ≤ 16 then none
    else some 0x14

/-- CONTROL immediates of an I3C port that name a supported CCC (R356). -/
def cccKnown (c : Nat) : Bool :=
  c == 0x00 || c == 0x01 || c == 0x06 || c == 0x07 || c == 0x29 || c == 0x80 || c == 0x81 || c == 0x90

/-- Check 6: are DEVPARAM and COUNT valid for the port (R353 to R365)? -/
def dptValid (x : Nat) (c : Cce) (cont : Bool) : Bool :=
  let d := c.dev
  if c.code < 0x20 then true
  else if c.code == 0x23 then decide (1 ≤ c.count) && decide (c.count ≤ 8) && (d == 0 || 12 ≤ x)
  else if x < 6 then
    if cont then decide (1 ≤ c.count)
    else if c.code == 0x20 then
      let form := d / 256 % 4
      d / 1024 == 0 && form ≤ 1 && decide (1 ≤ c.count) && (form == 1 || c.count ≤ 256)
    else if c.code == 0x21 then
      let raw := bitOf d 7
      decide (1 ≤ c.count) && (if raw then d / 256 == 0 else c.count ≤ 255)
    else d / 128 == 0 && c.count ≤ 2
  else if x < 8 then
    if c.code == 0x22 then d / 128 == 0 && cccKnown (c.count / 256) else d / 512 == 0
  else if x < 10 then
    let flash := bitOf d 1
    if cont then true
    else if c.code == 0x22 then flash && (d &&& 0xFF0C) == 0 && decide (d / 16 % 16 ≤ 4)
    else if flash then (d &&& 0xFFFC) == 0
    else d / 32 == 0 && d / 4 % 4 != 3
  else if x < 12 then
    if c.code == 0x20 then d == 0
    else if c.code == 0x21 then d / 256 == 0
    else d == 0 && decide (c.count / 4096 ≤ 2)
  else
    if c.code == 0x20 then c.count == 8
    else if c.code == 0x21 then c.count == 4
    else true

/-- Checks 2 to 6 of R251, in order. -/
def State.cceStatus (s : State) (n : Nat) (c : Cce) : Option Nat :=
  let u := s.sub n
  if !codeListed c.code then some 0x10
  else if !cceClean c u.head then some 0x17
  else if !cceAligned c then some 0x12
  else
    match apertStatus c (s.scOwner n).isSome with
    | some st => some st
    | none => if dptValid (s.scPort n) c u.head.isSome then none else some 0x13

/-! ## The fetch -/

/-- May the CORE domain's engines work: the domain runs and no power-down is in progress (R334)? -/
def State.coreRuns (s : State) : Bool := s.rst.core && s.rst.downEnd.isNone && !s.rst.low

/-- May subchannel `n` go on: CORE runs, or a power-down lets its raw SPI operation, one burst in flight, run to its end (R334, R359)? -/
def State.subRuns (s : State) (n : Nat) : Bool := s.coreRuns || (s.rst.core && !s.rst.low && (s.sub n).holdDue.isSome)

/-- Entry into TAIL_WAIT: an SSR with reason TAIL unless the tail was already reported (R271). -/
def State.scTailWait (s : State) (n : Nat) : State :=
  let re := (s.sub n).tailRe
  let s := s.put (CPE_SCSTAT0_STATE n) scTAIL
  let s := s.modSub n fun u => { u with ph := .fetch, got := none, force := true }
  if re then s else s.ssr n whyTAIL 0x00 0 0

/-- A delivered entry is judged (R251, R271, R284). `mem` says that it came from host memory, or from the store buffer. -/
def State.scJudge (s : State) (n : Nat) (b : List Byte) (mem : Bool) : State :=
  let c := cceOf b
  let bad := cceCrc b != leAt b 7 1
  let a := s.scAddr n
  let again (s : State) : State := s.modSub n fun u => { u with got := none, force := true }
  if !mem && bad then
    again ((s.cchInval 2 (s.scCode n) a).1.count CCH_STAT_REFETCH)
  else if bad then
    let s := s.log 0x8001 n [some (leAt b 7 1 + 256 * cceCrc b), none, none, some a]
    (s.modSub n fun u => { u with got := none }).scStop n whyERROR 0x52 0 0
  else if c.flag 2 && !mem then again (s.cchInval 2 (s.scCode n) a).1
  else if c.flag 2 && s.on (CPE_SCSTAT0_DB_PEND n) then again s
  else
    match s.cceStatus n c with
    | some st =>
      let s := if (cceApert c || cceCross c) && (st == 0x30 || st == 0x14) then
          s.log 0x8004 n [some (if cceApert c then c.addr % 4096 else 0), some st, none, some a] else s
      ((s.modSub n fun u => { u with got := none, cce := c, moved := 0, ph := .ready }).scShow n).scFail n st 0
    | none =>
      if c.flag 2 then s.scTailWait n
      else if (s.sub n).joined && c.code != 0x20 && c.code != 0x21 then
        (((s.portRelease n).modSub n fun u => { u with got := none, cce := c, moved := 0, ph := .ready }).scShow n).scFail n 0x13 0
      else
        (s.modSub n fun u =>
          { u with got := none, force := false, tailRe := false, cce := c, moved := 0, seg := none, segOff := 0, ph := .ready }).scShow n

/-- Does subchannel `n` want an entry? -/
def State.scFetching (s : State) (n : Nat) : Bool :=
  s.subRuns n && s.scSt n == scACTIVE && s.served (s.scOwner n) && !s.rebinding (s.scOwner n) &&
    decide ((s.sub n).ph = .fetch)

/-- Does the host read of subchannel `n`'s fill overlap a buffered store (R281)? Then it waits for the drain.
(Log: DEDUCED 138) -/
def State.fillWaits (s : State) (n : Nat) : Bool :=
  s.cch.forward (s.scCode n) (s.scAddr n) (64 - s.scAddr n % 64) != .free

/-- Is it subchannel `n`'s turn among the misses that wait (R277): by party in the order of R18, then round robin? -/
def State.missTurn (s : State) (n : Nat) : Bool :=
  let key (m : Nat) : Nat := s.rank (s.originOf (s.scOwner m)) * 64 + (m + 31 - s.cch.last) % 32
  s.cch.waits.all fun m => !s.scFetching m || s.fillWaits m || decide (key n ≤ key m)

/-- Subchannel `n`'s miss waits for the one that is outstanding (R277). -/
def State.missWait (s : State) (n : Nat) : State :=
  if s.cch.waits.contains n then s else { s with cch := { s.cch with waits := s.cch.waits ++ [n] } }

/-- Subchannel `n`'s miss waits no longer. -/
def State.missEnd (s : State) (n : Nat) : State := { s with cch := { s.cch with waits := s.cch.waits.filter fun m => m != n } }

/-- Issues a fetch of the current entry from host memory, which clears DB_PEND (R271), once no fill is outstanding, no buffered store
overlaps it and it is its turn (R277, R281). -/
def State.scIssue (s : State) (n : Nat) : State :=
  if s.fillWaits n then s
  else if s.cch.miss.isSome || !s.missTurn n then s.missWait n
  else
    let s := s.missEnd n
    let s : State := { s with cch := { s.cch with last := n } }
    (s.put (CPE_SCSTAT0_DB_PEND n) 0).cchMiss n (s.scCode n) (s.scAddr n) true

/-- CCE_FETCH (R251, R275 to R279): the entry arrives from the cache, the store buffer or a fill and is judged; a miss
issues its host read. -/
def execCceFetch (n : Fin 32) (s : State) : Res :=
  .next <|
    if s.scFetching n then
      let u := s.sub n
      match u.got with
      | some (b, mem) => s.scJudge n b mem
      | none =>
        let o := s.scCode n
        let a := s.scAddr n
        if u.force then
          match s.cch.forward o a 16 with
          | .bytes b => (s.missEnd n).scJudge n b true
          | .wait => s
          | .free => ((s.cchInval 2 o a).1).scIssue n
        else
          match s.cchLook o a with
          | (s, .hit b buf) => (s.missEnd n).scJudge n b buf
          | (s, .miss) => s.scIssue n
          | (s, .wait) => if s.cch.miss.isSome then s.missWait n else s
    else s

/-- CHAIN_CACHE_FILL (R276, R277): the outstanding miss returns its bytes, or fails with a bus error and installs nothing. -/
def execChainCacheFill (bytes : List Byte) (err : Bool) (s : State) : Res :=
  .next <|
    match s.cch.miss with
    | none => s
    | some m =>
      let s := s.modCch fun c => { c with miss := none }
      let mine := s.scFetching m.sub && s.scAddr m.sub == m.addr && s.scCode m.sub == m.owner
      if err then
        if mine then s.scStop m.sub whyERROR 0x50 0 m.addr else s
      else
        let b := fitTo (64 - m.addr % 64) bytes
        let s := if m.install && s.on CCH_CFG_EN then s.modCch fun c => c.install m.owner m.addr b else s
        if mine then s.modSub m.sub fun u => { u with got := some (b.take 16, true) } else s

/-! ## Entries that steer the chain -/

/-- Is the entry in hand ready and of this code? -/
def State.scReady (s : State) (n code : Nat) : Bool :=
  s.subRuns n && s.scSt n == scACTIVE && decide ((s.sub n).ph = .ready) && (s.sub n).cce.code == code

/-- CCE_NOP (R252). -/
def execCceNop (n : Fin 32) (s : State) : Res :=
  .next <| if s.scReady n 0x09 then s.scEntryDone n 0 (s.scFollow n) else s

/-- CCE_WAIT (R48, R258): WAITING for AUX frames, from this tick if the wait starts in its phase 1, else from the next.
(Log: DEDUCED 137) -/
def execCceWait (n : Fin 32) (ph1 : Bool) (s : State) : Res :=
  .next <|
    if s.scReady n 0x0A then
      (s.put (CPE_SCSTAT0_STATE n) scWAITING).modSub n fun u =>
        { u with waitEnd := if ph1 then s.afterTick u.cce.aux else s.after u.cce.aux }
    else s

/-- WAIT_END (R258): the wait's frames have passed.
(Log: DESIGN CHOICE 3) -/
def execWaitEnd (n : Fin 32) (s : State) : Res :=
  .next <|
    if s.coreRuns && s.scSt n == scWAITING && s.due (s.sub n).waitEnd then
      (s.put (CPE_SCSTAT0_STATE n) scACTIVE).scEntryDone n 0 (s.scFollow n)
    else s

/-- CCE_POST (R259, R280, R281): the marker enters the store buffer; a full buffer makes it wait. -/
def execCcePost (n : Fin 32) (s : State) : Res :=
  .next <|
    if s.scReady n 0x0B && decide (s.cch.stores.length < 4) then
      let s := s.touch
      let c := (s.sub n).cce
      let bytes := leBytes 8 s.now ++ leBytes 2 c.count ++ leBytes 2 c.dev ++ leBytes 1 n.val ++ zeros 1 ++
        leBytes 2 (s.get (CPE_SCSEQ_SEQ n))
      (s.cchStore (s.scCode n) c.addr bytes).scEntryDone n 0 (s.scFollow n)
    else s

/-- CCE_JUMP (R257): the chain continues at the target; the 17th JUMP of a frame waits for the next tick. -/
def execCceJump (n : Fin 32) (s : State) : Res :=
  .next <|
    if s.scReady n 0x0C then
      let u := s.sub n
      let k := if u.jumpTick == s.tb.ticks then u.jumps else 0
      if k < 16 then
        let s := s.modSub n fun u => { u with jumps := k + 1, jumpTick := s.tb.ticks }
        s.scEntryDone n 0 u.cce.addr
      else s
    else s

/-- SC_DOORBELL (R199, R263, R271): by the Owner for its own subchannels or a VI for its own; in TAIL_WAIT the tail is read
again, while the chain runs or is suspended DB_PEND is set. A VI's write for another's subchannel is a foreign doorbell. -/
def execScDoorbell (who : Sender) (n : Fin 32) (s : State) : Res :=
  .next <|
    let w := senderWho who
    if !s.reaches who || !s.coreRuns then s
    else if w.isSome && s.scOwner n != w then (s.count HST_ERRSTAT_FOREIGN_DB).badAccess w (0x1000 + 4 * n.val)
    else
      let st := s.scSt n
      if st == scTAIL then
        if s.on (CPE_SCSTAT0_SSR_FAIL n) || !s.on (CPE_SCCFG_EN n) then s else s.scReread n
      else if st == scIDLE || st == scSTOPPED then s
      else s.put (CPE_SCSTAT0_DB_PEND n) 1

end Sys2Proof.Machine
end

