-- ==== Sys2Proof/Machine/Bmv.lean ====
section
/-!
DEFINITION. The Block Mover (chapter 12): exchange memory, descriptors, records, bursts, stops and the channel's events.
-/

namespace Sys2Proof.Machine

/-! ## State codes (Table 12-4) -/

abbrev dcIDLE : Nat := 0
abbrev dcACTIVE : Nat := 1
abbrev dcBUDGET : Nat := 2
abbrev dcRECORD : Nat := 3
abbrev dcTAIL : Nat := 4
abbrev dcSUSPENDED : Nat := 5
abbrev dcPAGE : Nat := 6
abbrev dcSTOPPED : Nat := 7

/-! ## A channel -/

/-- A channel without a chain. -/
def Chan.idle : Chan := ⟨.off, false, false, none, none, none, false, 0, 0, 0, [], none, none, [], 0, 0xFFFF, none, false, false⟩

/-- Channel `n`. -/
def State.chan (s : State) (n : Nat) : Chan := s.bmv.chans.getD n Chan.idle

/-- Changes channel `n`. -/
def State.modChan (s : State) (n : Nat) (f : Chan → Chan) : State :=
  { s with bmv := { s.bmv with chans := modAt s.bmv.chans n f } }

/-- Its state, owner and owner code. -/
def State.dcSt (s : State) (n : Nat) : Nat := s.get (BMV_DCSTAT_STATE n)
def State.dcOwner (s : State) (n : Nat) : Who := whoOfCode (s.get (BMV_DCCFG_OWNER n))
def State.dcCode (s : State) (n : Nat) : Nat := whoCode (s.dcOwner n)

/-- The address of its resume point's descriptor (BMV_DCPTR). -/
def State.dcAddr (s : State) (n : Nat) : Nat :=
  s.get (BMV_DCPTR_LO_ADDR n) * 64 + s.get (BMV_DCPTR_HI_ADDR n) * 2 ^ 32

/-- Moves the resume point to the descriptor at `a`. -/
def State.setDcAddr (s : State) (n a : Nat) : State :=
  (s.put (BMV_DCPTR_LO_ADDR n) (a / 64)).put (BMV_DCPTR_HI_ADDR n) (a / 2 ^ 32)

/-- The descriptor in 64 bytes (Table 12-1); `rsv` gathers the reserved bytes. -/
def descOf (b : List Byte) : Desc :=
  ⟨leAt b 0 8, leAt b 8 8, leAt b 0x10 4, leAt b 0x14 4, leAt b 0x18 4, leAt b 0x1C 4, leAt b 0x20 2, leAt b 0x22 2,
    leAt b 0x24 2, leAt b 0x26 1, leAt b 0x27 1 + leAt b 0x30 16, leAt b 0x28 8⟩

/-- CTRL bits (Table 12-2). -/
def Desc.bit (d : Desc) (i : Nat) : Bool := bitOf d.ctrl i
def Desc.srcX (d : Desc) : Bool := d.bit 2
def Desc.dstX (d : Desc) : Bool := d.bit 3
def Desc.link (d : Desc) : Bool := d.bit 6

/-- The total of a descriptor's source (R297). -/
def Desc.total (d : Desc) : Nat := d.srcLine * d.srcLines

/-- The address of byte `p` of a side's stream (R295): line by line. -/
def sideAt (addr line stride p : Nat) : Nat := addr + p / line * stride + p % line

/-- Source and destination addresses of stream byte `p`. -/
def Desc.srcAt (d : Desc) (p : Nat) : Nat := sideAt d.src d.srcLine d.srcStride p
def Desc.dstAt (d : Desc) (p : Nat) : Nat := sideAt d.dst d.dstLine d.dstStride p

/-- The length of the burst that starts at stream byte `p` (R298). -/
def Desc.burstLen (d : Desc) (p : Nat) : Nat :=
  let n := min 256 (d.total - p)
  let n := min n (d.srcLine - p % d.srcLine)
  let n := min n (d.dstLine - p % d.dstLine)
  let n := if d.srcX then n else min n (4096 - d.srcAt p % 4096)
  if d.dstX then n else min n (4096 - d.dstAt p % 4096)

/-! ## Exchange memory -/

/-- The owner byte of block `b` (R292). -/
def State.xowner (s : State) (b : Nat) : Nat := (s.reg (0xE500 + 4 * (b / 4))).toNat / 2 ^ (8 * (b % 4)) % 256

/-- The blocks of an owner's partition, ascending (R292). -/
def State.partition (s : State) (o : Nat) : List Nat := (upTo 64).filter fun b => s.xowner b == o

/-- The XMEM byte that a partition offset names. -/
def State.xaddr (s : State) (o off : Nat) : Option Nat :=
  ((s.partition o)[off / 1024]?).map fun b => b * 1024 + off % 1024

/-- Does a range of a partition exist? -/
def State.inPartition (s : State) (o off len : Nat) : Bool := decide (off + len ≤ 1024 * (s.partition o).length)

/-- A byte of exchange memory: 0 where nothing is listed (R293). -/
def xget (m : List (Nat × Byte)) (a : Nat) : Byte := cellGet (fun _ => 0) m a

/-- Reads `len` bytes at a partition offset. -/
def State.xread (s : State) (o off len : Nat) : List Byte :=
  (upTo len).map fun i =>
    match s.xaddr o (off + i) with
    | some a => xget s.bmv.xmem a
    | none => 0

/-- Writes bytes at a partition offset. -/
def State.xwrite (s : State) (o off : Nat) : List Byte → State
  | [] => s
  | b :: l =>
    let s :=
      match s.xaddr o off with
      | some a => { s with bmv := { s.bmv with xmem := cellSet (fun _ => 0) s.bmv.xmem a b } }
      | none => s
    s.xwrite o (off + 1) l

/-- Zeroes a block (R293). -/
def State.xzero (s : State) (b : Nat) : State :=
  { s with bmv := { s.bmv with xmem := s.bmv.xmem.filter fun c => c.1 / 1024 != b } }

/-- Gives block `b` to a new owner: the owner byte of BMV_XOWN (R292). -/
def State.setXowner (s : State) (b o : Nat) : State := s.put ⟨0xE500 + 4 * (b / 4), 8 * (b % 4), 8⟩ o

/-- Does a burst of owner code `o` on exchange memory stand in flight? -/
def State.xBusy (s : State) (o : Nat) : Bool :=
  (upTo 16).any fun n =>
    let c := s.chan n
    s.dcCode n == o && !c.flight.isEmpty &&
      match c.desc with
      | some d => d.srcX || d.dstX
      | none => false

/-- Hands over the blocks whose old owner has no burst in flight: zeroed, then given (R293). -/
def State.xSettle (s : State) : State :=
  s.bmv.xpend.foldl (fun t p =>
    if t.xBusy (t.xowner p.1) then t
    else
      let t := (t.xzero p.1).setXowner p.1 p.2
      { t with bmv := { t.bmv with xpend := t.bmv.xpend.filter fun q => q != p } }) s

/-! ## The Completion Record Queue -/

/-- The CRQ's size and its unread records (R305, R306). -/
def State.crqSize (s : State) (n : Nat) : Nat := 2 ^ s.get (BMV_DCCRQCFG_K n)
def State.crqUnread (s : State) (n : Nat) : Nat :=
  (s.get (BMV_DCCRQPTR_WR n) + s.crqSize n - s.get (BMV_DCCRQPTR_HEAD n)) % s.crqSize n

/-- Slots that may still be reserved (R305).
(Log: DEDUCED 147) -/
def State.crqFree (s : State) (n : Nat) : Nat := s.crqSize n - 1 - s.crqUnread n - (s.chan n).slots

/-- Writes a Completion Record into a reserved slot (R304): `flags` without PHASE; `loud` raises the vector whatever QUIET
says. -/
def State.dcRecord (s : State) (n residue tag status flags : Nat) (loud : Bool) : State :=
  let s := s.touch
  let wr := s.get (BMV_DCCRQPTR_WR n)
  let ph := s.get (BMV_DCCRQPTR_PHASE n)
  let a := s.get (BMV_DCCRQ_LO_BASE n) * 4096 + s.get (BMV_DCCRQ_HI_BASE n) * 2 ^ 32 + 16 * wr
  let bytes := leBytes 8 s.now ++ leBytes 4 residue ++ leBytes 2 tag ++ leBytes 1 status ++ leBytes 1 (ph + flags)
  let quiet := s.on (BMV_DCCRQCFG_QUIET n) && status == 0 && !bitOf flags 2 && !loud
  let s := s.hostPut (s.dcOwner n) a bytes (if quiet then none else some (s.get (BMV_DCCRQCFG_VEC n)))
  let s := s.modChan n fun c => { c with
    slots := c.slots - 1, lastTag := tag, rec_ := if s.recAsked n then c.rec_ else some (a, bytes) }
  if wr + 1 < s.crqSize n then s.put (BMV_DCCRQPTR_WR n) (wr + 1)
  else (s.put (BMV_DCCRQPTR_WR n) 0).put (BMV_DCCRQPTR_PHASE n) (1 - ph)

/-! ## Ends of a channel -/

/-- The bytes of the descriptor in hand, or of the tail, that are not confirmed written. -/
def State.dcResid (s : State) (n : Nat) : Nat :=
  match (s.chan n).desc with
  | some d => d.total - (s.chan n).conf
  | none => ((s.chan n).tail.map fun t => t.1).getD 0

/-- The TAG a record of the channel carries. -/
def State.dcTag (s : State) (n : Nat) : Nat :=
  match (s.chan n).desc with
  | some d => d.tag
  | none => ((s.chan n).tail.map fun t => t.2).getD 0xFFFF

/-- The RESIDUE of a descriptor none of whose bytes has moved: its total, 0 beyond the limit (R297). -/
def Desc.whole (d : Desc) : Nat := if 0xFFFFFFF8 < d.total then 0 else d.total

/-- BMV_DCRES shows the bytes still to move (R307). -/
def State.dcShow (s : State) (n : Nat) : State := s.put (BMV_DCRES_BYTES n) (s.dcResid n)

/-- The channel becomes IDLE. -/
def State.dcIdle (s : State) (n : Nat) : State :=
  let s := s.admDrop (32 + n)
  let s := ((s.put (BMV_DCSTAT_STATE n) dcIDLE).put (BMV_DCSTAT_DB_PEND n) 0).put (BMV_DCSTAT_HOLDS n) 0
  let s := (s.setDcAddr n 0).put (BMV_DCRES_BYTES n) 0
  s.modChan n fun c => { Chan.idle with lastTag := c.lastTag, rec_ := c.rec_ }

/-- The channel leaves its owner: nothing of it is written under another (R209, R292). -/
def State.dcLeave (s : State) (n : Nat) : State :=
  (((s.dcPriDrop n).recPriDrop n).dcIdle n).modChan n fun c => { c with rec_ := none }

/-- The read contexts in use (R301).
(Log: DEDUCED 147) -/
def State.contexts (s : State) : Nat :=
  s.bmv.chans.foldl (fun k c => k + b2n c.fetching + b2n c.preAsk) 0

/-- The descriptor in hand enters admission, again if it was held (R300). -/
def State.dcAdmit (s : State) (n : Nat) (d : Desc) : State :=
  let cls := d.ctrl % 4
  if cls = 0 then s.modChan n fun c => { c with ph := .run }
  else (s.modChan n fun c => { c with ph := .adm }).present (32 + n) cls (s.originOf (s.dcOwner n))

/-- Goes on where the channel can: it issues a due descriptor fetch if its slots can be reserved and a read context is free, or admits the
descriptor it holds; else the channel waits, for CRQ room in RECORD_WAIT (R301, R305). -/
def State.dcKick (s : State) (n : Nat) : State :=
  let c := s.chan n
  let st := s.dcSt n
  if (st == dcACTIVE || st == dcRECORD) && c.stop.isNone && !c.fetching && s.coreRuns && !s.on BMV_STAT_ESTOP then
    if s.crqFree n + c.slots < 2 then
      if c.ph = .fetch ∨ st == dcRECORD then s.put (BMV_DCSTAT_STATE n) dcRECORD else s
    else
      let s := (s.put (BMV_DCSTAT_STATE n) dcACTIVE).modChan n fun c => { c with slots := max 2 c.slots }
      if st == dcRECORD && c.desc.isSome then
        match c.desc with
        | some d => s.dcAdmit n d
        | none => s
      else if c.ph = .fetch && s.contexts < 8 && s.served (s.dcOwner n) && !s.rebinding (s.dcOwner n) then
        let s := s.put (BMV_DCSTAT_DB_PEND n) 0
        (s.modChan n fun c => { c with fetching := true, tail := none }).hostRd (s.dcOwner n) (s.dcAddr n) 64
      else s
  else s

/-- Moves to the descriptor at `a` and fetches it. -/
def State.dcFetch (s : State) (n a : Nat) : State :=
  let s := s.setDcAddr n a
  (s.modChan n fun c =>
    { c with ph := .fetch, fetching := false, tailRe := false, desc := none, tail := none, issued := 0, written := 0, conf := 0
             flight := [], resp := none }).dcKick n

/-- Prefetches NEXT of the descriptor in progress if the CRQ has a further slot and a context is free (R301, R305). -/
def State.dcPrefetch (s : State) (n : Nat) : State :=
  let c := s.chan n
  match c.desc with
  | some d =>
    if d.link && (s.dcSt n == dcACTIVE || s.dcSt n == dcBUDGET) && c.stop.isNone && s.coreRuns && !s.on BMV_STAT_ESTOP &&
        c.pre.isNone && !c.preAsk && 0 < s.crqFree n && s.contexts < 8 && s.served (s.dcOwner n) &&
        !s.rebinding (s.dcOwner n) then
      (s.modChan n fun c => { c with preAsk := true, slots := c.slots + 1 }).hostRd (s.dcOwner n) d.next 64
    else s
  | none => s

/-- The status of the first failing check of R297. -/
def State.descStatus (s : State) (n : Nat) (d : Desc) : Option Nat :=
  let o := s.dcCode n
  let m8 (x : Nat) := x % 8 == 0
  let lineOk (x : Nat) := decide (8 ≤ x) && decide (x ≤ 0x00FFFFF8)
  let side (x : Bool) (a line stride lines : Nat) : Bool :=
    !x || s.inPartition o a ((lines - 1) * stride + line)
  if d.rsv != 0 || d.bit 7 then some 0x17
  else if !(m8 d.src && m8 d.dst && m8 d.srcLine && m8 d.dstLine && m8 d.srcStride && m8 d.dstStride) ||
      (d.link && d.next % 64 != 0) then some 0x12
  else if !(lineOk d.srcLine && lineOk d.dstLine) || d.srcLines == 0 || d.dstLines == 0 ||
      d.total != d.dstLine * d.dstLines || 0xFFFFFFF8 < d.total || d.tag == 0xFFFF then some 0x13
  else if !(side d.srcX d.src d.srcLine d.srcStride d.srcLines && side d.dstX d.dst d.dstLine d.dstStride d.dstLines) then
    some 0x14
  else none

/-- Enters TAIL_WAIT before the tail `d`; it posts no record (R308).
(Log: DEDUCED 130) -/
def State.dcTailWait (s : State) (n : Nat) (d : Desc) : State :=
  ((s.put (BMV_DCSTAT_STATE n) dcTAIL).modChan n fun c =>
    { c with ph := .fetch, fetching := false, tail := some (d.whole, d.tag) }).dcShow n

/-- A fetched or prefetched descriptor is judged before any byte moves (R297, R308). -/
def State.dcJudge (s : State) (n : Nat) (b : List Byte) (pre : Bool) : State :=
  let d := descOf b
  if d.bit 5 then
    if pre || s.on (BMV_DCSTAT_DB_PEND n) then (s.modChan n fun c => { c with ph := .fetch, fetching := false }).dcKick n
    else s.dcTailWait n d
  else
    match s.descStatus n d with
    | some st =>
      let r := d.whole
      let s := s.dcRecord n r d.tag st 4 false
      let s := (s.put (BMV_DCSTAT_STATE n) dcSTOPPED).put (BMV_DCRES_BYTES n) r
      s.modChan n fun c => { c with ph := .off, fetching := false, desc := none, conf := 0, pre := none, slots := 0 }
    | none =>
      let s := s.modChan n fun c =>
        { c with ph := .run, fetching := false, tailRe := false, desc := some d, issued := c.conf, written := c.conf
                 flight := [], resp := none, pre := none }
      ((s.dcShow n).dcAdmit n d).dcPrefetch n

/-- Goes on with NEXT, from its prefetched copy if there is one, or ends the chain in IDLE (R303, R313). -/
def State.dcContinue (s : State) (n : Nat) (d : Desc) : State :=
  if d.link then
    let c := s.chan n
    let s := s.setDcAddr n d.next
    let s := s.modChan n fun c => { c with desc := none, issued := 0, written := 0, conf := 0, forced := false }
    match c.pre with
    | some b =>
      if s.crqFree n + c.slots < 2 then (s.modChan n fun c => { c with pre := none }).dcFetch n d.next
      else (s.modChan n fun c => { c with slots := max 2 c.slots, pre := none }).dcJudge n b true
    | none =>
      if c.preAsk then
        (s.modChan n fun c => { c with ph := .fetch, preAsk := false, fetching := true, slots := max 2 c.slots })
      else s.dcFetch n d.next
  else s.dcIdle n

/-! ## Stops -/

/-- Completes the commands that wait for the channel's stop. -/
def State.dcWaitsDone (s : State) (n aux : Nat) : State :=
  let l := (s.chan n).waits
  let s := s.modChan n fun c => { c with waits := [] }
  l.foldl (fun s t => s.done t 0 aux) s

/-- The end of a stop, once no burst is in flight and the bytes written are confirmed (R309, R311 to R314, R317).
(Log: DEDUCED 136) -/
def State.dcStopEnd (s : State) (n : Nat) (k : DcStop) : State :=
  let c := s.chan n
  let r := s.dcResid n
  let tag := s.dcTag n
  let back (s : State) : State := s.modChan n fun c =>
    { c with stop := none, issued := c.conf, written := c.conf, pre := none, preAsk := false, fetching := false
             slots := min c.slots 1 }
  match k with
  | .hold st =>
    let s := s.admDrop (32 + n)
    let s := match st with
      | some v => if c.desc.isSome then s.dcRecord n r tag v 8 false else s
      | none => s
    ((back s).put (BMV_DCSTAT_STATE n) dcSUSPENDED).dcShow n |>.dcWaitsDone n 0
  | .abort =>
    let r := if s.dcSt n == dcSTOPPED then s.get (BMV_DCRES_BYTES n) else r
    let s := s.dcRecord n r tag 0x60 4 true
    let l := c.waits
    (l.foldl (fun s t => s.complete t 0 0 r) (s.dcIdle n))
  | .reassign w =>
    let s := s.log 0x9004 n [some r,
      some (fieldOf (s.reg (0xE000 + 4 * n)) 8 5 + 256 * fieldOf (s.reg (0xE000 + 4 * n)) 1 2), none, some (s.dcAddr n)]
    let s := s.dcWaitsDone n 0
    (s.dcLeave n).put (BMV_DCCFG_OWNER n) (fieldOf w 8 5)
  | .estop =>
    let s := s.admDrop (32 + n)
    let s := if c.desc.isSome then s.dcRecord n r tag 0x51 12 false else s.dcRecord n 0 0xFFFF 0x51 12 false
    let s := ((back s).modChan n fun c => { c with estop := true, ph := .off }).put (BMV_DCSTAT_STATE n) dcSTOPPED
    ((s.put (BMV_DCSTAT_HOLDS n) 0).dcShow n).dcWaitsDone n 0
  | .bad st kind a =>
    match c.desc with
    | some d =>
      let s := if kind = 0 then s else
        let s := (s.put (BMV_DCERR_LO_ADDR n) a).put (BMV_DCERR_HI_ADDR n) (a / 2 ^ 32)
        let s := ((s.put (BMV_DCERRINFO_KIND n) kind).put (BMV_DCERRINFO_STATUS n) st).put (BMV_DCERRINFO_TAG n) tag
        s.log 0x9002 n [some (tag + 2 ^ 16 * kind + 2 ^ 24 * st), some r, none, some a]
      let s := s.dcRecord n r tag st (if d.link then 2 else 6) false
      let s := s.modChan n fun c => { c with stop := none, flight := [], resp := none }
      s.dcContinue n d
    | none => s.modChan n fun c => { c with stop := none }

/-- Issues the zero-length read that confirms the bytes written so far: to the last dword written (R302). -/
def State.dcConfirm (s : State) (n : Nat) (d : Desc) : State :=
  let c := s.chan n
  (s.modChan n fun c => { c with resp := some c.written }).hostRd (s.dcOwner n) (d.dstAt (c.written - 1) / 4 * 4) 0

/-- A descriptor whose last byte is confirmed completes (R303, R304, R327). -/
def State.dcDone (s : State) (n : Nat) (d : Desc) : State :=
  let c := s.chan n
  let s := s.dcRecord n 0 d.tag (if c.forced then 0x41 else 0) (if d.link then 0 else 4) (d.bit 4)
  s.dcContinue n d

/-- The status a hold's interim record carries (Table 14-1), by the lowest hold set. -/
def holdStatus (h : Nat) : Option Nat :=
  if bitOf h 0 then some 0x00
  else if bitOf h 1 || bitOf h 2 then some 0x56
  else if bitOf h 3 || bitOf h 4 then some 0x55
  else if bitOf h 5 then some 0x53
  else none

/-- The commands that waited for a stop complete with a chain that has ended (Table 12-5: no change). -/
def State.dcWaitEnd (s : State) (l : List Tag) : State := l.foldl (fun s t => s.done t 0 0) s

/-- The end of a stop of a channel with no descriptor in hand, or with all of it confirmed. -/
def State.dcStopNow (s : State) (n : Nat) (k : DcStop) : State :=
  let c := s.chan n
  if c.desc.isNone && k = .abort && c.slots = 0 && s.crqFree n = 0 then s
  else
    let s := if c.desc.isNone && c.slots = 0 then s.modChan n fun c => { c with slots := 1 } else s
    s.dcStopEnd n k

/-- A descriptor that is BAD has ended its stop; an all-stop or a hold that came meanwhile takes the chain that goes on (R313, R314,
R329).
(Log: DEDUCED 130) -/
def State.dcBadEnd (s : State) (n : Nat) (k : DcStop) : State :=
  let w := (s.chan n).waits
  let s := s.dcStopEnd n k
  let h := s.get (BMV_DCSTAT_HOLDS n)
  if s.dcSt n == dcIDLE || s.dcSt n == dcSTOPPED then (s.put (BMV_DCSTAT_HOLDS n) 0).dcWaitEnd w
  else if s.on BMV_STAT_ESTOP then (s.modChan n fun c => { c with waits := w, stop := some .estop }).dcStopNow n .estop
  else if h = 0 then s.dcWaitEnd w
  else (s.modChan n fun c => { c with waits := w, stop := some (.hold (holdStatus h)) }).dcStopNow n (.hold (holdStatus h))

/-- A stop finds the descriptor wholly confirmed: it completes first, and the stop takes what follows. -/
def State.dcDoneStop (s : State) (n : Nat) (d : Desc) (k : DcStop) : State :=
  let w := (s.chan n).waits
  let s := s.dcDone n d
  if s.dcSt n == dcIDLE || s.dcSt n == dcSTOPPED then (s.modChan n fun c => { c with stop := none, waits := [] }).dcWaitEnd w
  else s.dcStopNow n k

/-- Can what the channel has written be confirmed now: a host destination, bytes unconfirmed, and an owner that is served (R302, R338)?
(Log: DEDUCED 130) -/
def State.dcCanConfirm (s : State) (n : Nat) (d : Desc) : Bool :=
  let c := s.chan n
  decide (c.conf < c.written) && !d.dstX && s.served (s.dcOwner n)

/-- What follows once the channel's bursts allow it: the end of a stop, the confirmation of what was written, or the end of
the descriptor.
(Log: DEDUCED 130) -/
def State.dcProgress (s : State) (n : Nat) : State :=
  let c := s.chan n
  match c.stop with
  | some k =>
    if !c.flight.isEmpty || c.resp.isSome then s
    else
      match c.desc with
      | some d =>
        match k with
        | .bad _ kind _ => if s.dcCanConfirm n d && kind != 2 then s.dcConfirm n d else s.dcBadEnd n k
        | .hold _ =>
          if c.conf == d.total then s.dcDoneStop n d k
          else if s.dcCanConfirm n d then s.dcConfirm n d
          else s.dcStopEnd n k
        | .estop =>
          if c.conf == d.total then s.dcDoneStop n d k
          else if s.dcCanConfirm n d then s.dcConfirm n d
          else s.dcStopEnd n k
        | _ => if s.dcCanConfirm n d then s.dcConfirm n d else s.dcStopEnd n k
      | none => s.dcStopNow n k
  | none =>
    match c.desc with
    | some d =>
      if c.conf == d.total then s.dcDone n d
      else if c.written == d.total && c.resp.isNone && s.dcCanConfirm n d then s.dcConfirm n d
      else s
    | none => s

/-- Does stop `k` override a stop in progress: an abort or a reassignment any, a failed burst a hold or an all-stop (Table 14-2)?
(Log: DEDUCED 130, 175) -/
def DcStop.over (k : DcStop) : Option DcStop → Bool
  | none => true
  | some j =>
    match k, j with
    | .abort, _ => true
    | .reassign _, _ => true
    | .bad _ _ _, .hold _ => true
    | .bad _ _ _, .estop => true
    | _, _ => false

/-- Begins a stop, or goes on with the one in progress that it does not override (Table 14-2).
(Log: DEDUCED 147) -/
def State.dcBegin (s : State) (n : Nat) (k : DcStop) : State :=
  (if k.over (s.chan n).stop then s.modChan n fun c => { c with stop := some k } else s).dcProgress n

/-! ## Holds and resumptions -/

/-- Sets a hold (R329). -/
def State.dcHold (s : State) (n bit : Nat) (status : Option Nat) : State :=
  let st := s.dcSt n
  if st == dcIDLE || st == dcSTOPPED then s
  else
    let h := s.get (BMV_DCSTAT_HOLDS n)
    let s := s.put (BMV_DCSTAT_HOLDS n) (setBit h bit true)
    let s := s.dcPriDrop n
    if h != 0 then s else s.dcBegin n (.hold status)

/-- Resumes at the resume point (R300, R305, R307): a held descriptor is admitted afresh once the CRQ has room for its records, or it is
fetched. -/
def State.dcGo (s : State) (n : Nat) : State :=
  let s := s.put (BMV_DCSTAT_STATE n) dcACTIVE
  match (s.chan n).desc with
  | some d =>
    let s := s.modChan n fun c => { c with ph := .run, stop := none }
    if s.crqFree n + (s.chan n).slots < 2 then s.put (BMV_DCSTAT_STATE n) dcRECORD
    else (s.modChan n fun c => { c with slots := max 2 c.slots }).dcAdmit n d
  | none => (s.modChan n fun c => { c with ph := .fetch, stop := none, fetching := false }).dcKick n

/-- Clears the holds of a mask; the last one cleared resumes. -/
def State.dcUnhold (s : State) (n mask : Nat) : State :=
  let h := s.get (BMV_DCSTAT_HOLDS n)
  let h' := h &&& (127 - mask % 128)
  let s := s.put (BMV_DCSTAT_HOLDS n) h'
  let s := match (s.chan n).stop with
    | some (.hold _) => if h' = 0 then (s.modChan n fun c => { c with stop := none }).dcWaitsDone n 0 else s
    | _ => s
  if h != 0 && h' = 0 && s.dcSt n == dcSUSPENDED then s.dcGo n else s

/-- Reads the tail again (R308). -/
def State.dcReread (s : State) (n : Nat) : State :=
  ((s.put (BMV_DCSTAT_STATE n) dcACTIVE).modChan n fun c => { c with ph := .fetch, fetching := false, tailRe := true, tail := none }).dcKick n

/-! ## Commands from outside -/

/-- A doorbell's value returns records to channel `n` (R306); `w` and `off` name the write in the record of a bad one. -/
def State.dcHead (s : State) (w : Who) (off n h : Nat) : State :=
  let sz := s.crqSize n
  let ok := decide (h < sz) && decide ((h + sz - s.get (BMV_DCCRQPTR_HEAD n)) % sz ≤ s.crqUnread n)
  let s := if ok then s.put (BMV_DCCRQPTR_HEAD n) h else (s.put (BMV_DCSTAT_BADDB n) 1).badAccess w off
  (s.dcProgress n).dcPrefetch n

/-- DC_DOORBELL (R22, R199, R306, R308, R315): the head returns records, and the write counts as a start. -/
def execDcDoorbell (who : Sender) (n : Fin 16) (v : Word) (s : State) : Res :=
  .next <|
    let w := senderWho who
    let off := match who with
      | .vi _ => 0x1100 + 4 * n.val
      | _ => 0xE300 + 4 * n.val
    let mine := w.isNone || s.dcOwner n == w
    if !s.reaches who || !s.coreRuns then s
    else if !mine then (s.count HST_ERRSTAT_FOREIGN_DB).badAccess w off
    else
      let s := s.dcHead w off n (v.toNat % 65536)
      let st := s.dcSt n
      if s.on BMV_STAT_ESTOP then s
      else if st == dcTAIL then if s.on (BMV_DCCFG_EN n) then s.dcReread n else s
      else if st == dcIDLE || st == dcSTOPPED then s
      else (s.put (BMV_DCSTAT_DB_PEND n) 1).dcKick n

/-- DESCRIPTOR_FETCH (R297, R301): a descriptor read returns, for the descriptor due or for a prefetch. -/
def execDescriptorFetch (n : Fin 16) (bytes : List Byte) (s : State) : Res :=
  .next <|
    let c := s.chan n
    if s.coreRuns && c.fetching && s.dcSt n == dcACTIVE then
      (s.modChan n fun c => { c with fetching := false }).dcJudge n (fitTo 64 bytes) false
    else if c.preAsk then s.modChan n fun c => { c with preAsk := false, pre := some (fitTo 64 bytes) }
    else s

/-- Does channel `n` move exchange memory of an owner, one of whose blocks is changing hands (R293)? -/
def State.xHeld (s : State) (n : Nat) : Bool :=
  match (s.chan n).desc with
  | some d => (d.srcX || d.dstX) && s.bmv.xpend.any fun p => s.xowner p.1 == s.dcCode n
  | none => false

/-- Does channel `n` request a grant (R299, R300)? -/
def State.dcRequests (s : State) (n : Nat) : Bool :=
  let c := s.chan n
  s.dcSt n == dcACTIVE && c.stop.isNone && s.served (s.dcOwner n) && !s.rebinding (s.dcOwner n) && !s.xHeld n &&
    decide (c.flight.length < 2) &&
    (decide (c.ph = .run) || (decide (c.ph = .adm) && s.mayStart (32 + n))) &&
    match c.desc with
    | some d => decide (c.issued < d.total)
    | none => false

/-- The level a slot of the wheel names (R300). -/
def wheelLevel (k : Nat) : Nat := [3, 2, 3, 1, 3, 2, 3, 0, 3, 2, 3, 1, 3, 2, 3].getD k 0

/-- The channel the engine grants next (R300): the wheel's level or the highest that requests, then R18, then round robin. -/
def State.dcPick (s : State) : Option Nat :=
  let req := (upTo 16).filter s.dcRequests
  let prio (n : Nat) := s.get (BMV_DCCFG_PRIO n)
  let lv := wheelLevel s.bmv.wheel
  let lv := if req.any (fun n => prio n == lv) then lv else req.foldl (fun m n => max m (prio n)) 0
  let key (n : Nat) : Nat := s.rank (s.originOf (s.dcOwner n)) * 32 + (n + 15 - s.bmv.last) % 16
  (req.filter fun n => prio n == lv).foldl (fun b n =>
    match b with
    | some m => if key n < key m then some n else some m
    | none => some n) none

/-- BMV_BURST_GRANT (R298 to R300): one grant; the burst's read issues. An XMEM burst outside its owner's partition ends
the descriptor BAD with kind 4 (R313). -/
def execBmvBurstGrant (s : State) : Res :=
  .next <|
    if !s.coreRuns || s.on BMV_STAT_ESTOP || decide (8 ≤ (s.bmv.chans.map fun c => c.flight.length).sum) then s
    else
      match s.dcPick with
      | none => s
      | some n =>
        match (s.chan n).desc with
        | none => s
        | some d =>
          let s := { s with bmv := { s.bmv with wheel := (s.bmv.wheel + 1) % 15, last := n } }
          let s :=
            if (s.chan n).ph = .adm then
              let f := s.wasForced (32 + n)
              (s.admDrop (32 + n)).modChan n fun c => { c with ph := .run, forced := f }
            else s
          let p := (s.chan n).issued
          let len := d.burstLen p
          let o := s.dcCode n
          if d.srcX && !s.inPartition o (d.srcAt p) len then s.dcBegin n (.bad 0x57 4 (d.srcAt p))
          else if d.dstX && !s.inPartition o (d.dstAt p) len then s.dcBegin n (.bad 0x57 4 (d.dstAt p))
          else
            let s := s.modChan n fun c => { c with issued := p + len, flight := c.flight ++ [⟨p, len⟩] }
            (if d.srcX then s else s.hostRd (s.dcOwner n) (d.srcAt p) len).dcPrefetch n

/-- A data-phase error of the oldest burst in flight: it and the later ones are discarded unwritten (R313). -/
def State.dcDataError (s : State) (n kind a : Nat) : State :=
  (s.modChan n fun c => { c with flight := [] }).dcBegin n (.bad 0x57 kind a)

/-- The oldest burst of channel `n` in flight has its bytes, or fails. -/
def State.burstRead (s : State) (n : Nat) (data : List Byte) (err : Bool) : State :=
    let c := s.chan n
    match c.desc, c.flight with
    | some d, b :: rest =>
      if !s.rst.core then s
      else if err then s.dcDataError n (if d.srcX then 3 else 1) (d.srcAt b.off)
      else
        let o := s.dcCode n
        let bytes := if d.srcX then s.xread o (d.srcAt b.off) b.len else fitTo b.len data
        let s :=
          if d.dstX then s.xwrite o (d.dstAt b.off) bytes
          else s.hostPut (s.dcOwner n) (d.dstAt b.off) bytes none
        let s := s.modChan n fun c =>
          { c with flight := rest, written := b.off + b.len, conf := if d.dstX then b.off + b.len else c.conf }
        (s.dcShow n).dcProgress n
    | _, _ => s

/-- BMV_BURST_READ (R298, R302, R313): the oldest burst's bytes are here and its write issues; an XMEM destination confirms
in the same cycle. A block that waits for its last burst changes hands (R293). -/
def execBmvBurstRead (n : Fin 16) (data : List Byte) (err : Bool) (s : State) : Res :=
  .next (s.burstRead n data err).xSettle

/-- WRITE_RESPONSE (R302, R303, R313): the response of the latest confirmation, good or failed. -/
def execWriteResponse (n : Fin 16) (ok : Bool) (s : State) : Res :=
  .next <|
    let c := s.chan n
    match c.resp, c.desc with
    | some k, some d =>
      let s := s.modChan n fun c => { c with resp := none }
      if ok then ((s.modChan n fun c => { c with conf := k }).dcShow n).dcProgress n
      else s.dcDataError n 2 (d.dstAt (k - 1) / 4 * 4)
    | _, _ => s

/-- The read of channel `n`'s descriptor or prefetch fails: the whole engine stops (R314). -/
def State.engineStop (s : State) (n : Nat) (timeout : Bool) : State :=
  let c := s.chan n
  if (c.fetching || c.preAsk) && !s.on BMV_STAT_ESTOP then
    let a := if c.fetching then s.dcAddr n else (match c.desc with | some d => d.next | none => 0)
    let kind := if timeout then 5 else 1
    let pas := (s.pasid (s.dcOwner n)).getD 0
    let port := (s.portOf (s.dcOwner n)).num
    let s := s.put BMV_STAT_ESTOP 1
    let s := (s.put BMV_PFERR_LO_ADDR a).put BMV_PFERR_HI_ADDR (a / 2 ^ 32)
    let s := ((s.put BMV_PFERRINFO_PASID pas).put BMV_PFERRINFO_PORT port).put BMV_PFERRINFO_KIND kind
    let s := s.log 0x9001 0xFF [some (pas + 2 ^ 24 * port), some kind, none, some a]
    (upTo 16).foldl (fun s k =>
      let st := s.dcSt k
      let s := s.modChan k fun c => { c with pre := none, preAsk := false, fetching := false }
      if st == dcACTIVE || st == dcBUDGET || st == dcTAIL || st == dcPAGE then s.dcBegin k .estop else s) s
  else s

/-- BMV_ENGINE_STOP (R314). -/
def execBmvEngineStop (n : Fin 16) (timeout : Bool) (s : State) : Res := .next (s.engineStop n timeout)

end Sys2Proof.Machine
end

