-- ==== Sys2Proof/Machine/Power.lean ====
section
/-!
DEFINITION. Operations that the sequencer, the Swarm line, the supervisor and the resets share: rail states and enables,
common starts, shutdowns and their end, entry into the hot-swap FAULT state, PFW_N and snapshot requests.
-/

namespace Sys2Proof.Machine

/-! ## State codes -/

/-- Sequence states (Table 3-2). -/
abbrev seqOFF : Nat := 0
abbrev seqUP : Nat := 1
abbrev seqON : Nat := 2
abbrev seqDOWN : Nat := 3
abbrev seqCOOL : Nat := 4
abbrev seqLOCKOUT : Nat := 5

/-- Rail states (Table 3-3). -/
abbrev rlOFF : Nat := 0
abbrev rlPENDING : Nat := 1
abbrev rlRISING : Nat := 2
abbrev rlON : Nat := 3
abbrev rlFLAGGED : Nat := 4
abbrev rlOFFWAIT : Nat := 5
abbrev rlFALLGATE : Nat := 6
abbrev rlFALLING : Nat := 7

/-- Hot-swap states (Table 4-4). -/
abbrev hsOPEN : Nat := 0
abbrev hsCHARGING : Nat := 1
abbrev hsON : Nat := 2
abbrev hsBLOCKED : Nat := 3
abbrev hsFAULT : Nat := 4
abbrev hsHELD : Nat := 5

/-! ## Rails -/

/-- Does the slot take part in sequencing (R52)? -/
def State.used (s : State) (n : Nat) : Bool := s.on (PSQ_RAILCFG_USE n)

/-- Is it a tolerant rail (R440: POLICY 1)? -/
def State.tolerant (s : State) (n : Nat) : Bool := s.on (PSQ_RAILCFG_POLICY n)

/-- Is it judged Measured (SUP_RAILCFG.MODE 0) rather than PG-only? -/
def State.measured (s : State) (n : Nat) : Bool := !s.on (SUP_RAILCFG_MODE n)

/-- The rail's state (Table 3-3). -/
def State.railSt (s : State) (n : Nat) : Nat := s.get (PSQ_RAILSTAT_STATE n)

/-- The level of EN in each rail state (Table 3-3). -/
def enOf (st : Nat) : Bool := st == rlRISING || st == rlON || st == rlOFFWAIT || st == rlFALLGATE

/-- Moves a rail to a state and drives its EN output as Table 3-3 gives it. -/
def State.setRail (s : State) (n st : Nat) : State :=
  let s := s.put (PSQ_RAILSTAT_STATE n) st
  let m := (BitVec.ofNat 24 1) <<< n
  { s with pins := { s.pins with en := if enOf st then s.pins.en ||| m else s.pins.en &&& ~~~ m } }

/-- Is some used rail in a state that `p` accepts? -/
def State.anyRail (s : State) (p : Nat → Bool) : Bool := (upTo 24).any (fun n => s.used n && p (s.railSt n))

/-- The mask of used rails in a state that `p` accepts. -/
def State.railMask (s : State) (p : Nat → Bool) : Nat :=
  (upTo 24).foldl (fun m n => if s.used n && p (s.railSt n) then m + 2 ^ n else m) 0

/-- Gives rail `n` a common start at the next tick (R55, R56, R61). -/
def State.startRail (s : State) (n : Nat) : State :=
  (s.setRail n rlPENDING).modRail n fun r => { r with started := true, start := s.tb.ticks + 1, had := true, part := false }

/-- Gives every rail that `p` accepts a common start at the next tick, and the sequence is UP, or stays DOWN. During a cool-down
the rails join the restart at its end (R60, Table 3-2); outputs held through a Warm reset start nothing before their adoption
(R411).
(Log: DESIGN CHOICE 155) -/
def State.startRails (s : State) (p : Nat → Bool) : State :=
  if s.pins.held || !(upTo 24).any (fun n => s.used n && p n) then s
  else if s.get PSQ_SEQSTAT_STATE == seqCOOL then
    s.forRails fun n t => if s.used n && p n then t.modRail n fun r => { r with started := true } else t
  else
    let t := s.forRails fun n t => if s.used n && p n then t.startRail n else t
    let t := { t with seq := { t.seq with starting := true } }
    if t.get PSQ_SEQSTAT_STATE == seqDOWN then t else t.put PSQ_SEQSTAT_STATE seqUP

/-! ## PFW_N -/

/-- Is a PFW_N output, PFWA_N or (`b`) PFWB_N, at its high level? A disabled output is driven high; an enabled one is low while the
warning stands, and both read low while nothing drives them (R101, R126). -/
def State.pfwHigh (s : State) (b : Bool) : Bool :=
  !s.pins.released && (!s.on (if b then SUP_PFWCFG_ENB else SUP_PFWCFG_ENA) || !s.sup.pfw)

/-- Some PFW_N output is asserted (R101). -/
def State.pfwOut (s : State) : Bool := !s.pfwHigh false || !s.pfwHigh true

/-- Is the capture buffer taken: a snapshot waits for its phase 3 or is still being written (R128)? -/
def State.snapBusy (s : State) : Bool := s.st.snap.isSome || s.sup.snapReq.isSome

/-- A snapshot trigger `k` of R128 that is enabled: it is captured in the next phase 3, or is missed if the buffer is busy.
(Log: DEDUCED 55) -/
def State.snapAsk (s : State) (k cause subject : Nat) : State :=
  if !bitOf (s.get SUP_SNAPCFG_TRIG) k then s
  else if s.snapBusy then s.count SUP_SNAPCFG_MISSED
  else { s with sup := { s.sup with snapReq := some (cause, subject, none) } }

/-! ## Hot-swap front end -/

/-- Turns the gate off: where the switch was on, the discharge of R118 is owed again; the ON count of R114 restarts. -/
def State.gateOff (s : State) : State :=
  { s with
    pins := { s.pins with gate := .off }
    sup := { s.sup with disDone := s.sup.disDone && s.pins.gate == .off, onRun := 0, gateRun := 0, limRun := 0 } }

/-- Enters FAULT with a cause of Table 19-8 and writes HS_FAULT (R108); `arg` is the measured quantity, if any. The snapshot's
subject is the record's.
(Log: DESIGN CHOICE 160) -/
def State.hsFault (s : State) (cause : Nat) (arg : Option Nat) : State :=
  let s := (s.gateOff.put SUP_HSSTAT_STATE hsFAULT).put SUP_HSSTAT_CAUSE cause
  (s.log 0x3006 0 [some cause, arg]).snapAsk 2 0x3006 0

/-- Clears FAULT to OPEN and the latched rail fault with it (R108, R443). -/
def State.hsClear (s : State) : State :=
  if s.get SUP_HSSTAT_STATE == hsFAULT then
    let s := s.put SUP_HSSTAT_STATE hsOPEN
    { s with sup := { s.sup with latched := false } }
  else s

/-! ## Shutdowns -/

/-- The front end's part of the end of a shutdown: a latched rail fault opens and latches the FET (R96, R99, R108), and a
power-off command with OPEN_AT_OFF that leaves every rail off (`off`) leaves the front end HELD, unless a FAULT is latched. -/
def State.shutdownFront (s : State) (off : Bool) : State :=
  if s.sup.latched && s.get SUP_HSSTAT_STATE != hsFAULT then s.hsFault 8 none
  else if off && s.seq.byCommand && s.on SUP_HSCFG0_OPEN_AT_OFF && s.get SUP_HSSTAT_STATE != hsFAULT then
    s.gateOff.put SUP_HSSTAT_STATE hsHELD
  else s

/-- Every rail leaves the shutdown; one that fell outside a teardown is no longer one the sequence started.
(Log: DEDUCED 38) -/
def State.partsEnd (s : State) : State :=
  s.forRails fun n t => t.modRail n fun r =>
    { r with part := false, started := r.started && (t.seq.teardown || !r.part) }

/-- The end of a teardown: COOL while retries are left, else LOCKOUT (R60). -/
def State.teardownEnd (s : State) : State :=
  let s := { s with seq := { s.seq with teardown := false } }
  if s.get PSQ_SEQSTAT_RETRY < s.get PSQ_SEQCFG_RETRIES then
    let s := s.put PSQ_SEQSTAT_STATE seqCOOL
    { s with seq := { s.seq with coolEnd := s.after (s.get PSQ_COOLDOWN_FRAMES) } }
  else
    let s := s.forRails fun n t => t.modRail n fun r => { r with started := false }
    let s := { s with seq := { s.seq with starting := false } }
    (s.put PSQ_SEQSTAT_STATE seqLOCKOUT).log 0x2004 0 []

/-- The state that the remaining rails give after a shutdown that was no teardown (Table 3-2): UP while rails rise or a
sequence they belong to has yet to complete.
(Log: DEDUCED 32) -/
def State.downEnd (s : State) : State :=
  let on := s.anyRail fun st => st == rlON
  let st :=
    if s.anyRail (fun st => st == rlPENDING || st == rlRISING) || (on && s.seq.starting) then seqUP
    else if on then seqON
    else seqOFF
  let s := (s.put PSQ_SEQSTAT_STATE st).shutdownFront (st == seqOFF)
  { s with seq := { s.seq with byCommand := false, starting := s.seq.starting && st != seqOFF } }

/-- Ends a shutdown whose last rail has fallen. -/
def State.shutdownEnd (s : State) : State :=
  if s.get PSQ_SEQSTAT_STATE == seqDOWN &&
      !s.anyRail (fun st => st == rlOFFWAIT || st == rlFALLGATE || st == rlFALLING) then
    let s := s.partsEnd
    if s.seq.teardown then s.teardownEnd.shutdownFront true else s.downEnd
  else s

/-- Begins a shutdown of the rails that `p` accepts, with the next tick as the origin of the off-delays (R64, R67).
(Log: DEDUCED 38) -/
def State.shutdown (s : State) (p : Nat → Bool) (cause : Nat) : State :=
  let s := s.put PSQ_SEQSTAT_CAUSE cause
  let s := s.forRails fun n t =>
    let st := t.railSt n
    if !(t.used n && p n) then t
    else if st == rlPENDING then
      (t.setRail n rlOFF).modRail n fun r => { r with started := r.started && t.seq.teardown }
    else if st == rlRISING || st == rlON then
      (t.setRail n rlOFFWAIT).modRail n fun r =>
        { r with part := true, offEnd := t.after (t.get (PSQ_RAILDLY_OFF_DLY n)) }
    else if st == rlFALLING then t.modRail n fun r => { r with part := true }
    else t
  (s.put PSQ_SEQSTAT_STATE seqDOWN).shutdownEnd

/-- Is the sequence UP or ON? -/
def State.running (s : State) : Bool :=
  s.get PSQ_SEQSTAT_STATE == seqUP || s.get PSQ_SEQSTAT_STATE == seqON

/-- Is there a rail that a shutdown of every rail would still turn off: the sequence is UP or ON, or a partial shutdown runs
beside rails that are started (R67)? -/
def State.stoppable (s : State) : Bool :=
  s.running || (s.get PSQ_SEQSTAT_STATE == seqDOWN && s.anyRail fun st => st == rlPENDING || st == rlRISING || st == rlON)

/-- The greatest off-delay, among the rails of the running shutdown, below that of rail `n` (R64). -/
def State.lowerDelay (s : State) (n : Nat) : Option Nat :=
  let own := s.get (PSQ_RAILDLY_OFF_DLY n)
  (upTo 24).foldl (fun m k =>
    let d := s.get (PSQ_RAILDLY_OFF_DLY k)
    if (s.rail k).part && d < own then
      match m with
      | some e => some (max e d)
      | none => some d
    else m) none

/-- Has every rail of the nearest lower group fallen (R64)? -/
def State.gateOpen (s : State) (n : Nat) : Bool :=
  match s.lowerDelay n with
  | none => true
  | some d => (upTo 24).all fun k =>
      !((s.rail k).part && s.get (PSQ_RAILDLY_OFF_DLY k) == d) || s.railSt k == rlOFF

/-- Is the sequence complete: every rail it started is ON or FLAGGED (R63)? Beside a partial shutdown DOWN takes precedence as
STATE (Table 3-2), and the rails that were started complete all the same. -/
def State.completes (s : State) : Bool :=
  let st := s.get PSQ_SEQSTAT_STATE
  (st == seqUP || (st == seqDOWN && s.seq.starting && !s.seq.teardown && s.anyRail fun r => r == rlON)) &&
    !s.anyRail fun r => r == rlPENDING || r == rlRISING

/-- The sequence completes: STATE becomes ON, the retry count returns to 0 and one record lists the FLAGGED rails (R63). -/
def State.seqComplete (s : State) : State :=
  if s.completes then
    let s := if s.get PSQ_SEQSTAT_STATE == seqUP then s.put PSQ_SEQSTAT_STATE seqON else s
    let s := { s.put PSQ_SEQSTAT_RETRY 0 with seq := { s.seq with starting := false } }
    s.log 0x2003 0 [some (s.railMask (fun st => st == rlFLAGGED))]
  else s

/-- A slot leaves sequencing: its EN is low and it counts in no order (R52). -/
def State.railUnuse (s : State) (n : Nat) : State := (s.setRail n rlOFF).modRail n fun _ => Rail.idle

end Sys2Proof.Machine
end

