-- ==== Sys2Proof/Machine/Holds.lean ====
section
/-!
DEFINITION. Holds that a party outside a resource sets on many subchannels and channels (chapter 14): the power hold, the
claim of a port, quiesce, domain and orphan.
-/

namespace Sys2Proof.Machine

/-- The class of a channel's descriptor in hand. -/
def State.dcClass (s : State) (n : Nat) : Nat :=
  match (s.chan n).desc with
  | some d => d.ctrl % 4
  | none => 0

/-- The class of a subchannel's item: its entry in hand, or the run of entries it is in (R253); an entry not yet in hand has none. -/
def State.scItemClass (s : State) (n : Nat) : Nat :=
  let u := s.sub n
  if u.head.isSome then s.scClass n
  else if u.ph = .off ∨ u.ph = .fetch ∨ u.cce.code < 0x20 then 0
  else s.scClass n

/-- Holds every subchannel and channel that `p` and `q` accept. -/
def State.holdAll (s : State) (bit : Nat) (status : Option Nat) (p q : Nat → Bool) : State :=
  let s := (upTo 32).foldl (fun t n => if p n then t.scHold n bit status else t) s
  (upTo 16).foldl (fun t n => if q n then t.dcHold n bit status else t) s

/-- Clears holds of a mask on every subchannel and channel that `p` and `q` accept. -/
def State.unholdAll (s : State) (mask : Nat) (p q : Nat → Bool) : State :=
  let s := (upTo 32).foldl (fun t n => if p n then t.scUnhold n mask else t) s
  (upTo 16).foldl (fun t n => if q n then t.dcUnhold n mask else t) s

/-! ## The claim of SP0 (R331) -/

/-- The device port of the image flash: SP0 (R152). -/
abbrev portSP0 : Nat := 8

/-- Does a running FW_WRITE, FW_ERASE or FW_VERIFY claim SP0? -/
def State.sp0Claimed (s : State) : Bool :=
  s.rng.cmds.any fun c => decide (c.st = .running) && decide (0x90 ≤ c.entry.op.toNat) && decide (c.entry.op.toNat ≤ 0x92)

/-- A command claims SP0: its subchannels take the PORT hold. -/
def State.claimSP0 (s : State) : State := s.holdAll 2 (some 0x56) (fun n => s.scPort n == portSP0) fun _ => false

/-- The claim of SP0 ends with the last command that makes it: its subchannels lose PORT. -/
def State.freeSP0 (s : State) : State :=
  if s.sp0Claimed then s
  else s.unholdAll 4 (fun n => s.scPort n == portSP0 && bitOf (s.get (CPE_SCSTAT0_HOLDS n)) 2) fun _ => false

/-- A subchannel that starts while its port is claimed takes PORT before its first entry. -/
def State.scClaimed (s : State) (n : Nat) : State :=
  if s.sp0Claimed && s.scPort n == portSP0 then s.scHold n 2 (some 0x56) else s

/-- PFW_N asserts or deasserts: with PFW_Q set, the POWER hold on every item of class E2 or E3; its end at the deassertion
(R333). -/
def State.powerHold (s : State) (asserted : Bool) : State :=
  if asserted then
    if s.on RST_QCFG_PFW_Q then
      s.holdAll 4 (some 0x55) (fun n => decide (2 ≤ s.scItemClass n)) (fun n => decide (2 ≤ s.dcClass n))
    else s
  else
    s.unholdAll 16 (fun n => bitOf (s.get (CPE_SCSTAT0_HOLDS n)) 4) (fun n => bitOf (s.get (BMV_DCSTAT_HOLDS n)) 4)

end Sys2Proof.Machine
end

