-- ==== Sys2Proof/Machine/Psq.lean ====
section
/-!
DEFINITION. The sequencer's commands (chapter 03): start, enable, rise timeout and teardown, cool-down, deassertion,
fall timeout and the rail retry.
-/

namespace Sys2Proof.Machine

/-- Asserts PFW_N: `pred` says that the assertion is only predictive (R115). The POWER hold follows (R333). -/
def State.pfwAssert (s : State) (pred : Bool) : State :=
  if s.sup.pfw then { s with sup := { s.sup with pfwPred := s.sup.pfwPred && pred } }
  else
    let s := { s with sup := { s.sup with pfw := true, pfwPred := pred } }
    if s.pfwOut then s.powerHold true else s

/-- Deasserts PFW_N and clears the POWER hold (R101, R116, R333).
(Log: DEDUCED 54) -/
def State.pfwRelease (s : State) : State :=
  if s.sup.pfw then
    { s with sup := { s.sup with pfw := false, pfwPred := false } }.powerHold false
  else s

/-- The conditions of R55 for a local start. -/
def State.startReady (s : State) : Bool :=
  !s.on PSQ_SEQCFG_SRC && s.on SUP_BUSSTAT_PRESENT && s.get SUP_HSSTAT_STATE == hsON &&
    (s.on PSQ_SEQCFG_AUTO_ON || s.seq.powerOn) && s.get PSQ_SEQSTAT_STATE == seqOFF &&
    !s.on GLB_STATUS_CAL_FAIL && s.sup.leadEnd.isNone

/-- SEQUENCE_START (R55): every used rail takes a common start at the next tick. -/
def execSequenceStart (s : State) : Res :=
  .next <|
    if s.phase 4 && s.startReady then
      let s := { s with seq := { s.seq with powerOn := false } }
      s.startRails fun _ => true
    else s

/-- Has rail `n`'s on-delay ended (R57)? -/
def State.enableDue (s : State) (n : Nat) : Bool :=
  s.used n && s.railSt n == rlPENDING && s.due ((s.rail n).start + s.get (PSQ_RAILDLY_ON_DLY n))

/-- RAIL_ENABLE (R57): every rail whose on-delay has ended asserts EN, all in one phase 4; its rise timeout counts from
the next tick (R59).
(Log: DESIGN CHOICE 3) -/
def execRailEnable (s : State) : Res :=
  .next <|
    if s.phase 4 then
      s.forRails fun n t =>
        if s.enableDue n then
          (t.setRail n rlRISING).modRail n fun r =>
            { r with tmoEnd := s.after (s.get (PSQ_RAILTMO_RISE_TMO n)), enTick := s.tb.ticks + 1 }
        else t
    else s

/-- Has rail `n`'s rise timeout ended without the rail judged up (R59)? -/
def State.riseFailed (s : State) (n : Nat) : Bool :=
  s.used n && s.railSt n == rlRISING && s.due (s.rail n).tmoEnd

/-- Sets RISE_FAIL and writes the record (R60, R61). -/
def State.riseFail (s : State) (n : Nat) : State :=
  (s.put (PSQ_RAILSTAT_RISE_FAIL n) 1).log 0x2001 n []

/-- RISE_TIMEOUT (R59 to R63): a critical failure tears the sequence down with every failed rail taking part; otherwise
the tolerant rails are FLAGGED and the sequence goes on, or completes. -/
def execRiseTimeout (s : State) : Res :=
  .next <|
    if s.phase 4 && (upTo 24).any s.riseFailed then
      let critical := (upTo 24).any fun n => s.riseFailed n && !s.tolerant n
      let s' := s.forRails fun n t => if s.riseFailed n then t.riseFail n else t
      if critical then
        ({ s' with seq := { s'.seq with teardown := true } }).shutdown (fun _ => true) 3
      else
        let s' := s'.forRails fun n t => if s.riseFailed n then t.setRail n rlFLAGGED else t
        s'.seqComplete
    else s

/-- COOL_DOWN_END (R60), a step of phase 4 (R43): the retry count rises and every rail the sequence started takes a new common start. -/
def execCoolDownEnd (s : State) : Res :=
  .next <|
    if s.phase 4 && s.get PSQ_SEQSTAT_STATE == seqCOOL && s.due s.seq.coolEnd then
      let s := (s.put PSQ_SEQSTAT_RETRY (s.get PSQ_SEQSTAT_RETRY + 1)).put PSQ_SEQSTAT_STATE seqUP
      s.startRails fun n => (s.rail n).started
    else s

/-- May rail `n` deassert EN in this phase 4 (R64)? -/
def State.deassertDue (s : State) (n : Nat) : Bool :=
  s.used n && (s.railSt n == rlOFFWAIT || s.railSt n == rlFALLGATE) && s.due (s.rail n).offEnd && s.gateOpen n

/-- RAIL_DEASSERT (R64, R66): the rails whose off-delay has ended and whose lower group has fallen deassert EN; their fall
timeouts count from the next tick. -/
def execRailDeassert (s : State) : Res :=
  .next <|
    if s.phase 4 then
      s.forRails fun n t =>
        if s.deassertDue n then
          (t.setRail n rlFALLING).modRail n fun r =>
            { r with tmoEnd := s.after (s.get (PSQ_RAILTMO_FALL_TMO n)) }
        else t
    else s

/-- Has rail `n`'s fall timeout ended (R66)? -/
def State.fallLate (s : State) (n : Nat) : Bool :=
  s.used n && s.railSt n == rlFALLING && s.due (s.rail n).tmoEnd

/-- FALL_TIMEOUT (R66): the flag, the record, and the rail counts as fallen for every gate. -/
def execFallTimeout (s : State) : Res :=
  .next <|
    if s.phase 3 && (upTo 24).any s.fallLate then
      let t := s.forRails fun n t =>
        if s.fallLate n then ((t.put (PSQ_RAILSTAT_FALL_TIMEOUT n) 1).log 0x2002 n []).setRail n rlOFF else t
      t.shutdownEnd
    else s

/-- The retry of one FLAGGED rail: a fresh common start at the next tick (R61); in LOCKOUT too, which it ends.
(Log: DESIGN CHOICE 155) -/
def State.retryRail (s : State) (n : Nat) : State :=
  if s.used n && s.railSt n == rlFLAGGED then s.startRails (fun k => k == n) else s

/-- RAILCTL_RETRY (R61): a write of 1 to PSQ_RAILCTL[n].RETRY. -/
def execRailctlRetry (n : Fin 24) (s : State) : Res :=
  .next (s.retryRail n)

end Sys2Proof.Machine
end

