-- ==== Sys2Proof/Machine/FrontEnd.lean ====
section
/-!
DEFINITION. Rail faults, the hot-swap front end, the interlock, the shelf inputs, ride-through, the discharge and Cocoon's
comparators (chapter 04).
-/

namespace Sys2Proof.Machine

/-! ## Rail faults -/

/-- Sources of a rail fault, as the model numbers its alternatives. -/
abbrev fltOV : Nat := 0
abbrev fltUV : Nat := 1
abbrev fltPG : Nat := 2
abbrev fltSENSE : Nat := 3
abbrev fltTHERMAL : Nat := 6

/-- The ARG0 of a crossing. -/
def crossNum : RailCross → Nat
  | .ov => fltOV
  | .uv => fltUV
  | .pg => fltPG

/-- The status bit a fault sets in SUP_RAILSTAT[n]. -/
def fltBit (n kind : Nat) : FRef :=
  if kind == fltOV then SUP_RAILSTAT_OV_FLT n
  else if kind == fltUV then SUP_RAILSTAT_UV_FLT n
  else if kind == fltPG then SUP_RAILSTAT_PG_FLT n
  else SUP_RAILSTAT_SENSE_OPEN n

/-- A latched fault that the supervisor answers with a timed shutdown (R96, R99, R100, R143): PFW_N, the latch, and the
lead time unless one runs or the sequence is not running. -/
def State.faultShutdown (s : State) (cause : Nat) : State :=
  let s := ({ s with sup := { s.sup with latched := true } }).pfwAssert false
  if s.running && s.sup.leadEnd.isNone then
    { s with sup := { s.sup with leadEnd := some (s.after (s.get SUP_PFWCFG_LEAD)), leadCause := cause } }
  else s

/-- A rail fault declared (R96, R97, R98, R99): its status bit; in hardware, FAST_OFF drives EN low at once; then the FLAG
or the SHUTDOWN response.
(Log: DEDUCED 39) -/
def State.railFault (s : State) (n kind : Nat) (hw : Bool) : State :=
  let s := s.put (fltBit n kind) 1
  let s :=
    if hw && s.on (SUP_RAILCFG_FAST_OFF n) && enOf (s.railSt n) then
      (s.setRail n rlFALLING).modRail n fun r => { r with tmoEnd := s.after (s.get (PSQ_RAILTMO_FALL_TMO n)) }
    else s
  if s.on (SUP_RAILCFG_FLT_ACTION n) then s.modRail n fun r => { r with flagDue := true }
  else s.faultShutdown 4

/-- UV_IN_DOWN (R93): an undervoltage in OFF_WAIT or FALL_GATE is only logged. -/
def State.uvInDown (s : State) (n : Nat) : State :=
  if s.on (SUP_RAILSTAT_UV_IN_DOWN n) then s
  else (s.put (SUP_RAILSTAT_UV_IN_DOWN n) 1).log 0x3004 n []

/-- Is the rail one that the comparator or the PG filter of this crossing watches (R92, R94)? -/
def State.watched (s : State) (n : Nat) (c : RailCross) : Bool :=
  s.used n &&
    match c with
    | .pg => !s.measured n
    | _ => s.measured n

/-- Is the crossing armed in the rail's state (Table 4-2)? -/
def armed (st : Nat) (c : RailCross) : Bool :=
  match c with
  | .ov => st == rlRISING || st == rlON || st == rlOFFWAIT || st == rlFALLGATE
  | _ => st == rlON

/-- The hardware latches a fault of rail `n` with its timestamp; a crossing of a kind already latched adds nothing (R92, R96). -/
def State.hwLatch (s : State) (n : Nat) (c : RailCross) : State :=
  if (s.rail n).hwDue.any fun x => x.1 == c then s
  else
    let s := s.touch
    s.modRail n fun r => { r with hwDue := r.hwDue ++ [(c, s.now)] }

/-- RAIL_FAULT (R92 to R99): a crossing that the arming rule admits declares the fault in hardware, to be recorded in the
next phase 3; in OFF_WAIT and FALL_GATE an undervoltage is only logged. On outputs held through a Warm reset the hardware
acts on every rail whose EN is held high (R411, R412). The hardware latches the fault with its timestamp (Table 4-3).
(Log: DEDUCED 42) -/
def execRailFault (n : Fin 24) (cause : RailCross) (s : State) : Res :=
  .next <|
    let st := s.railSt n
    if !s.watched n cause then s
    else if s.pins.held then
      if s.pins.en.getLsbD n then
        let s := (s.put (fltBit n (crossNum cause)) 1).pfwAssert false
        let s := s.hwLatch n cause
        if s.on (SUP_RAILCFG_FAST_OFF n) then
          { s with pins := { s.pins with en := s.pins.en &&& ~~~ ((BitVec.ofNat 24 1) <<< n.val) } }
        else s
      else s
    else if armed st cause then
      (s.railFault n (crossNum cause) true).hwLatch n cause
    else if (st == rlOFFWAIT || st == rlFALLGATE) && cause != .ov then s.uvInDown n
    else s

/-- PFW_LEAD_END (R96, R67): in the phase 3 of the frame whose tick ends the lead time the shutdown begins. -/
def execPfwLeadEnd (s : State) : Res :=
  .next <|
    match s.sup.leadEnd with
    | some t =>
      if s.due t && s.phase 3 then
        let s := { s with sup := { s.sup with leadEnd := none } }
        if s.stoppable then s.shutdown (fun _ => true) s.sup.leadCause else s
      else s
    | none => s

/-! ## Busbar judgement -/

/-- The busbar is judged present (R103): FAULT clears after an absence (R108), and LOCKOUT is left (R69). -/
def State.busbarPresent (s : State) : State :=
  let s := s.put SUP_BUSSTAT_PRESENT 1
  if s.seq.absentSeen then
    let s := s.hsClear
    let s := if s.get PSQ_SEQSTAT_STATE == seqLOCKOUT then
        (s.put PSQ_SEQSTAT_STATE seqOFF).put PSQ_SEQSTAT_RETRY 0 else s
    { s with seq := { s.seq with absentSeen := false } }
  else s

/-- BUSBAR_ABSENT (R103): 8 consecutive frames below ABS_MV. -/
def execBusbarAbsent (s : State) : Res :=
  .next <|
    if s.on SUP_BUSSTAT_PRESENT && decide (8 ≤ s.sup.absRun) then
      let s := s.put SUP_BUSSTAT_PRESENT 0
      { s with seq := { s.seq with absentSeen := true } }
    else s

/-! ## Hot-swap front end -/

/-- Has COC_VS reached the Cocoon target (R104, R122; VTGT is in units of 100 mV)? -/
def State.cocReady (s : State) : Bool := decide (s.get SUP_COCSTAT_VTGT * 100 ≤ s.sup.cocVs)

/-- Do the conditions to enter CHARGING hold (R104 from OPEN, R107 from BLOCKED)? -/
def State.chargeReady (s : State) : Bool :=
  let st := s.get SUP_HSSTAT_STATE
  if s.on GLB_STATUS_CAL_FAIL || s.pins.held then false
  else if st == hsOPEN then
    s.on SUP_BUSSTAT_PRESENT && s.on SUP_HSCFG0_EN && s.cocReady && !s.on SUP_DISSTAT_RUNNING
  else if st == hsBLOCKED then decide (s.sup.bulkVs + 500 ≤ s.sup.busVs)
  else false

/-- HS_CHARGE_START (R104, R107, R118): BLEED_G is deasserted, HS_GATE ramps, and CHG_TMO counts. -/
def execHsChargeStart (s : State) : Res :=
  .next <|
    if s.phase 4 && s.chargeReady then
      let s := (s.put SUP_HSSTAT_STATE hsCHARGING).put SUP_DISSTAT_RUNNING 0
      { s with
        pins := { s.pins with gate := .ramp, bleed := false }
        sup := { s.sup with chgEnd := s.after (s.get SUP_HSCFG0_CHG_TMO), gateRun := 0, limRun := 0 } }
    else s

/-- Entry to ON: the FET energy sum and the counts of ON restart (R105, R106, R114). -/
def State.hsOn (s : State) : State :=
  { s.put SUP_HSSTAT_STATE hsON with
    pins := { s.pins with gate := .full }
    sup := { s.sup with fast := { s.sup.fast with soa := 0, soaHit := none }, onRun := 0, limRun := 0 } }

/-- HS_FULLY_ENHANCED (R104, R106): at most 500 mV across the switch, and 8 frames with the gate at full. -/
def execHsFullyEnhanced (s : State) : Res :=
  .next <|
    if s.get SUP_HSSTAT_STATE == hsCHARGING && decide (8 ≤ s.sup.gateRun) && decide (s.sup.busVs ≤ s.sup.bulkVs + 500) then s.hsOn
    else s

/-- INRUSH_TMO (R104): CHG_TMO frames in CHARGING. -/
def execInrushTmo (s : State) : Res :=
  .next <|
    if s.get SUP_HSSTAT_STATE == hsCHARGING && s.due s.sup.chgEnd then s.hsFault 2 none else s

/-- OVERCURRENT (R105): the loop limits for ILIM_T frames while ON. -/
def execOvercurrent (s : State) : Res :=
  .next <|
    if s.get SUP_HSSTAT_STATE == hsON && decide (s.get SUP_HSCFG0_ILIM_T ≤ s.sup.limRun) then s.hsFault 3 none
    else s

/-- Does the switch conduct: CHARGING or ON, or a gate held through a Warm reset (R411)? -/
def State.conducts (s : State) : Bool :=
  s.get SUP_HSSTAT_STATE == hsCHARGING || s.get SUP_HSSTAT_STATE == hsON || (s.pins.held && s.pins.gate != .off)

/-- The current, in mA, that a voltage of `uv` microvolts across the shunt means (R87). -/
def State.shuntMa (s : State) (uv : Nat) : Nat := divU (uv * 1000) (s.get SUP_HSSHUNT_UOHM)

/-- HS_SHORT (R105): a current at or above twice SUP_HSILIM (0.1 A units), as a voltage across the shunt. -/
def execHsShort (uv : Nat) (s : State) : Res :=
  .next <|
    if s.conducts && decide (2 * s.get SUP_HSILIM_LIMIT * 100 * s.get SUP_HSSHUNT_UOHM ≤ uv * 1000) then
      s.hsFault 4 (some (s.shuntMa uv))
    else s

/-! ## The fast path (R88) -/

/-- Energy in microjoules of a sum of products of codes: 96 V at 1,024, and 50 mV at 512 across the shunt, over 1 us. -/
def State.rawUj (s : State) (raw : Int) : Int := divUInt (raw * 9375) (1024 * s.get SUP_HSSHUNT_UOHM)

/-- Does a sum of products of codes exceed `mj` millijoules? -/
def State.rawOver (s : State) (raw : Int) (mj : Nat) : Bool :=
  decide (((mj * 1024000 * s.get SUP_HSSHUNT_UOHM : Nat) : Int) < raw * 9375)

/-- The bin of the frame that its `k`-th sample falls in: eight bins of 15.625 us (R111). -/
def binOf (k : Nat) : Nat := min 7 (8 * k / 125)

/-- One sample of the fast path: energy, extremes, the interlock's window and the FET energy (R88, R106, R111).
(Log: DEDUCED 161) -/
def State.fastSample (s : State) (x : Fast) : State :=
  let a := s.sup.fast
  let p : Int := x.bulk.toNat * x.cur.toInt
  let new := a.cnt != 0 && binOf a.cnt != binOf (a.cnt - 1)
  let bins := if new then (a.part :: a.bins).take 511 else a.bins
  let part := if new then p else a.part + p
  let win := part + (bins.take (8 * s.get SUP_ILKCFG_WINDOW - 1)).sum
  let hot := s.conducts && s.get SUP_HSSTAT_STATE != hsON
  let soa := if hot then a.soa + ((x.bus.toNat : Int) - x.bulk.toNat) * x.cur.toInt else a.soa
  { s with sup := { s.sup with fast := {
    raw := a.raw + p, frameRaw := a.frameRaw + p, sum := a.sum + x.bulk.toNat, cnt := a.cnt + 1
    busLo := min a.busLo x.bus.toNat, busHi := max a.busHi x.bus.toNat
    bulkLo := min a.bulkLo x.bulk.toNat, bulkHi := max a.bulkHi x.bulk.toNat
    part := part, bins := bins, soa := soa
    ilkHit := if a.ilkHit.isNone && s.conducts && s.rawOver win (s.get SUP_ILKCFG_LIMIT) then some win else a.ilkHit
    soaHit := if a.soaHit.isNone && hot && s.rawOver soa (s.get SUP_HSSOA_MJ) then some soa else a.soaHit } } }

/-- A run of samples, oldest first. -/
def State.fastRun (s : State) (l : List Fast) : State := l.foldl State.fastSample s

/-- SOA_TRIP (R106): the FET energy accumulated while the switch is not fully enhanced exceeds SUP_HSSOA. -/
def execSoaTrip (l : List Fast) (s : State) : Res :=
  .next <|
    let s := s.fastRun l
    match s.sup.fast.soaHit with
    | some e =>
      let s := { s with sup := { s.sup with fast := { s.sup.fast with soaHit := none } } }
      if s.conducts && s.get SUP_HSSTAT_STATE != hsON then s.hsFault 5 (some (s.rawUj e / 1000).toNat) else s
    | none => s

/-- REVERSE_CURRENT (R107, R114): a current below -REV, as a reverse voltage across the shunt, blocks the switch; leaving ON
begins ride-through. -/
def execReverseCurrent (uv : Nat) (s : State) : Res :=
  .next <|
    if s.conducts && decide (s.get SUP_HSCFG1_REV * 100 * s.get SUP_HSSHUNT_UOHM < uv * 1000) then
      let wasOn := s.get SUP_HSSTAT_STATE == hsON
      let s := s.gateOff.put SUP_HSSTAT_STATE hsBLOCKED
      if wasOn then s.put SUP_BUSSTAT_RT 1 else s
    else s

/-- HSCTL_CLR (R108): a write of 1 to SUP_HSCTL.CLR. -/
def execHsctlClr (s : State) : Res := .next s.hsClear

/-- INTERLOCK_TRIP (R111): the window sum of a sample exceeds the limit; FAULT with cause ILK and a record with the sum.
(Log: DESIGN CHOICE 160) -/
def execInterlockTrip (l : List Fast) (s : State) : Res :=
  .next <|
    let s := s.fastRun l
    match s.sup.fast.ilkHit with
    | some e =>
      let s := { s with sup := { s.sup with fast := { s.sup.fast with ilkHit := none } } }
      if s.conducts then (s.snapAsk 1 0x3006 0).hsFault 1 (some (s.rawUj e / 1000).toNat) else s
    | none => s

/-! ## Shelf and ride-through -/

/-- SHELF_CHANGE (R113, R114): an input that has been low for 2 frames counts as asserted, else as deasserted; each change
is recorded, and SHELF_WARN_N begins ride-through where WARN_RT is 1.
(Log: DESIGN CHOICE 13) -/
def execShelfChange (fail : Bool) (s : State) : Res :=
  .next <|
    let f := if fail then SUP_BUSSTAT_SHELF_FAIL else SUP_BUSSTAT_SHELF_WARN
    let now := decide (2 ≤ (if fail then s.sup.failRun else s.sup.warnRun))
    if s.on f == now then s
    else
      let s := (s.putB f now).log 0x3008 (argCode 0x3008 (b2n fail) % 65536) [some (argCode 0x3008 (2 + b2n now))]
      if !fail && now && s.on SUP_SHELFCFG_WARN_RT then s.put SUP_BUSSTAT_RT 1 else s

/-- RIDE_THROUGH_END (R114): the front end ON for 8 frames and no shelf warning. -/
def execRideThroughEnd (s : State) : Res :=
  .next <|
    if s.on SUP_BUSSTAT_RT && s.get SUP_HSSTAT_STATE == hsON && decide (8 ≤ s.sup.onRun) &&
        !s.on SUP_BUSSTAT_SHELF_WARN then s.put SUP_BUSSTAT_RT 0
    else s

/-! ## Discharge -/

/-- Is a discharge owed: none has passed since the FET last turned off (R118)?
(Log: DEDUCED 31) -/
def State.dischargeDue (s : State) : Bool :=
  let q := s.get PSQ_SEQSTAT_STATE
  let h := s.get SUP_HSSTAT_STATE
  (q == seqOFF || q == seqLOCKOUT) && (h == hsOPEN || h == hsBLOCKED || h == hsFAULT || h == hsHELD) &&
    !s.sup.disDone && !s.on SUP_DISSTAT_RUNNING && !s.pins.held

/-- DISCHARGE_START (R118): BLEED_G is asserted in phase 4 and the discharge time counts from the next tick. SUP_DISSTAT shows this
discharge alone.
(Log: DESIGN CHOICE 157) -/
def execDischargeStart (s : State) : Res :=
  .next <|
    if s.phase 4 && s.dischargeDue then
      let s := s.setReg 0x6098 1
      { s with
        pins := { s.pins with bleed := true }
        sup := { s.sup with disFrom := s.tb.ticks + 1, disRun := 0, disOk := false } }
    else s

/-- DIS_FAIL (R118, R120): SUP_DISTIME ends without a pass: FAIL, the record, the snapshot and FAULT with cause DIS_FAIL;
with BULK_SENSE latched a discharge that met its limits is UNVERIFIED, which is no pass. BLEED_G stays asserted.
(Log: DEDUCED 31) -/
def execDisFail (s : State) : Res :=
  .next <|
    if s.on SUP_DISSTAT_RUNNING && s.due (s.sup.disFrom + s.get SUP_DISTIME_FRAMES) then
      let s := s.put SUP_DISSTAT_RUNNING 0
      let s := s.put SUP_DISSTAT_ELAPSED (satTo 16 (s.tb.ticks - s.sup.disFrom))
      if s.sup.disOk then s.put SUP_DISSTAT_UNVERIFIED 1
      else (((s.put SUP_DISSTAT_FAIL 1).log 0x300C 0 []).snapAsk 5 0x300C 0).hsFault 7 none
    else s

/-! ## Cocoon's comparators -/

/-- COC_OVERCAP (R123): at the cap voltage the comparator turns COC_CHG off; more than 2 % above it sets OVERCAP, holds
COC_CHG off and writes a record. -/
def execCocOvercap (mv : Nat) (s : State) : Res :=
  .next <|
    let e := s.get SUP_COCCAP_UF * mv * mv
    let cap := 2000000000 * s.get SUP_COCCFG_CAP
    if cap ≤ e then
      let s := { s.put SUP_COCSTAT_CHARGING 0 with pins := { s.pins with cocChg := false } }
      if cap * 10404 < e * 10000 && !s.sup.ovHold then
        let s := { s.put SUP_COCSTAT_OVERCAP 1 with sup := { s.sup with ovHold := true } }
        s.log 0x300D 0 [some mv]
      else s
    else s

/-- The release of every output to its external pull (R126, R410). -/
def State.releaseOutputs (s : State) : State :=
  { s with
    pins := { s.pins with released := true, en := 0, gate := .off, bleed := true, cocChg := false, coreEn := false, throt := false, gpio := false }
    sup := { s.sup with pfw := true }
    sw := { s.sw with claimed := false, pulse := none } }

end Sys2Proof.Machine
end

