-- ==== Sys2Proof/Machine/Thermal.lean ====
section
/-!
DEFINITION. Temperature sources, alarms and the throttle (chapter 05).
-/

namespace Sys2Proof.Machine

/-- The value of a source treated as too hot (R130). -/
abbrev tooHotVal : Int := 0x7FFF

/-- A LINEAR11 word in sixteenths of a degree, truncated towards zero (R138). -/
def linear11 (v : Nat) : Int :=
  let n := signedOf 5 (v / 2048)
  let y := signedOf 11 v
  let e := n + 4
  if 0 ≤ e then y * (2 : Int) ^ e.toNat else Int.tdiv y ((2 : Int) ^ (-e).toNat)

/-- A posted value in sixteenths of a degree, by FMT (R138). -/
def decodeRemote (fmt v : Nat) : Int := if fmt == 1 then linear11 v else signedOf 16 v

/-- Is a decoded posting within -55.0 to +175.0 degrees (R138)? -/
def remoteInRange (t : Int) : Bool := decide (-880 ≤ t) && decide (t ≤ 2800)

/-- Source `i` is treated as too hot from this moment: it takes 0x7FFF in every report (R130). -/
def State.hotNow (s : State) (i : Nat) : State := (s.put (THM_SRCSTAT_TOO_HOT i) 1).putS (THM_SRCSTAT_VALUE i) tooHotVal

/-- Accepts a posting to THM_REMOTE[r] (R137 to R140): the value is stored and decoded, RANGE follows it, and the staleness
limit restarts. An out-of-range value is too hot at once, until a posting within range; STALE clears in the next phase 3.
(Log: DEDUCED 58) -/
def State.postRemote (s : State) (r v : Nat) : State :=
  let src := r + 1
  let t := decodeRemote (s.get (THM_REMCFG_FMT r)) v
  let out := !remoteInRange t
  let was := s.on (THM_SRCSTAT_RANGE src)
  let s := (s.put (THM_REMOTE_VALUE r) v).putB (THM_SRCSTAT_RANGE src) out
  let s := { s with thm := { s.thm with
    remote := modAt s.thm.remote r fun _ => t
    limit := modAt s.thm.limit r fun _ => some (s.after (s.get (THM_REMCFG_STALE r))) } }
  if out then s.hotNow src
  else if was && !s.on (THM_SRCSTAT_STALE src) then (s.put (THM_SRCSTAT_TOO_HOT src) 0).putS (THM_SRCSTAT_VALUE src) t
  else s

/-- THM_REMOTE_WRITE (R137, R444): a write to THM_REMOTE[r] by the Owner is a posting. -/
def execThmRemoteWrite (_p : Port) (r : Fin 8) (v : BitVec 16) (s : State) : Res :=
  .next (s.postRemote r v.toNat)

/-- Has the staleness limit of remote `r` ended (R139)? That of a remote never posted counts from the reset.
(Log: DEDUCED 58) -/
def State.limitEnded (s : State) (r : Nat) : Bool :=
  s.due ((s.thm.limit.getD r none).getD (s.rst.warmTick + s.get (THM_REMCFG_STALE r)))

/-- Staleness of remote `r` in phase 3 (R139): STALE sets where the limit has ended, and clears with a record where a fresh posting
has come.
(Log: DEDUCED 58) -/
def State.judgeStale (s : State) (r : Nat) : State :=
  let src := r + 1
  if !s.on (THM_SRC_EN src) then s
  else if s.on (THM_SRCSTAT_STALE src) then
    if s.limitEnded r then s else (s.put (THM_SRCSTAT_STALE src) 0).log 0x4004 src []
  else if s.limitEnded r then
    { s.put (THM_SRCSTAT_STALE src) 1 with thm := { s.thm with staleRec := s.thm.staleRec ++ [r] } }
  else s

/-- SRC_STALE (R139): a source that phase 3 has judged stale is recorded. -/
def execSrcStale (r : Fin 8) (s : State) : Res :=
  .next <|
    if s.thm.staleRec.contains r.val then
      ({ s with thm := { s.thm with staleRec := s.thm.staleRec.erase r.val } }).log 0x4003 (r.val + 1) []
    else s

/-- Is a failure flag of the diode set (R133, R135)? -/
def State.diodeFailed (s : State) : Bool :=
  s.on THM_DIODESTAT_OPEN || s.on THM_DIODESTAT_SHORT || s.on THM_DIODESTAT_RATIO || s.on THM_DIODESTAT_PLAUS

/-- DIODE_CONVERSION (R132 to R134): `uv` is the diode voltage at 100 uA in mV, `temp` the temperature from the voltage
difference and `tempCal` that from the calibrated voltage, in sixteenths of a degree. A failing conversion is discarded,
sets its flag and makes source 0 too hot; the first failing one is recorded. -/
def execDiodeConversion (uv : Nat) (temp tempCal : Int) (s : State) : Res :=
  .next <|
    let isOpen := decide (1100 < uv)
    let isShort := decide (uv < 150)
    let ratio := decide (320 < (temp - tempCal).natAbs)
    if isOpen || isShort || ratio then
      let first := !(s.on THM_DIODESTAT_OPEN || s.on THM_DIODESTAT_SHORT || s.on THM_DIODESTAT_RATIO)
      let s := if isOpen then s.put THM_DIODESTAT_OPEN 1 else s
      let s := if isShort then s.put THM_DIODESTAT_SHORT 1 else s
      let s := if ratio then s.put THM_DIODESTAT_RATIO 1 else s
      let s := (s.hotNow 0).put (THM_SRCSTAT_DIODE 0) 1
      let s := { s with thm := { s.thm with bad := true } }
      if first then s.log 0x4001 0 [some (argCode 0x4001 (b2n isOpen + 2 * b2n isShort + 4 * b2n ratio))] else s
    else { s with thm := { s.thm with sum := s.thm.sum + temp, cnt := s.thm.cnt + 1 } }

/-- The diode flags clear, and judgement resumes from the next conversion (R136). What the source reports follows in the next
phase 3, which a failed conversion of its frame still makes too hot (R134).
(Log: DEDUCED 164) -/
def State.diodeClear (s : State) : State :=
  (((s.put THM_DIODESTAT_OPEN 0).put THM_DIODESTAT_SHORT 0).put THM_DIODESTAT_RATIO 0).put THM_DIODESTAT_PLAUS 0

/-- THM_FAIL_CLR (R136): a write of 1 to THM_CTL.FAIL_CLR. -/
def execThmFailClr (s : State) : Res := .next s.diodeClear

/-! ## Alarms -/

/-- A fresh alarm. -/
def Alarm.idle : Alarm := ⟨0, 0, false⟩

/-- The status bit of an alarm: WARN of source `i` at bit `i`, CRIT at bit 16 + `i`. -/
def almBit (crit : Bool) (i : Nat) : FRef := ⟨0x7008, (if crit then 16 else 0) + i, 1⟩

/-- Is the alarm latched (THM_ALM.LATCH: bit 0 WARN, bit 1 CRIT)? -/
def State.almLatched (s : State) (crit : Bool) (i : Nat) : Bool := bitOf (s.get (THM_ALM_LATCH i)) (b2n crit)

/-- The alarm of a source. -/
def State.alarm (s : State) (crit : Bool) (i : Nat) : Alarm :=
  (if crit then s.thm.crit else s.thm.warn).getD i Alarm.idle

/-- Changes an alarm. -/
def State.setAlarm (s : State) (crit : Bool) (i : Nat) (a : Alarm) : State :=
  if crit then { s with thm := { s.thm with crit := modAt s.thm.crit i fun _ => a } }
  else { s with thm := { s.thm with warn := modAt s.thm.warn i fun _ => a } }

/-- Clears one latched alarm bit if its clearing condition has been met (R142). -/
def State.almClearBit (s : State) (crit : Bool) (i : Nat) : State :=
  if s.almLatched crit i && !(s.alarm crit i).on then s.put (almBit crit i) 0 else s

/-- Clears the latched alarms named by a mask laid out as THM_ALMSTAT (R142, R444). -/
def State.almClear (s : State) (mask : Nat) : State :=
  (upTo 9).foldl (fun s i =>
    let s := if bitOf mask i then s.almClearBit false i else s
    if bitOf mask (16 + i) then s.almClearBit true i else s) s

/-- ALMSTAT_CLEAR (R142): a write of 1s to THM_ALMSTAT. -/
def execAlmstatClear (mask : Word) (s : State) : Res := .next (s.almClear mask.toNat)

/-! ## Phase 3 -/

/-- Is source `i` treated as too hot in phase 3: a failed diode or a failed conversion of the frame before, an out-of-range posting,
or a stale value (R133 to R135, R138, R139)? -/
def State.srcTooHot (s : State) (i : Nat) : Bool :=
  if i == 0 then s.diodeFailed || s.thm.lastBad else s.on (THM_SRCSTAT_RANGE i) || s.on (THM_SRCSTAT_STALE i)

/-- The value of source `i` in phase 3; the diode's is the mean of the previous frame's conversions, or without any the value it had
(R130, R134, R140).
(Log: DESIGN CHOICE 162) -/
def State.srcValue (s : State) (i : Nat) : Int :=
  if s.srcTooHot i then tooHotVal
  else if i == 0 then
    if s.thm.lastCnt = 0 then s.getS (THM_SRCSTAT_VALUE 0) else divUInt s.thm.lastSum s.thm.lastCnt
  else s.thm.remote.getD (i - 1) 0

/-- At each tick the conversions of the frame that ends become the previous frame's (R134). -/
def State.thmTick (s : State) : State :=
  { s with thm := { s.thm with
    lastSum := s.thm.sum, lastCnt := s.thm.cnt, lastBad := s.thm.bad, sum := 0, cnt := 0, bad := false } }

/-- The alarm's counts after a frame with value `v` (R141): above the level, below it by the hysteresis, or between. -/
def Alarm.judge (a : Alarm) (v level : Int) (hyst persist : Nat) : Alarm :=
  if level < v then
    let r := a.setRun + 1
    ⟨min r persist, 0, a.on || decide (persist ≤ r)⟩
  else if v < level - hyst then
    let r := a.clrRun + 1
    ⟨0, min r persist, a.on && decide (r < persist)⟩
  else ⟨0, 0, a.on⟩

/-- Judges one alarm of source `i` with value `v`: status bit, record, and the CRIT response (R141 to R143). -/
def State.judgeAlarm (s : State) (crit : Bool) (i : Nat) (v : Int) : State :=
  let level := if crit then s.getS (THM_ALM_CRIT i) else s.getS (THM_ALM_WARN i)
  let a := s.alarm crit i
  let a' := a.judge v level (s.get THM_ALMCFG_HYST) (s.get THM_ALMCFG_PERSIST)
  let s := s.setAlarm crit i a'
  if a'.on && !a.on then
    let s := (s.put (almBit crit i) 1).log 0x4005 i [some (argCode 0x4005 (b2n crit))]
    if crit && s.on (THM_ALM_CRIT_ACT i) then
      let s := s.log 0x3003 i [some (argCode 0x3003 fltTHERMAL)]
      (s.snapAsk 0 0x3003 i).faultShutdown 6
    else s
  else if a.on && !a'.on then
    let s := if s.almLatched crit i then s else s.put (almBit crit i) 0
    s.log 0x4006 i [some (argCode 0x4006 (b2n crit))]
  else if a'.on then s.put (almBit crit i) 1
  else s

/-- The excess of source `i` over its throttle start, in sixteenths of a degree. -/
def State.srcExcess (s : State) (i : Nat) : Int := s.getS (THM_SRCSTAT_VALUE i) - s.getS (THM_SRC_START i)

/-- X_T of output `o` (R144). -/
def State.xT (s : State) (o : Nat) : Nat :=
  (upTo 9).foldl (fun m i =>
    if s.on (THM_SRC_EN i) && bitOf (s.get (THM_SRC_MAP i)) o then max m (s.srcExcess i).toNat else m) 0

/-- The power grant in force (W): SUP_RTGRANT during ride-through if it is not 0 (R114, R322). -/
def State.grantW (s : State) : Nat :=
  if s.on SUP_BUSSTAT_RT && s.get SUP_RTGRANT_W != 0 then s.get SUP_RTGRANT_W else s.get SUP_GRANT_W

/-- The duty of output `o` (R144): the exact percentage is the greater of GAIN_T x X_T (both in sixteenths) and
GAIN_P x X_P (hundredths of a percent per W, X_P in mW), limited to 100 %, scaled to 1,024 and rounded down. -/
def State.duty (s : State) (o : Nat) : Nat :=
  let xp := (s.sup.draw - (s.grantW * 1000 : Nat)).toNat
  let dt := s.get (THM_THR_GAIN_T o) * s.xT o * 100000
  let dp := s.get (THM_THR_GAIN_P o) * xp * 256
  min (max dt dp) 2560000000 * 1024 / 2560000000

/-- The source with the greatest excess among the enabled ones, the lowest number among equals (R147). -/
def State.worstSrc (s : State) : Option Nat :=
  (upTo 9).foldl (fun b i =>
    if s.on (THM_SRC_EN i) then
      match b with
      | some j => if s.srcExcess j < s.srcExcess i then some i else some j
      | none => some i
    else b) none

/-- One output after phase 3 (R144, R145): DUTY, and whether it is active in LEVEL mode.
(Log: DEDUCED 59) -/
def State.throttleOut (s : State) (o : Nat) : State :=
  let d := s.duty o
  let mode := s.get (THM_THR_MODE o)
  let was := s.on (THM_THRSTAT_ACTIVE o)
  let act :=
    if mode == 0 then decide (0 < d)
    else if mode == 1 then
      if s.get (THM_THRL_LVL_ON o) ≤ d then true else if d < s.get (THM_THRL_LVL_OFF o) then false else was
    else false
  (s.put (THM_THRSTAT_DUTY o) d).putB (THM_THRSTAT_ACTIVE o) act

/-- Is output `o` active in AON cycle `c` of its 1,024-cycle period (R145)? A new duty counts from the first period after phase 3. -/
def State.throtActive (s : State) (o c : Nat) : Bool :=
  s.on (THM_THRSTAT_ACTIVE o) && (s.get (THM_THR_MODE o) != 0 || decide (c < s.get (THM_THRSTAT_DUTY o)))

/-- The level of pin THROT `o` in AON cycle `c` of its period, POL giving the active one; none while it is released to its pull
(R145, R146). -/
def State.throtPin (s : State) (o c : Nat) : Option Bool :=
  if s.pins.released || !s.pins.throt then none else some (s.throtActive o c == s.on (THM_THR_POL o))

/-- What THM reports to admission (R147). -/
def State.thmEff (s : State) : State :=
  let dm := (upTo 4).foldl (fun m o =>
    if s.get (THM_THR_MODE o) == 2 then m else max m (s.get (THM_THRSTAT_DUTY o))) 0
  let s := s.put THM_EFF_DUTYMAX dm
  match s.worstSrc with
  | some i => (s.put THM_EFF_SRC i).putS THM_EFF_HEADROOM (max (-32768) (min 32767 (- s.srcExcess i)))
  | none => s

/-- Phase 3 of THM: the sources' values, the alarms, the duties and what admission reads (R134, R139 to R147). -/
def State.thmPhase3 (s : State) : State :=
  let s := (upTo 8).foldl (fun s r => s.judgeStale r) s
  let s := (upTo 9).foldl (fun s i =>
    if s.on (THM_SRC_EN i) then
      let hot := s.srcTooHot i
      let s := s.putS (THM_SRCSTAT_VALUE i) (s.srcValue i)
      let s := s.putB (THM_SRCSTAT_TOO_HOT i) hot
      if i == 0 then s.putB (THM_SRCSTAT_DIODE 0) hot else s
    else s) s
  let s := (upTo 9).foldl (fun s i =>
    if s.on (THM_SRC_EN i) then
      let v := s.getS (THM_SRCSTAT_VALUE i)
      (s.judgeAlarm false i v).judgeAlarm true i v
    else s) s
  let s := (upTo 4).foldl (fun s o => s.throttleOut o) s
  s.thmEff

/-- The cross-check of R135: the ADC's temperature `t` against the dedicated converter's result for the conversion that overlaps the
sample. XDIFF, and above 6.0 degrees PLAUS, a record and a source too hot. -/
def State.crossCheck (s : State) (t : Int) (ref : Option Int) : State :=
  match ref with
  | none => s
  | some o =>
    let d := t - o
    let s := s.putS THM_DIODESTAT_XDIFF d
    if 96 < d.natAbs then
      (((s.put THM_DIODESTAT_PLAUS 1).hotNow 0).put (THM_SRCSTAT_DIODE 0) 1).log 0x4002 0 [some (encSigned 16 d)]
    else s

end Sys2Proof.Machine
end

