-- ==== Sys2Proof/Machine/Admission.lean ====
section
/-!
DEFINITION. Admission by budget (chapter 13): the judgement of phase 5, hard limits, forced and refused items, and
reservations.
-/

namespace Sys2Proof.Machine

/-- The cost of a class in mW (Table 13-2). -/
def State.cost (s : State) (cls : Nat) : Nat :=
  1000 * (if cls == 1 then s.get ADM_COST_E1 else if cls == 2 then s.get ADM_COST_E2
    else if cls == 3 then s.get ADM_COST_E3 else 0)

/-- The reserved costs that are still running (R321). -/
def State.reserved (s : State) : Nat :=
  s.adm.resv.foldl (fun n r => if s.due r.1 then n else n + r.2) 0

/-- A CRIT alarm is asserted on an enabled source (R326). -/
def State.critAsserted (s : State) : Bool :=
  (upTo 9).any fun i => s.on (THM_SRC_EN i) && s.on (almBit true i)

/-- Judges the hard conditions into ADM_HARD (R326). -/
def State.judgeHard (s : State) : State :=
  let s := (s.putB ADM_HARD_PFW s.pfwOut).putB ADM_HARD_CRIT s.critAsserted
  let s := s.putB ADM_HARD_RT (s.on SUP_BUSSTAT_RT)
  let s := s.putB ADM_HARD_SEQ (s.get PSQ_SEQSTAT_STATE != seqON)
  s.putB ADM_HARD_HS (s.get SUP_HSSTAT_STATE != hsON)

/-- Is a hard limit active? -/
def State.hard (s : State) : Bool := s.reg 0x7810 != 0

/-- The order of R323: party, forced items first, first judgement, requester index. -/
def State.itemBefore (s : State) (a b : AdmItem) : Bool :=
  let key (i : AdmItem) : List Nat :=
    [s.rank i.owner, if 63 ≤ i.wait then 0 else 1, if i.first = 0 then s.tb.ticks + 1 else i.first, i.req]
  let (ka, kb) := (key a, key b)
  let cmp := (ka.zip kb).find? fun p => p.1 != p.2
  match cmp with
  | some (x, y) => decide (x < y)
  | none => false

/-- Puts an item into an ordered list. -/
def State.itemPut (s : State) (i : AdmItem) : List AdmItem → List AdmItem
  | [] => [i]
  | j :: l => if s.itemBefore i j then i :: j :: l else j :: s.itemPut i l

/-- The pending items in the order of judgement. -/
def State.itemOrder (s : State) : List AdmItem :=
  (s.adm.items.filter fun i => i.admitted.isNone).foldl (fun l i => s.itemPut i l) []

/-- The test of Table 13-3. -/
def State.admTest (s : State) (cls : Nat) (he : Int) : Bool :=
  let c : Int := s.cost cls
  if cls == 1 then decide (c ≤ he)
  else if cls == 2 then decide (s.get THM_EFF_DUTYMAX ≤ s.get ADM_CFG_E2_DUTY) && decide (c ≤ he)
  else decide (0 < he - c) && decide (0 < s.getS THM_EFF_HEADROOM) && s.get THM_EFF_DUTYMAX == 0

/-- Replaces the item of a requester. -/
def State.setItem (s : State) (i : AdmItem) : State :=
  ({ s with adm := { s.adm with items := s.adm.items.map fun (j : AdmItem) => if j.req == i.req then i else j } }).admShow i.req

/-- Admits an item: its cost is reserved for SETTLE frames and it may start from the next tick (R321, R324).
(Log: DEDUCED 61) -/
def State.admitItem (s : State) (i : AdmItem) (forced : Bool) : State :=
  let s := { s with adm := { s.adm with resv := s.adm.resv ++ [(s.after (s.get ADM_CFG_SETTLE), s.cost i.cls)] } }
  let s := s.setItem { i with admitted := some (s.tb.ticks + 1), forced := forced, wait := 0, first := s.tb.ticks + 1 }
  if i.deferred then s.reqWait i.req false else s

/-- Defers an item: WAIT counts, and the requester shows BUDGET_WAIT (R324, R325). -/
def State.admDefer (s : State) (i : AdmItem) : State :=
  let s := s.setItem { i with
    wait := min 63 (i.wait + 1), deferred := true, first := if i.first = 0 then s.tb.ticks + 1 else i.first }
  s.reqWait i.req true

/-- Judges one item with headroom `he`; answers the headroom left and whether the item is refused. -/
def State.judgeItem (s : State) (i : AdmItem) (he : Int) : State × Int × Bool :=
  if 63 ≤ i.wait then
    if s.hard then ((s.count ADM_REFUSECNT_COUNT).admDrop i.req, he, true)
    else ((s.count ADM_FORCECNT_COUNT).admitItem i true, he - s.cost i.cls, false)
  else if s.admTest i.cls he then (s.admitItem i false, he - s.cost i.cls, false)
  else (s.admDefer i, he, false)

/-- The judgement of R323; answers the requesters whose items were refused, in order. -/
def State.judge (s : State) : State × List Nat :=
  let s := s.judgeHard
  let he : Int := (s.grantW * 1000 : Nat) - s.sup.draw - s.reserved
  let s := s.putS ADM_HEADROOM0_H_E he
  let s := s.put ADM_HEADROOM1_H_T (s.get THM_EFF_HEADROOM)
  let s := s.put ADM_HEADROOM1_D (s.get THM_EFF_DUTYMAX)
  let r := s.itemOrder.foldl (fun (a : State × Int × List Nat) i =>
    let (t, h, l) := a
    let (t, h, ref) := t.judgeItem i h
    (t, h, if ref then l ++ [i.req] else l)) (s, he, [])
  (r.1, r.2.2)

/-- An abandoned phase 5 counts as one deferral for every pending item (R43, R325). -/
def State.judgeAbandoned (s : State) : State :=
  (s.adm.items.filter fun i => i.admitted.isNone).foldl (fun s i => s.admDefer i) s

/-- RESERVATION_LAPSE (R321): the reservations whose SETTLE frames have ended are given back.
(Log: DEDUCED 61) -/
def execReservationLapse (s : State) : Res :=
  .next { s with adm := { s.adm with resv := s.adm.resv.filter fun r => !s.due r.1 } }

end Sys2Proof.Machine
end

