-- ==== Sys2Proof/Machine/Sha256.lean ====
section
/-!
DEFINITION. SHA-256 over a list of bytes (FIPS 180-4), which R438 names for the KEYID of a service key.
-/

namespace Sys2Proof.Machine

/-- The round constants, in two halves. -/
def shaK0 : List Nat := [
  0x428A2F98, 0x71374491, 0xB5C0FBCF, 0xE9B5DBA5, 0x3956C25B, 0x59F111F1, 0x923F82A4, 0xAB1C5ED5,
  0xD807AA98, 0x12835B01, 0x243185BE, 0x550C7DC3, 0x72BE5D74, 0x80DEB1FE, 0x9BDC06A7, 0xC19BF174,
  0xE49B69C1, 0xEFBE4786, 0x0FC19DC6, 0x240CA1CC, 0x2DE92C6F, 0x4A7484AA, 0x5CB0A9DC, 0x76F988DA,
  0x983E5152, 0xA831C66D, 0xB00327C8, 0xBF597FC7, 0xC6E00BF3, 0xD5A79147, 0x06CA6351, 0x14292967]

def shaK1 : List Nat := [
  0x27B70A85, 0x2E1B2138, 0x4D2C6DFC, 0x53380D13, 0x650A7354, 0x766A0ABB, 0x81C2C92E, 0x92722C85,
  0xA2BFE8A1, 0xA81A664B, 0xC24B8B70, 0xC76C51A3, 0xD192E819, 0xD6990624, 0xF40E3585, 0x106AA070,
  0x19A4C116, 0x1E376C08, 0x2748774C, 0x34B0BCB5, 0x391C0CB3, 0x4ED8AA4A, 0x5B9CCA4F, 0x682E6FF3,
  0x748F82EE, 0x78A5636F, 0x84C87814, 0x8CC70208, 0x90BEFFFA, 0xA4506CEB, 0xBEF9A3F7, 0xC67178F2]

/-- The initial hash value. -/
def shaInit : List Word :=
  [0x6A09E667#32, 0xBB67AE85#32, 0x3C6EF372#32, 0xA54FF53A#32, 0x510E527F#32, 0x9B05688C#32, 0x1F83D9AB#32, 0x5BE0CD19#32]

/-- Four bytes as a big-endian word. -/
def beWord (b : List Byte) : Word := BitVec.ofNat 32 (b.foldl (fun n x => n * 256 + x.toNat) 0)

/-- The message schedule, extended by `k` words; the latest word first. -/
def shaSched : Nat → List Word → List Word
  | 0, w => w
  | k + 1, w =>
    let a := w.getD 1 0
    let b := w.getD 14 0
    let s1 := a.rotateRight 17 ^^^ a.rotateRight 19 ^^^ (a >>> 10)
    let s0 := b.rotateRight 7 ^^^ b.rotateRight 18 ^^^ (b >>> 3)
    shaSched k ((s1 + w.getD 6 0 + s0 + w.getD 15 0) :: w)

/-- One round on the eight working words. -/
def shaRound (h : List Word) (kw : Nat × Word) : List Word :=
  let g (i : Nat) : Word := h.getD i 0
  let e := g 4
  let a := g 0
  let t1 := g 7 + (e.rotateRight 6 ^^^ e.rotateRight 11 ^^^ e.rotateRight 25) + ((e &&& g 5) ^^^ (~~~ e &&& g 6)) +
    BitVec.ofNat 32 kw.1 + kw.2
  let t2 := (a.rotateRight 2 ^^^ a.rotateRight 13 ^^^ a.rotateRight 22) + ((a &&& g 1) ^^^ (a &&& g 2) ^^^ (g 1 &&& g 2))
  [t1 + t2, a, g 1, g 2, g 3 + t1, e, g 5, g 6]

/-- One 64-byte block. -/
def shaBlock (h : List Word) (b : List Byte) : List Word :=
  let w0 := (List.range 16).map fun i => beWord ((b.drop (4 * i)).take 4)
  let w := (shaSched 48 w0.reverse).reverse
  let r := ((shaK0 ++ shaK1).zip w).foldl shaRound h
  (h.zip r).map fun p => p.1 + p.2

/-- The message with its padding. -/
def shaPad (b : List Byte) : List Byte :=
  let n := b.length
  let z := (119 - n % 64) % 64
  let len := (List.range 8).map fun i => BitVec.ofNat 8 (8 * n / 2 ^ (8 * (7 - i)))
  b ++ [0x80#8] ++ List.replicate z 0 ++ len

/-- The digest, 32 bytes. -/
def sha256 (b : List Byte) : List Byte :=
  let p := shaPad b
  let h := (List.range (p.length / 64)).foldl (fun h i => shaBlock h ((p.drop (64 * i)).take 64)) shaInit
  (h.map fun w => (List.range 4).map fun i => BitVec.ofNat 8 (w.toNat / 2 ^ (8 * (3 - i)))).flatten

end Sys2Proof.Machine
end

