-- ==== Sys2Proof/Machine/Ecdsa.lean ====
section
/-!
DEFINITION. The verification of ECDSA signatures over P-256 and P-384 (FIPS 186-4), by which R151 and R162 judge images and the
service card's answer.
-/

namespace Sys2Proof.Machine

/-- A short Weierstrass curve `y ^ 2 = x ^ 3 - 3 x + b` over the integers modulo `p`, with a base point of prime order `n`; `bytes` is
the length of a coordinate. -/
structure Curve where
  p : Nat
  n : Nat
  b : Nat
  gx : Nat
  gy : Nat
  bytes : Nat

/-- NIST P-256. -/
def p256 : Curve where
  p := 0xFFFFFFFF00000001000000000000000000000000FFFFFFFFFFFFFFFFFFFFFFFF
  n := 0xFFFFFFFF00000000FFFFFFFFFFFFFFFFBCE6FAADA7179E84F3B9CAC2FC632551
  b := 0x5AC635D8AA3A93E7B3EBBD55769886BC651D06B0CC53B0F63BCE3C3E27D2604B
  gx := 0x6B17D1F2E12C4247F8BCE6E563A440F277037D812DEB33A0F4A13945D898C296
  gy := 0x4FE342E2FE1A7F9B8EE7EB4A7C0F9E162BCE33576B315ECECBB6406837BF51F5
  bytes := 32

/-- NIST P-384. -/
def p384 : Curve where
  p := 0xFFFFFFFFFFFFFFFFFFFFFFFFFFFFFFFFFFFFFFFFFFFFFFFFFFFFFFFFFFFFFFFEFFFFFFFF0000000000000000FFFFFFFF
  n := 0xFFFFFFFFFFFFFFFFFFFFFFFFFFFFFFFFFFFFFFFFFFFFFFFFC7634D81F4372DDF581A0DB248B0A77AECEC196ACCC52973
  b := 0xB3312FA7E23EE7E4988E056BE3F82D19181D9C6EFE8141120314088F5013875AC656398D8A2ED19D2A85C8EDD3EC2AEF
  gx := 0xAA87CA22BE8B05378EB1C71EF320AD746E1D3B628BA79B9859F741E082542A385502F25DBF55296C3A545E3872760AB7
  gy := 0x3617DE4A96262C6F5D9E98BF9292DC29F8F41DBD289A147CE9DA3113B5F0B8C00A60B1CE1D7E819D7A431D7C90EA0E5F
  bytes := 48

/-- `x ^ e * acc` modulo `m`, over the `k` lowest bits of `e`. -/
def powMod (m : Nat) : Nat → Nat → Nat → Nat → Nat
  | 0, _, _, acc => acc
  | k + 1, x, e, acc => powMod m k (x * x % m) (e / 2) (if e % 2 = 1 then acc * x % m else acc)

/-- The inverse of `x` modulo a prime `m` of at most 384 bits. -/
def invMod (m x : Nat) : Nat := powMod m 384 (x % m) (m - 2) 1

/-- A difference modulo `m`. -/
def subMod (m a b : Nat) : Nat := (a + (m - b % m)) % m

/-- A point of the curve: none is the point at infinity. -/
abbrev Pt := Option (Nat × Nat)

/-- Is a pair of coordinates a point of the curve? -/
def Curve.has (c : Curve) (q : Nat × Nat) : Bool :=
  decide (q.1 < c.p) && decide (q.2 < c.p) && q.2 * q.2 % c.p == (subMod c.p (q.1 * q.1 * q.1) (3 * q.1) + c.b) % c.p

/-- The third point of a line with slope `l`, reflected. -/
def Curve.chord (c : Curve) (l : Nat) (a b : Nat × Nat) : Pt :=
  let x := subMod c.p (l * l) (a.1 + b.1)
  some (x, subMod c.p (l * subMod c.p a.1 x) a.2)

/-- The sum of two points. -/
def Curve.add (c : Curve) : Pt → Pt → Pt
  | none, q => q
  | q, none => q
  | some a, some b =>
    if a.1 != b.1 then c.chord (subMod c.p b.2 a.2 * invMod c.p (subMod c.p b.1 a.1) % c.p) a b
    else if (a.2 + b.2) % c.p == 0 then none
    else c.chord ((3 * a.1 * a.1 + (c.p - 3)) * invMod c.p (2 * a.2) % c.p) a b

/-- `acc + e q`, over the `k` lowest bits of `e`. -/
def Curve.mulAdd (c : Curve) : Nat → Nat → Pt → Pt → Pt
  | 0, _, _, acc => acc
  | k + 1, e, q, acc =>
    if e = 0 then acc
    else c.mulAdd k (e / 2) (if e / 2 = 0 then q else c.add q q) (if e % 2 = 1 then c.add acc q else acc)

/-- Does the signature `sig`, r then s, verify over the number `e` of a digest, with the public key `key`, X then Y, all big-endian? -/
def Curve.verify (c : Curve) (key : List Byte) (e : Nat) (sig : List Byte) : Bool :=
  let q := (beNat (key.take c.bytes), beNat ((key.drop c.bytes).take c.bytes))
  let r := beNat (sig.take c.bytes)
  let s := beNat ((sig.drop c.bytes).take c.bytes)
  let w := invMod c.n s
  key.length == 2 * c.bytes && sig.length == 2 * c.bytes && decide (0 < r) && decide (r < c.n) && decide (0 < s) &&
    decide (s < c.n) && c.has q &&
    match c.mulAdd 384 (r * w % c.n) (some q) (c.mulAdd 384 (e * w % c.n) (some (c.gx, c.gy)) none) with
    | some (x, _) => x % c.n == r
    | none => false

end Sys2Proof.Machine
end

