-- ==== Sys2Proof/Machine/Store.lean ====
section
/-!
DEFINITION. Records and the MRAM store (chapter 07): record bytes, rings and pads, the NV image, read-back, and the
commands that write and read records.
-/

namespace Sys2Proof.Machine

/-! ## Record bytes -/

/-- The 16-byte header of Table 7-3. -/
def recHeader (ty origin len seq ts : Nat) : List Byte :=
  leBytes 1 ty ++ leBytes 1 origin ++ leBytes 2 len ++ leBytes 4 seq ++ leBytes 8 ts

/-- MARK of Table 7-4. -/
abbrev recMark : Nat := 0x54434D43

/-- Closes a record: its body followed by the commit word, or by zeros where step 4 of R178 was not reached. -/
def recClose (body : List Byte) (committed : Bool) : List Byte :=
  if committed then body ++ leBytes 4 (crc32 body) ++ leBytes 4 recMark else body ++ zeros 8

/-- KIND codes of Table 7-6. -/
def JKind.code : JKind → Nat
  | .commit => 1
  | .revert => 2
  | .authOpen => 3
  | .authClose => 4
  | .rollbackRaise => 5
  | .init => 6

/-- One journal item (Table 7-6): OFFSET is the register's offset shifted right by 2. -/
def jItemBytes (i : JItem) : List Byte :=
  leBytes 2 (i.off / 4) ++ zeros 2 ++ leBytes 4 i.mask.toNat ++ leBytes 4 i.old.toNat ++ leBytes 4 i.new.toNat

/-- The bytes of a journal entry with SEQ `seq` (R177, R182), before the commit word. -/
def jEntryBody (e : JEntry) (seq : Nat) : List Byte :=
  recHeader 1 e.origin (32 + 16 * e.items.length) seq e.ts ++
    leBytes 1 e.kind.code ++ leBytes 1 (b2n e.prot + 2 * b2n e.viStage) ++ leBytes 2 e.items.length ++
    leBytes 4 e.cause ++ (e.items.map jItemBytes).flatten

/-- The bytes of an event record with SEQ `seq` (Table 7-8), before the commit word. -/
def evBody (e : Ev) (seq : Nat) : List Byte :=
  recHeader 2 e.origin 64 seq e.ts ++ leBytes 2 e.code ++ leBytes 2 e.subject ++ leBytes 4 e.a0 ++
    leBytes 4 e.a1 ++ leBytes 4 e.a2 ++ leBytes 8 e.a3 ++ leBytes 8 e.a4 ++ zeros 8

/-! ## Rings -/

/-- Ring sizes of Table 7-2. -/
def streamSize : StreamId → Nat
  | .journal => 131072
  | .log => 65536
  | .snaps => 16384

/-- A stream of the store. -/
def Store.stream (t : Store) : StreamId → Stream
  | .journal => t.journal
  | .log => t.log
  | .snaps => t.snaps

/-- Writes back a stream of the store. -/
def Store.setStream (t : Store) (i : StreamId) (x : Stream) : Store :=
  match i with
  | .journal => { t with journal := x }
  | .log => { t with log := x }
  | .snaps => { t with snaps := x }

/-- Offset of a stream's ring in MRAM (Table 7-2). -/
def streamBase : StreamId → Nat
  | .journal => 0x8000
  | .log => 0x28000
  | .snaps => 0x38000

/-- Does a record overlap the bytes from `lo` up to `hi` of its ring? -/
def Rec.overlaps (r : Rec) (lo hi : Nat) : Bool := decide (r.pos < hi) && decide (lo < r.pos + r.len)

/-- Does a word from offset `lo` up to `hi` of MRAM have an uncorrectable error (R176)? -/
def Store.eccIn (t : Store) (lo hi : Nat) : Bool := t.ecc.any fun w => decide (lo / 8 ≤ w) && decide (8 * w < hi)

/-- `n` bytes of the rings from offset `a`.
(Log: DESIGN CHOICE 167) -/
def Store.bytes (t : Store) (a n : Nat) : List Byte :=
  (upTo n).map fun i =>
    if t.ecc.contains ((a + i) / 8) then Config.eccByte (a + i) else cellGet (fun _ => 0) t.mem (a + i)

/-- Puts bytes at MRAM offset `a`. -/
def putBytes (m : List (Nat × Byte)) (a : Nat) : List Byte → List (Nat × Byte)
  | [] => m
  | b :: l => putBytes (cellSet (fun _ => 0) m a b) (a + 1) l

/-- A word written whole is good again (R176): no error is left from offset `a` on, for `n` bytes. -/
def Store.mend (t : Store) (a n : Nat) : Store :=
  { t with ecc := t.ecc.filter fun w => !(decide (a / 8 ≤ w) && decide (8 * w < a + n)) }

/-- Writes whole words to the rings (R176). -/
def State.mramPut (s : State) (a : Nat) (l : List Byte) : State :=
  { s with st := { (s.st.mend a l.length) with mem := putBytes s.st.mem a l } }

/-- The state of a record that is read back (R179): without MARK it is ABANDONED, as R178 says of a position left behind; with an
uncorrectable word its header is UNREADABLE, and its body does not match its CRC.
(Log: DEDUCED 169) -/
def Store.recSt (t : Store) (i : StreamId) (r : Rec) : RecSt :=
  let a := streamBase i + r.pos
  let e := a + r.len
  if t.eccIn (e - 8) e || leNat (t.bytes (e - 4) 4) != recMark then .abandoned
  else if t.eccIn a (a + 16) then .unreadable
  else if t.eccIn (a + 16) e || leNat (t.bytes (e - 8) 4) != crc32 (t.bytes a (r.len - 8)) then .corrupt
  else .valid

/-- The bytes of a record. -/
def Store.recBytes (t : Store) (i : StreamId) (r : Rec) : List Byte := t.bytes (streamBase i + r.pos) r.len

/-- The records of a stream that are VALID. -/
def Store.validRecs (t : Store) (i : StreamId) : List Rec := (t.stream i).recs.filter fun r => t.recSt i r = .valid

/-- JNL_FIRST and JNL_LAST follow a stream (R188, R437). -/
def State.jnlBounds (s : State) (i : StreamId) : State :=
  let n := match i with | .journal => 0 | .log => 1 | .snaps => 2
  let t := s.st.stream i
  let s := s.put (JNL_FIRST_SEQ n) (match t.recs.head? with | some r => r.seq | none => 0)
  s.put (JNL_LAST_SEQ n) (match t.recs.getLast? with | some r => r.seq | none => 0xFFFFFFFF)

/-- The pad that fills a ring to its end (R180): a pad record, or a short pad.
(Log: DEDUCED 170) -/
def padBytes (n ts : Nat) : List Byte :=
  if 24 ≤ n then recClose (recHeader 0x7F 0x20 n 0 ts ++ zeros (n - 24)) true
  else (List.replicate (n / 8) (0x7F :: zeros 7)).flatten

/-- Makes room for a record of `len` bytes (R180): one that does not fit before the end of its ring is preceded by a pad, and
starts at the beginning of the ring. -/
def State.padRing (s : State) (i : StreamId) (len : Nat) : State :=
  let t := s.st.stream i
  let n := streamSize i - t.wr
  if n < len then
    let s := s.touch
    let s := s.mramPut (streamBase i + t.wr) (padBytes n s.now)
    { s with st := s.st.setStream i { t with recs := t.recs.filter fun r => !r.overlaps t.wr (streamSize i), wr := 0 } }
  else s

/-- Claims the next position of a stream for a record of `len` bytes: it takes the next SEQ, and the oldest records there are
overwritten (R180). -/
def State.claimRec (s : State) (i : StreamId) (len : Nat) : State :=
  let t := s.st.stream i
  let e := t.wr + len
  let keep := t.recs.filter fun r => !r.overlaps t.wr e
  { s with st := s.st.setStream i ⟨keep ++ [⟨t.next.toNat, t.wr, len⟩], t.next + 1, if e = streamSize i then 0 else e⟩ }

/-- How the write of a record ends: with its commit word, with an uncorrectable word in the read-back, or stopped after so many
words of header and body (R127, R178). -/
inductive WriteEnd where
  | done
  | bad (word : Nat)
  | cut (words : Nat)

/-- The four steps of R178 at MRAM offset `a`.
(Log: DESIGN CHOICE 52) -/
def State.recSteps (s : State) (a : Nat) (body : List Byte) (e : WriteEnd) : State :=
  let n := body.length
  let s := s.mramPut (a + n) (zeros 8)
  match e with
  | .done => (s.mramPut a body).mramPut (a + n) (leBytes 4 (crc32 body) ++ leBytes 4 recMark)
  | .bad w =>
    let s := s.mramPut a body
    { s with st := { s.st with ecc := s.st.ecc ++ [a / 8 + w % (n / 8)] } }
  | .cut k => s.mramPut a (body.take (8 * k))

/-- Writes a record to a stream and answers its SEQ and whether the write position passed the start of the ring (R178, R180). -/
def State.writeRec (s : State) (i : StreamId) (len : Nat) (e : WriteEnd) (body : Nat → List Byte) : State × Nat × Bool :=
  let pad := decide (streamSize i - (s.st.stream i).wr < len)
  let s := s.padRing i len
  let t := s.st.stream i
  let seq := t.next.toNat
  let u := ((s.claimRec i len).recSteps (streamBase i + t.wr) (body seq) e).jnlBounds i
  (u, seq, pad || t.wr + len == streamSize i)

/-! ## The NV image -/

/-- Is a field Held-to NV and set by commits or writes, not one of the store's own counters? -/
def RField.inImage (f : RField) : Bool := f.held == .nv && f.acc != .ro

/-- Is a field kept in the NV image (R186): as `inImage`, or one of SNT_SVCKEY, which KEY_SET and KEY_REVOKE journal (R161)? -/
def RField.inImageAt (off : Nat) (f : RField) : Bool :=
  f.inImage || (f.held == .nv && decide (0x3830 ≤ off) && decide (off < 0x3840))

/-- The word `w` of register `off` with every field that `p` does not keep at its Reset value. -/
def keepFields (p : RField → Bool) (off : Nat) (w : Word) : Word :=
  (fieldsAt off).foldl (fun x f => if p f then x else withField x f.lo f.w f.rst) w

/-- The registers of the file with only the fields `p` keeps; registers left at their Reset value are not listed. -/
def keepRegs (p : Nat → RField → Bool) (l : List (Nat × Word)) : List (Nat × Word) :=
  l.filterMap fun c =>
    let w := keepFields (p c.1) c.1 c.2
    if w = resetWord c.1 then none else some (c.1, w)

/-- The NV settings image of the committed state. -/
def State.nvImage (s : State) : List (Nat × Word) := keepRegs (fun off f => f.inImageAt off) s.regs

/-- Does an item change a field of the NV image? -/
def JItem.changesNv (i : JItem) : Bool :=
  (fieldsAt i.off).any fun f => f.inImageAt i.off && fieldOf i.old f.lo f.w != fieldOf i.new f.lo f.w

/-- Where the NV copies A and B lie, and their size (Table 7-2). -/
abbrev nvBaseA : Nat := 0x2000
abbrev nvBaseB : Nat := 0x5000
abbrev nvSize : Nat := 0x3000

/-- Writes the NV image into the copy not last used, tagged with the entry's SEQ (R186). -/
def State.nvWrite (s : State) (seq : Nat) : State :=
  let c : NvCopy := ⟨seq, s.nvImage⟩
  if s.st.lastB then { s with st := { (s.st.mend nvBaseA nvSize) with nvA := c, lastB := false } }
  else { s with st := { (s.st.mend nvBaseB nvSize) with nvB := c, lastB := true } }

/-! ## RECORD_WRITE -/

/-- May Sentinel write records now: it runs, the frame has a housekeeping slot (R40), and no MRAM test runs (R418)? -/
def State.canWrite (s : State) : Bool := s.sentinelRuns && s.slot && s.snt.bistEnd.isNone

/-- The buffer has room again after losses: the EVENT_DROP record (R184).
(Log: DEDUCED 81) -/
def State.evDropRecord (s : State) : State :=
  let n := s.get JNL_EVDROP_COUNT
  if n != 0 && s.st.evq.length < 16 then
    (s.log 0x6003 0 [some n, none, none, some s.st.lostTs]).put JNL_EVDROP_COUNT 0
  else s

/-- Reports the outcome of the commit that an entry records: its SEQ is that of the VALID copy (R172, R178, R436).
(Log: DEDUCED 69) -/
def State.commitDone (s : State) (c : CommitFrom) (seq : Nat) : State :=
  match c with
  | .cmd t => s.done (BitVec.ofNat 16 t) seq 0
  | _ => s

/-- Does the write of a record end with its commit word? -/
def WriteEnd.isDone : WriteEnd → Bool
  | .done => true
  | _ => false

/-- How a write ends whose read-back finds an uncorrectable word, or none. -/
def readBack (bad : Option (BitVec 7)) : WriteEnd :=
  match bad with
  | some w => .bad w.toNat
  | none => .done

/-- Writes the oldest waiting journal entry (R178, R180, R182, R186).
(Log: DEDUCED 71) -/
def State.writeJournal (s : State) (we : WriteEnd) : State :=
  match s.st.jq with
  | [] => s
  | e :: l =>
    let (s, seq, wrapped) := s.writeRec .journal (32 + 16 * e.items.length) we (jEntryBody e)
    let s := if wrapped then s.log 0x6001 0 [] else s
    if we.isDone then
      let s := { s with st := { s.st with jq := l } }
      let s := if e.items.any (·.changesNv) then s.nvWrite seq else s
      let s := if e.kind = .commit && !e.viStage && e.fromC != .change then s.put CHR_CMTSEQ_SEQ seq else s
      s.commitDone e.fromC seq
    else s

/-- Writes the oldest buffered event record and posts it to the Event ring where that is due (R178, R184, R235). -/
def State.writeLog (s : State) (we : WriteEnd) : State :=
  match s.st.evq with
  | [] => s
  | e :: l =>
    let (s, seq, _) := s.writeRec .log 64 we (evBody e)
    if we.isDone then
      let s := { s with st := { s.st with evq := l } }
      (s.evRecord e seq).evDropRecord
    else s

/-- RECORD_WRITE (R178): Sentinel writes the oldest waiting record of the stream; an uncorrectable word in the read-back leaves
the position without a commit word, and the record is written again with the next SEQ.
(Log: DEDUCED 69) -/
def execRecordWrite (stream : StreamId) (bad : Option (BitVec 7)) (s : State) : Res :=
  .next <|
    if s.canWrite then
      match stream with
      | .journal => s.writeJournal (readBack bad)
      | .log => s.writeLog (readBack bad)
      | .snaps => s
    else s

/-! ## Snapshots -/

/-- Little-endian bytes of a signed value. -/
def leSigned (k : Nat) (v : Int) : List Byte := leBytes k (encSigned (8 * k) v)

/-- The snapshot's bytes 0x10 to 0x3F7 (Table 7-10, R129).
(Log: DEDUCED 56) -/
def State.snapBody (s : State) (cause subject : Nat) : List Byte :=
  let w (off : Nat) := leBytes 4 (s.reg off).toNat
  let head := leBytes 2 cause ++ leBytes 2 subject ++ leBytes 4 s.sup.staleVs ++ leBytes 4 s.sup.staleOther ++ zeros 4
  let rails := ((upTo 24).map fun n => leBytes 2 (s.get (SUP_RAILSTAT_READING n))).flatten
  let isv := ((upTo 8).map fun n => leBytes 2 (s.sup.isMa.getD n 0)).flatten
  let bus := leBytes 4 s.sup.busVs ++ leBytes 4 s.sup.bulkVs ++ leSigned 4 s.sup.shunt ++ leBytes 4 s.sup.cocVs
  let rot := leBytes 2 s.sup.rotItem ++ leBytes 2 s.sup.rotVal ++ zeros 4
  let mm := leBytes 4 s.sup.busMin ++ leBytes 4 s.sup.busMax ++ leBytes 4 s.sup.bulkMin ++ leBytes 4 s.sup.bulkMax
  let ledger := ((upTo 10).map fun k => w (0x6040 + 4 * k)).flatten
  let per := ((upTo 24).map fun n =>
    leBytes 1 (s.railSt n) ++ leBytes 1 ((s.reg (0x4300 + 4 * n)).toNat / 16 % 256) ++
      leBytes 2 ((s.reg (0x6300 + 4 * n)).toNat % 65536)).flatten
  let seq := leBytes 1 (s.get PSQ_SEQSTAT_STATE) ++ leBytes 1 (s.get PSQ_SEQSTAT_RETRY) ++
    leBytes 1 (s.get PSQ_SEQSTAT_CAUSE) ++ leBytes 1 (s.get PSQ_SWSTAT_STATE) ++
    leBytes 2 ((s.reg 0x4020).toNat / 256 % 64) ++ leBytes 1 (s.get SUP_HSSTAT_STATE) ++
    leBytes 1 (s.get SUP_HSSTAT_CAUSE)
  let src := ((upTo 9).map fun i => leBytes 2 (s.get (THM_SRCSTAT_VALUE i))).flatten ++ zeros 2
  let duty := ((upTo 4).map fun o => leBytes 2 (s.get (THM_THRSTAT_DUTY o))).flatten
  let flags := ((upTo 9).map fun i => leBytes 1 ((s.reg (0x70C0 + 4 * i)).toNat / 65536)).flatten
  head ++ rails ++ isv ++ bus ++ rot ++ mm ++ ledger ++ per ++ seq ++ src ++ duty ++ flags ++ zeros 699

/-- The capture buffer takes the readings of the frame (R128, R129). -/
def State.snapCapture (s : State) (cause subject : Nat) (tag : Option Nat) : State :=
  { s with st := { s.st with snap := some ⟨cause, subject, s.tickTs, s.snapBody cause subject, tag⟩ } }

/-- Writes the capture buffer to the next slot (R128, R185). -/
def State.writeSnap (s : State) (we : WriteEnd) : State :=
  match s.st.snap with
  | none => s
  | some sn =>
    let (s, seq, _) := s.writeRec .snaps 1024 we fun q => recHeader 3 0x20 1024 q sn.ts ++ sn.bytes
    if we.isDone then
      let s := { s with st := { s.st with snap := none } }
      match sn.tag with
      | some t => s.done (BitVec.ofNat 16 t) seq 0
      | none => s
    else s

/-- SNAPSHOT_WRITE (R128): the capture buffer is written; a failed read-back writes it again. -/
def execSnapshotWrite (bad : Option (BitVec 7)) (s : State) : Res :=
  .next <| if s.canWrite then s.writeSnap (readBack bad) else s

/-! ## Reading back -/

/-- STATE codes of JNL_RDSTAT. -/
def RecSt.code : RecSt → Nat
  | .valid => 0
  | .abandoned => 1
  | .corrupt => 2
  | .unreadable => 3

/-- Is SEQ `a` older than SEQ `b`, modulo 2^32? -/
def seqOlder (a b : Nat) : Bool :=
  let d := (b + 2 ^ 32 - a) % 2 ^ 32
  d != 0 && decide (d < 2 ^ 31)

/-- What a read of SEQ `seq` reports (R179, R188): its state code, LEN and bytes.
(Log: DESIGN CHOICE 68) -/
def Store.read (t : Store) (i : StreamId) (seq : Nat) : Nat × Nat × List Byte :=
  let x := t.stream i
  match x.recs.find? (fun r => r.seq == seq) with
  | some r => ((t.recSt i r).code, r.len, t.recBytes i r)
  | none =>
    if seq == x.next.toNat then (1, 0, [])
    else
      match x.recs.head? with
      | some r => if seqOlder seq r.seq then (4, 0, []) else (Config.jnlMissing.toNat, 0, [])
      | none => (Config.jnlMissing.toNat, 0, [])

/-- The stream a STREAM code names. -/
def streamOf (n : Nat) : StreamId := if n == 0 then .journal else if n == 1 then .log else .snaps

/-- Loads the selected window into JNL_RDSTAT and JNL_RDDATA (R188, R437). -/
def State.jnlLoad (s : State) : State :=
  let (st, len, bytes) := s.st.read (streamOf (s.get JNL_RDSEL1_STREAM)) (s.get JNL_RDSEL0_SEQ)
  let o := 64 * s.get JNL_RDOFS_WINDOW
  let s := ((s.put JNL_RDSTAT_STATE st).put JNL_RDSTAT_BUSY 0).put JNL_RDSTAT_LEN len
  (upTo 16).foldl (fun s k => s.put (JNL_RDDATA_BYTES k) (leAt bytes (o + 4 * k) 4)) s

/-- JNL_READ_SELECT (R437): a write to JNL_RDSEL[0], or to JNL_RDOFS with a window in its range, loads the window.
(Log: DESIGN CHOICE 68) -/
def execJnlReadSelect (ofs : Bool) (v : Word) (s : State) : Res :=
  .next <|
    if ofs then
      (if v.toNat % 128 ≤ 64 then s.put JNL_RDOFS_WINDOW v.toNat else s).jnlLoad
    else (s.put JNL_RDSEL0_SEQ v.toNat).jnlLoad

end Sys2Proof.Machine
end

