-- ==== Sys2Proof/Machine/Auth.lean ====
section
/-!
DEFINITION. The service authorisation (chapter 06): opening, failing, closing, the lock-out, and the nonce.
-/

namespace Sys2Proof.Machine

/-- AUTHSTAT shows the frame of tick `t` as the closing or lock-out frame. -/
def State.authShowEnd (s : State) (t : Nat) : State := s.put SNT_AUTHSTAT1_END (s.frameAt t % 2 ^ 32)

/-- A journal entry of the authorisation, with origin Service Card (R163, Table 7-7). -/
def State.authJournal (s : State) (kind : JKind) (cause : Nat) : State :=
  let s := s.touch
  s.journal ⟨Origin.card.code, kind, false, false, cause, [], s.now, .none⟩

/-- Ends the running attempt: each nonce serves one attempt only (R162). -/
def State.attemptEnd (s : State) : State := { s with snt := { s.snt with nonce := none, sig := none } }

/-- A failed signature (R164): the record, the count, and the third consecutive failure's lock-out. -/
def State.authFail (s : State) : State :=
  match s.snt.nonce with
  | none => s
  | some (_, k, _, t) =>
    let n := s.get SNT_AUTHSTAT0_FAILS + 1
    let s := (s.attemptEnd.put SNT_AUTHSTAT0_FAILS (min 3 n)).log 0x5006 k []
    let s :=
      if 3 ≤ n then
        let e := s.after 4800000
        let s := { s.put SNT_AUTHSTAT0_LOCKED 1 with snt := { s.snt with lockEnd := e } }
        (s.authShowEnd e).log 0x5007 k [some (s.frameAt e % 2 ^ 32)]
      else s
    s.complete t 0x34 0 0

/-- Opens the authorisation for the key of the running attempt (R162, R163). -/
def State.authOpen (s : State) : State :=
  match s.snt.nonce with
  | none => s
  | some (_, k, _, t) =>
    let e := s.after (s.get SNT_AUTHCFG_WINDOW * 480000)
    let s := (((s.attemptEnd.put SNT_AUTHSTAT0_OPEN 1).put SNT_AUTHSTAT0_KEY k).put SNT_AUTHSTAT0_CLOSE 0).put SNT_AUTHSTAT0_FAILS 0
    let s := { s.put GLB_STATUS_AUTH_OPEN 1 with snt := { s.snt with authEnd := e } }
    let s := (s.authShowEnd e).authJournal .authOpen k
    s.done t (s.get SNT_AUTHSTAT1_END) 0

/-- Closes an open authorisation with a cause of Table 7-7 (R163).
(Log: DEDUCED 98) -/
def State.authClose (s : State) (cause : Nat) : State :=
  if s.on SNT_AUTHSTAT0_OPEN then
    let s := ((s.put SNT_AUTHSTAT0_OPEN 0).put SNT_AUTHSTAT0_CLOSE cause).put GLB_STATUS_AUTH_OPEN 0
    let s := { s with snt := { s.snt with authEnd := s.tb.ticks } }
    let s := if s.on SNT_AUTHSTAT0_LOCKED then s else s.authShowEnd s.tb.ticks
    s.authJournal .authClose (s.get SNT_AUTHSTAT0_KEY + 256 * cause)
  else s

/-- The digest that the service card signs: SHA-256 of the nonce and the 16-byte serial (R162). -/
def State.authDigest (s : State) (n : Nat) : Nat :=
  let serial := ((upTo 4).map fun k => leBytes 4 (s.reg (0x10 + 4 * k)).toNat).flatten
  beNat (sha256 (leBytes 32 (Config.nonce n).toNat ++ serial))

/-- The running attempt ends without counting as a failed signature (R162, R164). -/
def State.authDrop (s : State) (status : Nat) : State :=
  match s.snt.nonce with
  | some (_, _, _, t) => s.attemptEnd.complete t status 0 0
  | none => s

/-- AUTH_VERIFY (R161, R162, R164): the card's signature has returned and Sentinel verifies it under ECDSA P-256 with the key, which
must be VALID, over the nonce and the serial, in a housekeeping slot; a signature after the attempt's 4,000 frames is no answer to it.
(Log: DEDUCED 99; DESIGN CHOICE 100) -/
def execAuthVerify (s : State) : Res :=
  .next <|
    match s.snt.sig, s.snt.nonce with
    | some g, some (n, k, e, _) =>
      if !s.sentinelRuns || !s.slot then s
      else if !s.on (SNT_SVCKEY_VALID k) then s.authDrop 0x30
      else if s.due e then s.authDrop 0x34
      else if p256.verify (s.snt.keys.getD k []) (s.authDigest n) g then s.authOpen
      else s.authFail
    | _, _ => s

/-- AUTH_ATTEMPT_TIMEOUT (R162): 4,000 frames from the nonce with no signature: the attempt fails, and no failed signature counts. -/
def execAuthAttemptTimeout (s : State) : Res :=
  .next <|
    match s.snt.nonce with
    | some (_, _, e, _) => if s.due e && s.snt.sig.isNone then s.authDrop 0x34 else s
    | none => s

/-- AUTH_EXPIRE (R163): the window ends.
(Log: DESIGN CHOICE 3) -/
def execAuthExpire (s : State) : Res :=
  .next <| if s.on SNT_AUTHSTAT0_OPEN && s.due s.snt.authEnd then s.authClose 1 else s

/-- AUTH_LOCK_END (R164): the lock-out ends; a success alone resets the count of failures. -/
def execAuthLockEnd (s : State) : Res :=
  .next <|
    if s.on SNT_AUTHSTAT0_LOCKED && s.due s.snt.lockEnd then
      (s.put SNT_AUTHSTAT0_LOCKED 0).authShowEnd s.snt.authEnd
    else s

end Sys2Proof.Machine
end

