-- ==== Sys2Proof/Machine/Cards.lean ====
section
/-!
DEFINITION. Card ports (chapter 16): presence, activation, answer-to-reset and parameters, T=0 and T=1 exchanges and their
recovery, deactivation, sessions and the session multiplexer.
-/

namespace Sys2Proof.Machine

/-! ## State codes (Table 16-6) -/

abbrev cdABSENT : Nat := 0
abbrev cdINACTIVE : Nat := 1
abbrev cdBUDGET : Nat := 2
abbrev cdACTIVATING : Nat := 3
abbrev cdACTIVE : Nat := 4
abbrev cdSTOPPED : Nat := 5
abbrev cdDEACTIVATING : Nat := 6
abbrev cdFAULT : Nat := 7

/-- A card port with its contacts deactivated. -/
def Card.idle : Card :=
  ⟨.off, false, false, .low, false, 3, 0, [], false, false, false, false, [], [], 1, false, false, none, [], [], 0, 0, 0, [], false, none⟩

/-- Card port `p`. -/
def State.card (s : State) (p : Nat) : Card := s.crd.ports.getD p Card.idle

/-- Changes card port `p`. -/
def State.modCard (s : State) (p : Nat) (f : Card → Card) : State :=
  { s with crd := { s.crd with ports := modAt s.crd.ports p f } }

/-- Its state. -/
def State.cdSt (s : State) (p : Nat) : Nat := s.get (CRD_PSTAT_STATE p)

/-- Exchanges are possible. -/
def State.cdUp (s : State) (p : Nat) : Bool := s.cdSt p == cdACTIVE || s.cdSt p == cdSTOPPED

/-! ## Sessions -/

/-- The SESSMAP fields of port `p`: the holder byte of channel `c`, the exclusive handle, its flag and its end (R464). -/
def sessHolder (p c : Nat) : FRef := ⟨0x90A0 + 0x20 * p + 4 * (c / 4), 8 * (c % 4), 8⟩
def sessExHandle (p : Nat) : FRef := ⟨0x90B4 + 0x20 * p, 0, 16⟩
def sessExcl (p : Nat) : FRef := ⟨0x90B4 + 0x20 * p, 16, 1⟩
def sessEnd (p : Nat) : FRef := ⟨0x90B8 + 0x20 * p, 0, 32⟩

/-- The session with a handle. -/
def State.session (s : State) (h : Nat) : Option Sess := s.crd.sess.find? fun x => x.handle == h

/-- CRD_PSTAT.SESSIONS follows the sessions of the port. -/
def State.sessShow (s : State) (p : Nat) : State :=
  s.put (CRD_PSTAT_SESSIONS p) (s.crd.sess.countP fun x => x.port == p)

/-- Ends the exclusive hold of port `p` (R391). -/
def State.exclEnd (s : State) (p : Nat) : State :=
  ((s.put (sessExcl p) 0).put (sessExHandle p) 0).put (sessEnd p) 0

/-- Removes a session: its channel byte is free and its exclusive hold ends (R391, R464). -/
def State.sessDrop (s : State) (x : Sess) : State :=
  let s := { s with crd := { s.crd with sess := s.crd.sess.filter fun y => y.handle != x.handle } }
  let s := s.put (sessHolder x.port x.chan) 0xFF
  let s := if s.on (sessExcl x.port) && s.get (sessExHandle x.port) == x.handle then s.exclEnd x.port else s
  s.sessShow x.port

/-- Creates a session on a channel and answers its handle (R388). -/
def State.sessMake (s : State) (p c : Nat) (w : Who) : State × Nat :=
  let g := ((s.card p).gen + 1) % 256
  let h := p * 2 ^ 15 + c * 256 + g
  let s := s.modCard p fun x => { x with gen := g }
  let x : Sess := ⟨h, p, c, w, false⟩
  let s := { s with crd := { s.crd with sess := s.crd.sess ++ [x] } }
  ((s.put (sessHolder p c) (s.originOf w).code).sessShow p, h)

/-- The session a waiting or running exchange belongs to. -/
def ExWho.handle : ExWho → Option Nat
  | .apdu _ h => some h
  | .close (some (_, h)) _ => some h
  | _ => none

/-- The command that waits for an exchange. -/
def ExWho.tag : ExWho → Option Tag
  | .apdu t _ => some t
  | .open_ t _ => some t
  | .close (some (t, _)) _ => some t
  | _ => none

/-- The rank of an exchange in the order of R18: by its command's origin; Gorros's own exchanges are Sentinel's (R390,
R393). -/
def State.exRank (s : State) (e : ExWho) : Nat :=
  match e with
  | .auth _ => s.rank .sentinel
  | _ =>
    match e.tag with
    | some t => match s.cmd t with
      | some c => s.rank c.origin
      | none => s.rank .sentinel
    | none => s.rank .sentinel

/-- Completes the command of an exchange, if it has one. -/
def State.exComplete (s : State) (e : ExWho) (status result aux : Nat) : State :=
  match e.tag with
  | some t => s.complete t status result aux
  | none => s

/-- Ends every session of port `p`: what waits for it and has not begun completes with 0x25, as a handle whose session has
ended (R388); Sentinel's own exchange ends its attempt as a failed one. -/
def State.sessEndAll (s : State) (p : Nat) : State :=
  let l := s.crd.sess.filter fun x => x.port == p
  let s := l.foldl (fun s x => s.sessDrop x) s
  let q := (s.card p).queue
  let ex := (s.card p).exclQ
  let s := s.modCard p fun c => { c with queue := [], exclQ := [] }
  let s := q.foldl (fun s e => match e.1 with
    | .auth _ => s.authFail
    | w => s.exComplete w 0x25 0 0) s
  ex.foldl (fun s e => s.complete e.2.2 0x25 0 0) s

/-! ## Contacts -/

/-- Every contact low and VCC off (Table 16-5). -/
def State.contactsOff (s : State) (p : Nat) : State :=
  s.modCard p fun c => { c with ph := .off, vcc := false, rst := false, clk := .low, io := false, warm := false, exch := none
                                deactDue := false, restart := none }

/-- The class's supply is switched on (Table 16-3). -/
def State.classStart (s : State) (p c : Nat) : State :=
  s.modCard p fun x => { x with
    ph := .settle, vcc := true, rst := false, clk := .low, io := false, cls := c, tried := setBit x.tried c true }

/-- The next class to try: C, B, A among the allowed and not yet tried (R373). -/
def State.nextClass (s : State) (p : Nat) : Option Nat :=
  [2, 1, 0].find? fun c => bitOf (s.get (CRD_PCFG0_CLASSMASK p)) c && !bitOf (s.card p).tried c

/-- The port returns to INACTIVE after a normal deactivation; its parameters read their Reset values. -/
def State.cdInactive (s : State) (p st : Nat) : State :=
  let s := (s.contactsOff p).put (CRD_PSTAT_STATE p) st
  ((s.setReg (0x9030 + 16 * p) 3).setReg (0x9034 + 16 * p) 0).setReg (0x9038 + 16 * p) 0

/-- Starts a normal deactivation: sessions end, and the contacts are low within 50 us (R383, Table 16-5). -/
def State.cdDeactivate (s : State) (p : Nat) : State :=
  (s.sessEndAll p).cdInactive p cdDEACTIVATING

/-- The commands that wait for an activation complete. -/
def State.actDone (s : State) (p status result : Nat) : State :=
  let l := (s.card p).waits
  let forced := (s.card p).forced
  let s := s.modCard p fun c => { c with waits := [], forced := false, forAuth := false }
  l.foldl (fun s t => s.complete t (forcedStatus forced status) result 0) s

/-- An activation ends without an active card (R373, R378).
(Log: DEDUCED 149) -/
def State.actFail (s : State) (p status : Nat) : State :=
  let s := s.log 0xB005 p [some status, some (s.card p).tried]
  (s.cdInactive p cdINACTIVE).actDone p status 0

/-- A class fails with a status: the next one follows after a normal deactivation and 10 ms, or the activation ends with
the last class's status (R373). A card that was being warm-reset is deactivated instead (Table 16-4). -/
def State.classFail (s : State) (p status : Nat) : State :=
  if (s.card p).warm then s.cdDeactivate p
  else
    match s.nextClass p with
    | some _ => (s.contactsOff p).modCard p fun c => { c with ph := .gap }
    | none => s.actFail p status

/-! ## The answer to reset -/

/-- What an ATR says (R374 to R380). -/
structure Atr where
  /-- parsed whole, with TCK where one is due and right -/
  ok    : Bool
  ta1   : Option Nat
  tc1   : Option Nat
  ta2   : Option Nat
  tc2   : Option Nat
  /-- TA3, TB3 and TC3 after a TD2 that names T=1 -/
  ta3   : Option Nat
  tb3   : Option Nat
  tc3   : Option Nat
  /-- the first TA after a TD naming T=15 -/
  t15   : Option Nat
  /-- protocols offered, in order -/
  prots : List Nat
  hist  : List Byte
  deriving DecidableEq, Repr

/-- The interface bytes: for each level its TA, TB, TC and the protocol of the TD before it (none for level 1), and the rest;
none if the characters run out. -/
def atrLevels : Nat → Nat → Option Nat → List Byte → Option (List (Option Nat × Option Nat × Option Nat × Option Nat) × List Byte)
  | 0, _, _, _ => none
  | fuel + 1, y, t, b =>
    let take (i : Nat) (b : List Byte) : Option (Option Nat × List Byte) :=
      if bitOf y i then
        match b with
        | x :: l => some (some x.toNat, l)
        | [] => none
      else some (none, b)
    match take 0 b with
    | none => none
    | some (ta, b) =>
      match take 1 b with
      | none => none
      | some (tb, b) =>
        match take 2 b with
        | none => none
        | some (tc, b) =>
          match take 3 b with
          | none => none
          | some (none, b) => some ([(t, ta, tb, tc)], b)
          | some (some td, b) =>
            match atrLevels fuel (td / 16) (some (td % 16)) b with
            | none => none
            | some (l, b) => some ((t, ta, tb, tc) :: l, b)

/-- Reads an ATR (R374): TS is the first character.
(Log: PRESUMED 152) -/
def readAtr (a : List Byte) : Atr :=
  let bad : Atr := ⟨false, none, none, none, none, none, none, none, none, [], []⟩
  match a with
  | ts :: t0 :: rest =>
    match atrLevels 32 (t0.toNat / 16) none rest with
    | none => bad
    | some (l, b) =>
      let k := t0.toNat % 16
      let named := l.filterMap fun x => x.1
      let tck := named.any fun t => t != 0
      let hist := b.take k
      let after := b.drop k
      let whole := hist.length == k && (if tck then after.length == 1 else after.isEmpty)
      let xor := a.tail.foldl (fun x y => x ^^^ y) 0
      let iface := rest.length - b.length
      let prots := (named.filter fun t => t != 15).foldl (fun m t => if m.contains t then m else m ++ [t]) []
      let prots := if named.isEmpty then [0] else prots
      let lv (i : Nat) := l.getD i (none, none, none, none)
      let l3 := if (lv 2).1 = some 1 then lv 2 else (none, none, none, none)
      let t15 := (l.find? fun x => x.1 = some 15 && x.2.1.isSome).bind fun x => x.2.1
      let ok := (ts == 0x3B || ts == 0x3F) && whole && decide (iface + k ≤ 32) && (!tck || xor == 0) &&
        (prots.contains 0 || prots.contains 1)
      ⟨ok, (lv 0).2.1, (lv 0).2.2.2, (lv 1).2.1, (lv 1).2.2.2, l3.2.1, l3.2.2.1, l3.2.2.2, t15, prots, hist⟩
  | _ => bad

/-- Fi of a table index (ISO/IEC 7816-3), 0 where reserved; and its fmax in units of 100 kHz. -/
def fiOf (i : Nat) : Nat := [372, 372, 558, 744, 1116, 1488, 1860, 0, 0, 512, 768, 1024, 1536, 2048, 0, 0].getD i 0
def fmaxOf (i : Nat) : Nat := [40, 50, 60, 80, 120, 160, 200, 0, 0, 50, 75, 100, 150, 200, 0, 0].getD i 0

/-- Di of a table index, 0 where reserved. -/
def diOf (i : Nat) : Nat := [0, 1, 2, 4, 8, 16, 32, 64, 12, 20, 0, 0, 0, 0, 0, 0].getD i 0

/-- Is a pair of indices supported (R377)? -/
def pairOk (f d : Nat) : Bool := decide (0 < fiOf f) && decide (0 < diOf d) && decide (16 * diOf d ≤ fiOf f)

/-- The default pair: Fi 372, Di 1. -/
abbrev pairDefault : Nat × Nat := (1, 1)

/-- The proposed pair of a negotiable ATR (R376): TA1's Fi with the largest Di not above TA1's that is supported. -/
def pairProposed (a : Atr) : Nat × Nat :=
  match a.ta1 with
  | none => pairDefault
  | some x =>
    let f := x / 16
    let lim := diOf (x % 16)
    let best := (upTo 16).foldl (fun b d =>
      if decide (diOf d ≤ lim) && pairOk f d && decide (diOf b < diOf d) then d else b) 0
    if best = 0 then pairDefault else (f, best)

/-- The protocol a negotiable ATR is used with: PROTO if offered, else the first offered (R376). -/
def State.protoChosen (s : State) (p : Nat) (a : Atr) : Nat :=
  let want := s.get (CRD_PCFG0_PROTO p)
  if a.prots.contains want then want else a.prots.headD 0

/-- The first compact-TLV object of a tag byte among historical bytes after the category indicator (R388). -/
def tlvFind (tag : Nat) : Nat → List Byte → Option (List Byte)
  | 0, _ => none
  | fuel + 1, b =>
    match b with
    | [] => none
    | x :: l => if x.toNat == tag then some (l.take (tag % 16)) else tlvFind tag fuel (l.drop (x.toNat % 16))

/-- The logical channels a card offers, channel 0 included (R388); the range supported ends at channel 19. -/
def atrChans (hist : List Byte) : Nat :=
  match hist with
  | c :: l =>
    if c == 0 || c == 0x80 then
      match tlvFind 0x73 16 l with
      | some v =>
        if v.length == 3 then
          let y := (v.getD 2 0).toNat % 8
          if y == 7 then 20 else y + 1
        else 1
      | none => 1
    else 1
  | [] => 1

/-! ## Becoming active -/

/-- Sends bytes on a card port's I/O. -/
def State.cdSend (s : State) (p : Nat) (b : List Byte) : State := s.emit (.card p b)

/-- The longitudinal check byte. -/
def lrcOf (b : List Byte) : Byte := b.foldl (fun x y => x ^^^ y) 0

/-- Eight bits of the 16-bit CRC of ISO/IEC 13239, reflected.
(Log: PRESUMED 151) -/
def crc16Bit : Nat → Nat → Nat
  | 0, c => c
  | k + 1, c => crc16Bit k (if c % 2 = 1 then (c / 2) ^^^ 0x8408 else c / 2)

/-- The block CRC of T=1, most significant byte first.
(Log: PRESUMED 151) -/
def crc16Of (b : List Byte) : List Byte :=
  let c := (b.foldl (fun c x => crc16Bit 8 (c ^^^ x.toNat)) 0xFFFF) ^^^ 0xFFFF
  [BitVec.ofNat 8 (c / 256), BitVec.ofNat 8 c]

/-- Does the card's TC3 ask for the CRC (R380)? -/
def State.useCrc (s : State) (p : Nat) : Bool :=
  match (readAtr (s.card p).atr).tc3 with
  | some x => bitOf x 0
  | none => false

/-- The check bytes of a block. -/
def State.edcOf (s : State) (p : Nat) (b : List Byte) : List Byte := if s.useCrc p then crc16Of b else [lrcOf b]

/-- A T=1 block: NAD 0x00, PCB, LEN and the information field, with its EDC (R380). -/
def State.t1Block (s : State) (p pcb : Nat) (inf : List Byte) : List Byte :=
  let b := [0, BitVec.ofNat 8 pcb, BitVec.ofNat 8 inf.length] ++ inf
  b ++ s.edcOf p b

/-- The clock in force, in kHz. -/
def clockKhz (div : Nat) : Nat := divU 500000 div

/-- The port is ACTIVE: the record, and the commands that wait complete with the ATR's length (R375, Table 16-7). -/
def State.cdActive (s : State) (p : Nat) : State :=
  let s := s.modCard p fun c => { c with ph := .run, warm := false, idleTick := s.tb.ticks }
  let s := s.put (CRD_PSTAT_STATE p) cdACTIVE
  let ta1 := s.get (CRD_PARAM0_FI p) * 16 + s.get (CRD_PARAM0_DI p)
  let s := s.log 0xB004 p [some (s.get (CRD_PARAM0_CLASS p) + 16 * s.get (CRD_PARAM0_PROTO p) + 256 * ta1),
    some (clockKhz (s.get (CRD_PARAM1_DIV p)))]
  let auth := (s.card p).forAuth
  let s := s.actDone p 0 (s.get (CRD_PSTAT_ATRLEN p))
  if auth then s.modCard p fun c => { c with queue := c.queue ++ [(.auth false, [])] } else s

/-- The parameters take effect and CRD_PARAM shows them (R377 to R380); with T=1 the IFS request follows. -/
def State.paramsApply (s : State) (p proto : Nat) (pair : Nat × Nat) : State :=
  let a := readAtr (s.card p).atr
  let div := max (s.get (CRD_PCFG1_DIV_MIN p)) ((5000 + fmaxOf pair.1 - 1) / fmaxOf pair.1)
  let s := (s.put (CRD_PARAM0_CLASS p) (s.card p).cls).put (CRD_PARAM0_PROTO p) proto
  let s := (s.put (CRD_PARAM0_FI p) pair.1).put (CRD_PARAM0_DI p) pair.2
  let s := s.put (CRD_PARAM1_DIV p) div
  let s := s.modCard p fun c => { c with chans := atrChans a.hist, ns := false, nr := false }
  if proto = 1 then
    let tb := a.tb3.getD 0x4D
    let d := diOf pair.2
    let s := s.put (CRD_PARAM0_IFSC p) (a.ta3.getD 32)
    let s := s.put (CRD_PARAM1_CWT p) (11 + 2 ^ (tb % 16))
    let s := s.put (CRD_PARAM2_BWT p)
      (divU (11 * fiOf pair.1 * div + 2 ^ (tb / 16) * 357120 * d * div) (500 * d))
    let s := s.modCard p fun c => { c with ph := .ifs 1 }
    s.cdSend p (s.t1Block p 0xC1 [BitVec.ofNat 8 (s.get (CRD_PCFG0_IFSD p))])
  else s.cdActive p

/-- The PPS request for a protocol and pair (R378).
(Log: PRESUMED 152) -/
def ppsBytes (proto : Nat) (pair : Nat × Nat) : List Byte :=
  let b : List Byte := if pair = pairDefault then [0xFF, BitVec.ofNat 8 proto]
    else [0xFF, BitVec.ofNat 8 (0x10 + proto), BitVec.ofNat 8 (16 * pair.1 + pair.2)]
  b ++ [lrcOf b]

/-- A valid ATR: the protocol and parameters are chosen (R376, R378). -/
def State.atrAccept (s : State) (p : Nat) (a : Atr) : State :=
  match a.ta2 with
  | some x =>
    let pair := if bitOf x 5 then pairDefault else
      match a.ta1 with
      | some y => (y / 16, y % 16)
      | none => pairDefault
    if 1 < x % 16 then s.classFail p 0x82
    else if pairOk pair.1 pair.2 then s.paramsApply p (x % 16) pair
    else if (s.card p).warm then s.cdDeactivate p
    else s.actFail p 0x83
  | none =>
    let proto := s.protoChosen p a
    let pair := pairProposed a
    let first := a.prots.headD 0
    if s.on (CRD_PCFG0_PPS_EN p) && !(s.card p).ppsDone && (proto != first || pair != pairDefault) then
      let b := ppsBytes proto pair
      (s.modCard p fun c => { c with ph := .pps, pps := b }).cdSend p b
    else s.paramsApply p (if first ≤ 1 then first else proto) pairDefault

/-- Starts an activation that admission has passed: the old ATR goes, and the first allowed class is tried (R372 to R375). -/
def State.actStart (s : State) (p : Nat) (forced : Bool) : State :=
  let s := (s.put (CRD_PSTAT_STATE p) cdACTIVATING).put (CRD_PSTAT_ATRLEN p) 0
  let s := (upTo 9).foldl (fun s i => s.setReg (0x9050 + 4 * (9 * p + i)) 0) s
  let s := s.modCard p fun c => { c with tried := 0, ppsDone := false, atr := [], forced := forced, warm := false }
  match s.nextClass p with
  | some c => s.classStart p c
  | none => s.actFail p 0x8A

/-- Presents an activation for admission (R375). -/
def State.actAsk (s : State) (p : Nat) (o : Origin) : State := s.present (48 + p) 3 o

/-- An insertion or a restart of CORE with AUTO_ACT set starts an activation (R375). -/
def State.autoAct (s : State) (p : Nat) : State :=
  if s.coreRuns && s.on (CRD_PCFG0_EN p) && s.on (CRD_PCFG0_AUTO_ACT p) && s.on (CRD_PSTAT_PRESENT p) &&
      s.cdSt p == cdINACTIVE then s.actAsk p (s.originOf none)
  else s

/-! ## Exchanges -/

/-- The class byte of an interindustry command on channel `c` (R379, R389). -/
def chanCla (c : Nat) : Nat := if c < 4 then c else 0x40 + (c - 4)

/-- A command's class byte rewritten for channel `c`, or the status that refuses it (R389). -/
def claFor (c cla : Nat) : Except Nat Nat :=
  if cla == 0xFF || bitOf cla 6 || cla % 4 != 0 then .error 0x13
  else if c < 4 then .ok (cla / 4 * 4 + c)
  else if bitOf cla 7 then .error 0x13
  else
    let sm := cla / 4 % 4
    if sm == 1 || sm == 3 then .error 0x13
    else .ok (0x40 + 16 * (cla / 16 % 2) + 32 * (sm / 2) + (c - 4))

/-- The header, the data and the expected response length of a command APDU under T=0 (R379): a case 4 command is sent as
case 3. None: extended or of a wrong length. -/
def t0Split (a : List Byte) : Option (List Byte × List Byte × Nat) :=
  let h := a.take 4
  let n := a.length
  let p3 := (a.getD 4 0).toNat
  if n == 4 then some (h ++ [0], [], 0)
  else if n == 5 then some (a, [], if p3 == 0 then 256 else p3)
  else if p3 != 0 && (n == 5 + p3 || n == 6 + p3) then some (a.take 5, (a.drop 5).take p3, 0)
  else none

/-- Sends the next information block of a T=1 chain. -/
def State.t1Next (s : State) (p : Nat) (e : Exch) : State :=
  let c := s.card p
  let n := s.get (CRD_PARAM0_IFSC p)
  let inf := e.tx.take n
  let rest := e.tx.drop n
  let b := s.t1Block p (b2n c.ns * 64 + (if rest.isEmpty then 0 else 32)) inf
  (s.modCard p fun c => { c with ns := !c.ns, exch := some { e with tx := rest, last := b } }).cdSend p b

/-- Begins an exchange with a command APDU whose class byte is final (R379, R380). -/
def State.exStart (s : State) (p : Nat) (w : ExWho) (a : List Byte) : State :=
  let e : Exch := ⟨w, a, [], [], 0, 0, none, [], 0, 0, 0, false⟩
  if s.get (CRD_PARAM0_PROTO p) == 1 then s.t1Next p { e with tx := a }
  else
    match t0Split a with
    | some (h, d, n) =>
      (s.modCard p fun c => { c with exch := some { e with last := h, tx := d, rx := n } }).cdSend p h
    | none => s

/-- MANAGE CHANNEL (R388, R392): open, and close of channel `c`. -/
def manageOpen : List Byte := [0x00, 0x70, 0x00, 0x00, 0x01]
def manageClose (c : Nat) : List Byte := [0x00, 0x70, 0x80, BitVec.ofNat 8 c]

/-- The commands of the service card challenge (R393). -/
def State.authSelect (s : State) : List Byte :=
  let n := s.get CRD_SVCCFG_AIDLEN
  let aid := ((upTo 4).map fun k => leBytes 4 (s.get (CRD_SVCAID_BYTES k))).flatten
  [0x00, 0xA4, 0x04, 0x00, BitVec.ofNat 8 n] ++ aid.take n

def State.authChallenge (s : State) : List Byte :=
  let (k, key) := match s.snt.nonce with
    | some (n, k, _, _) => (n, k)
    | none => (0, 0)
  let serial := ((upTo 4).map fun i => leBytes 4 (s.get (GLB_SERIAL_BYTES i))).flatten
  [0x00, 0x88, 0x00, BitVec.ofNat 8 key, 0x30] ++ leBytes 32 (Config.nonce k).toNat ++ serial ++ [0x40]

/-- May an exchange begin under the exclusive hold (R391)? -/
def State.exAllowed (s : State) (p : Nat) (w : ExWho) : Bool :=
  !s.on (sessExcl p) || w.handle == some (s.get (sessExHandle p))

/-- The waiting entry of a list with the best rank, the oldest first. -/
def bestBy {α : Type} (rank : α → Nat) (l : List α) : Option α :=
  l.foldl (fun b x => match b with
    | some y => if rank x < rank y then some x else some y
    | none => some x) none

/-- Opens an exclusive hold for a session: END shows the frame at which it expires (R391, R464). -/
def State.exclOpen (s : State) (p h n : Nat) (t : Tag) : State :=
  let e := s.after n
  let s := s.modCard p fun c => { c with exclEnd := e }
  let s := ((s.put (sessExHandle p) h).put (sessExcl p) 1).put (sessEnd p) (s.frameAt e % 2 ^ 32)
  s.done t 0 0

/-- A stopped clock restarts for an exchange that waits: its first character follows 700 clock cycles later, at the next tick that
finds them over (R382).
(Log: DESIGN CHOICE 174) -/
def State.cdRestart (s : State) (p : Nat) : State :=
  let k := (7 * s.get (CRD_PARAM1_DIV p) + 624) / 625
  (s.put (CRD_PSTAT_STATE p) cdACTIVE).modCard p fun c => { c with clk := .running, restart := some (s.after k) }

/-- Does a waiting entry put characters on the card's I/O: all but the close of the Owner's session do (R388, R392)? -/
def ExWho.sends : ExWho → Bool
  | .close (some _) ch => ch != 0
  | _ => true

/-- The card is free: a deactivation that waited runs; else the next exclusive hold or exchange begins, in the order of R18
(R390, R391). A close of the Owner's session needs no exchange (R388, R392). -/
def State.cdFree (s : State) (p : Nat) : Nat → State
  | 0 => s
  | fuel + 1 =>
    let c := s.card p
    if c.exch.isSome || !s.cdUp p || c.ph != .run then s
    else if c.deactDue then s.cdDeactivate p
    else
      let hold := if s.on (sessExcl p) then none
        else bestBy (fun (x : Nat × Nat × Tag) => s.exRank (.apdu x.2.2 x.1)) c.exclQ
      let ex := bestBy (fun (x : ExWho × List Byte) => s.exRank x.1) (c.queue.filter fun x => s.exAllowed p x.1)
      let first : Bool := match hold, ex with
        | some h, some e => decide (s.exRank (.apdu h.2.2 h.1) ≤ s.exRank e.1)
        | some _, none => true
        | _, _ => false
      match first, hold, ex with
      | true, some (h, n, t), _ =>
        ((s.modCard p fun c => { c with exclQ := c.exclQ.erase (h, n, t) }).exclOpen p h n t).cdFree p fuel
      | _, _, some (w, a) =>
        if w.sends && s.cdSt p == cdSTOPPED then s.cdRestart p
        else if w.sends && c.restart.isSome then s
        else
        let s := s.modCard p fun c => { c with queue := c.queue.erase (w, a) }
        match w with
        | .close (some (t, h)) ch =>
          let s := match s.session h with
            | some x => s.sessDrop x
            | none => s
          if ch = 0 then (s.done t 0 0).cdFree p fuel else s.exStart p w (manageClose ch)
        | .close none ch => s.exStart p w (manageClose ch)
        | .open_ _ _ => s.exStart p w manageOpen
        | .auth sel =>
          if sel || s.get CRD_SVCCFG_AIDLEN == 0 then s.exStart p (.auth true) s.authChallenge
          else s.exStart p w s.authSelect
        | .apdu _ _ => s.exStart p w a
      | _, _, none => s

/-- The card is free, for as many steps as entries wait; during a power-down nothing new starts (R334). -/
def State.cdGo (s : State) (p : Nat) : State :=
  if s.coreRuns then s.cdFree p ((s.card p).queue.length + (s.card p).exclQ.length + 1) else s

/-- An exchange ends with the card's response: data and status word, or an error status (R381, R388, R390, R393). -/
def State.exEnd (s : State) (p status sw : Nat) : State :=
  match (s.card p).exch with
  | none => s
  | some e =>
    let s := s.modCard p fun c => { c with exch := none, idleTick := s.tb.ticks }
    let ok := status == 0
    match e.who with
    | .apdu t _ =>
      if e.discard then s
      else if ok then s.doneBuf t e.resp e.resp.length sw
      else s.complete t status 0 e.resp.length
    | .open_ t v =>
      let ch := (e.resp.getD 0 0).toNat
      let assigned := ok && sw == 0x9000 && e.resp.length == 1 && ch != 0
      if e.discard then
        if assigned then s.modCard p fun c => { c with queue := c.queue ++ [(.close none ch, [])] } else s
      else if assigned && decide (ch < (s.card p).chans) && decide (ch ≤ 19) then
        let (s, h) := s.sessMake p ch (some v)
        s.done t h 0
      else
        let s := if assigned then s.modCard p fun c => { c with queue := c.queue ++ [(.close none ch, [])] } else s
        s.complete t (if ok then 0x89 else status) 0 0
    | .close (some (t, _)) _ => s.done t 0 0
    | .close none _ => s
    | .auth sel =>
      if !ok || sw != 0x9000 then s.authFail
      else if !sel then s.modCard p fun c => { c with queue := c.queue ++ [(.auth true, [])] }
      else if e.resp.length == 64 then { s with snt := { s.snt with sig := some e.resp } }
      else s.authFail

/-! ### T=0 -/

/-- One TPDU ends with a status word: 61XX and 6CXX lead to a follow-up, any other ends the exchange (R379). -/
def State.t0End (s : State) (p : Nat) (e : Exch) (s1 s2 : Byte) : State :=
  let n := if s2 == 0 then 256 else s2.toNat
  if s1 == 0x61 then
    let ch := match e.who.handle with
      | some h => h / 256 % 32
      | none => 0
    let h : List Byte := [BitVec.ofNat 8 (chanCla ch), 0xC0, 0, 0, s2]
    (s.modCard p fun c => { c with exch := some { e with last := h, tx := [], rx := n, run := 0, sw1 := none } }).cdSend p h
  else if s1 == 0x6C then
    let h := e.last.take 4 ++ [s2]
    (s.modCard p fun c => { c with exch := some { e with last := h, tx := [], rx := n, run := 0, sw1 := none } }).cdSend p h
  else
    let s := s.modCard p fun c => { c with exch := some { e with sw1 := none } }
    (s.exEnd p 0 (s1.toNat * 256 + s2.toNat)).cdGo p

/-- One character from the card under T=0: data, NULL, ACK (whole or one byte), or a status word (R379).
(Log: PRESUMED 152) -/
def State.t0Char (s : State) (p : Nat) (b : Byte) : State :=
  match (s.card p).exch with
  | none => s
  | some e =>
    let set (s : State) (e : Exch) : State := s.modCard p fun c => { c with exch := some e }
    let ins := e.last.getD 1 0
    match e.sw1 with
    | some s1 => s.t0End p e s1 b
    | none =>
      if 0 < e.run then set s { e with resp := e.resp ++ [b], run := e.run - 1, rx := e.rx - 1 }
      else if b == 0x60 then s
      else if b == ins then
        if e.tx.isEmpty then set s { e with run := e.rx } else (set s { e with tx := [] }).cdSend p e.tx
      else if b == ins ^^^ 0xFF then
        if e.tx.isEmpty then set s { e with run := min 1 e.rx } else (set s { e with tx := e.tx.drop 1 }).cdSend p (e.tx.take 1)
      else if b.toNat / 16 == 6 || b.toNat / 16 == 9 then set s { e with sw1 := some b }
      else s

/-! ### T=1 and recovery -/

/-- The record of a recovery: the status and the row of Table 16-4. -/
def State.cdRecovery (s : State) (p status kind : Nat) : State := s.log 0xB007 p [some (status + 256 * kind)]

/-- A T=0 error ends the exchange, and the port deactivates normally with every session ended (Table 16-4). -/
def State.t0Fail (s : State) (p status kind : Nat) : State :=
  ((s.cdRecovery p status kind).exEnd p status 0).cdDeactivate p

/-- A T=1 error (Table 16-4): up to two R-blocks, then up to three S(RESYNCH), then a warm reset that ends every session. -/
def State.t1Error (s : State) (p status : Nat) : State :=
  match (s.card p).exch with
  | none => s
  | some e =>
    let err := if e.err = 0 then status else e.err
    if e.rtry < 2 && e.sync = 0 then
      let b := s.t1Block p (0x80 + 16 * b2n (s.card p).nr + (if status = 0x86 then 1 else 2)) []
      (s.modCard p fun c => { c with exch := some { e with rtry := e.rtry + 1, err := err } }).cdSend p b
    else if e.sync < 3 then
      let b := s.t1Block p 0xC0 []
      (s.modCard p fun c => { c with exch := some { e with sync := e.sync + 1, err := err, last := b } }).cdSend p b
    else
      let s := (s.cdRecovery p err 4).exEnd p err 0
      (s.sessEndAll p).modCard p fun c => { c with ph := .reset, rst := false, warm := true }

/-- A block that is framed and checked: its PCB and information field. -/
def State.blockOf (s : State) (p : Nat) (b : List Byte) : Except Nat (Nat × List Byte) :=
  let k := if s.useCrc p then 2 else 1
  let n := (b.getD 2 0).toNat
  if b.length != 3 + n + k || b.getD 0 0 != 0 then .error 0x8C
  else if s.edcOf p (b.take (3 + n)) != b.drop (3 + n) then .error 0x86
  else .ok ((b.getD 1 0).toNat, (b.drop 3).take n)

/-- The status word and data of a T=1 response APDU end the exchange.
(Log: PRESUMED 152) -/
def State.t1Answer (s : State) (p : Nat) (e : Exch) : State :=
  let n := e.resp.length
  if n < 2 then s.t1Error p 0x8C
  else
    let sw := (e.resp.getD (n - 2) 0).toNat * 256 + (e.resp.getD (n - 1) 0).toNat
    ((s.modCard p fun c => { c with exch := some { e with resp := e.resp.take (n - 2) } }).exEnd p 0 sw).cdGo p

/-- A valid T=1 block during an exchange (R380, R381). -/
def State.t1Block_ (s : State) (p pcb : Nat) (inf : List Byte) : State :=
  match (s.card p).exch with
  | none => s
  | some e =>
    if 0 < e.sync then
      if pcb == 0xE0 && inf.isEmpty then
        let s := s.modCard p fun c => { c with ns := false, nr := false }
        ((s.cdRecovery p e.err 3).exEnd p e.err 0).cdGo p
      else s.t1Error p e.err
    else if pcb < 0x80 then
      let n := bitOf pcb 6
      if n != (s.card p).nr || !e.tx.isEmpty then s.t1Error p 0x8C
      else
        let e := { e with resp := e.resp ++ inf, rtry := 0, err := 0 }
        let s := s.modCard p fun c => { c with nr := !n, exch := some e }
        if bitOf pcb 5 then
          let b := s.t1Block p (0x80 + 16 * b2n (s.card p).nr) []
          (s.modCard p fun c => { c with exch := some { e with last := b } }).cdSend p b
        else s.t1Answer p e
    else if pcb < 0xC0 then
      let n := bitOf pcb 4
      if n == (s.card p).ns && !e.tx.isEmpty then s.t1Next p { e with rtry := 0, err := 0 }
      else if n == (s.card p).ns && e.last.getD 1 0 != 0 && decide (0x80 ≤ (e.last.getD 1 0).toNat) then s.cdSend p e.last
      else if n != (s.card p).ns then s.cdSend p e.last
      else s.t1Error p 0x8C
    else if pcb == 0xC3 then s.cdSend p (s.t1Block p 0xE3 inf)
    else if pcb == 0xC1 && inf.length == 1 then
      (s.put (CRD_PARAM0_IFSC p) (inf.getD 0 0).toNat).cdSend p (s.t1Block p 0xE1 inf)
    else if pcb == 0xC2 then
      let s := s.cdSend p (s.t1Block p 0xE2 inf)
      (s.exEnd p 0x8C 0).cdGo p
    else s.t1Error p 0x8C

/-- No valid response to the IFS request: it is repeated once; then the port is ACTIVE with what it has (R380). -/
def State.ifsMiss (s : State) (p n : Nat) : State :=
  if n < 2 then
    (s.modCard p fun c => { c with ph := .ifs 2 }).cdSend p (s.t1Block p 0xC1 [BitVec.ofNat 8 (s.get (CRD_PCFG0_IFSD p))])
  else (s.cdActive p).cdGo p

/-- CARD_RESPONSE_RECEIVED (R379 to R381, R390): characters under T=0, or one T=1 block, arrive; `parity` says that a
character is still wrong after its repetitions.
(Log: DESIGN CHOICE 150) -/
def execCardResponseReceived (p : Fin 2) (chars : List Byte) (parity : Bool) (s : State) : Res :=
  .next <|
    if !s.rst.core then s
    else
      match (s.card p).ph with
      | .ifs n =>
        match s.blockOf p chars with
        | .ok (0xE1, inf) =>
          if inf == [BitVec.ofNat 8 (s.get (CRD_PCFG0_IFSD p))] && !parity then (s.cdActive p).cdGo p else s.ifsMiss p n
        | _ => s.ifsMiss p n
      | .run =>
        if (s.card p).exch.isNone then s
        else if s.get (CRD_PARAM0_PROTO p) == 1 then
          if parity then s.t1Error p 0x86
          else
            match s.blockOf p chars with
            | .ok (pcb, inf) => s.t1Block_ p pcb inf
            | .error st => s.t1Error p st
        else if parity then s.t0Fail p 0x84 1
        else chars.foldl (fun s b => s.t0Char p b) s
      | _ => s

/-- CARD_WAIT_TIMEOUT (R379 to R381): the work waiting time of T=0, or a waiting time of T=1, expires.
(Log: DESIGN CHOICE 3) -/
def execCardWaitTimeout (p : Fin 2) (s : State) : Res :=
  .next <|
    match (s.card p).ph with
    | .ifs n => s.ifsMiss p n
    | .run =>
      if (s.card p).exch.isNone then s
      else if s.get (CRD_PARAM0_PROTO p) == 1 then s.t1Error p 0x85
      else s.t0Fail p 0x85 2
    | _ => s

/-! ## Activation events -/

/-- CARD_SUPPLY_SETTLED (R372): VCC has been within tolerance for 200 us; reception is on and the clock starts. -/
def execCardSupplySettled (p : Fin 2) (s : State) : Res :=
  .next <|
    if (s.card p).ph = .settle then s.modCard p fun c => { c with ph := .reset, io := true, clk := .running } else s

/-- CARD_RST_RELEASE (R372, R381): RST_DLY clocks have passed and RST rises: the ATR window opens. -/
def execCardRstRelease (p : Fin 2) (s : State) : Res :=
  .next <| if (s.card p).ph = .reset then s.modCard p fun c => { c with ph := .window, rst := true } else s

/-- CARD_ATR (R373, R374, R376, R378): an ATR is captured and judged; `parity` says that a character had a parity error, `gap`
that two were more than 9,600 etu apart.
(Log: DESIGN CHOICE 150) -/
def execCardAtr (p : Fin 2) (chars : List Byte) (parity gap : Bool) (s : State) : Res :=
  .next <|
    if (s.card p).ph = .window then
      let b := chars.take 33
      let s := (upTo 9).foldl (fun s i => s.setReg (0x9050 + 4 * (9 * p.val + i)) (BitVec.ofNat 32 (leAt b (4 * i) 4))) s
      let s := (s.put (CRD_PSTAT_ATRLEN p) b.length).modCard p fun c => { c with atr := b }
      let a := readAtr chars
      if !a.ok || parity || gap then s.classFail p 0x82
      else
        match a.t15 with
        | some x =>
          if bitOf x (s.card p).cls then (s.atrAccept p a).cdGo p
          else s.classFail p (if (x &&& s.get (CRD_PCFG0_CLASSMASK p)) % 8 == 0 then 0x8A else 0x82)
        | none => (s.atrAccept p a).cdGo p
    else s

/-- CARD_ATR_WINDOW_END (R372, R373): no ATR start bit within the window. -/
def execCardAtrWindowEnd (p : Fin 2) (s : State) : Res :=
  .next <| if (s.card p).ph = .window then s.classFail p 0x81 else s

/-- CARD_CLASS_NEXT (R373): the 10 ms wait ends and the next class is tried. -/
def execCardClassNext (p : Fin 2) (s : State) : Res :=
  .next <|
    if (s.card p).ph = .gap then
      match s.nextClass p with
      | some c => s.classStart p c
      | none => s
    else s

/-- CARD_PPS_RESPONSE (R378): the response, or none within 9,600 etu. -/
def execCardPpsResponse (p : Fin 2) (resp : Option (List Byte)) (s : State) : Res :=
  .next <|
    if (s.card p).ph = .pps then
      let c := s.card p
      let a := readAtr c.atr
      if resp = some c.pps then (s.paramsApply p (s.protoChosen p a) (pairProposed a)).cdGo p
      else if s.on (CRD_PCFG0_PPS_FB p) then
        let s := s.log 0xB006 p [some ((c.pps.getD 1 0).toNat + 256 * (if c.pps.length = 4 then (c.pps.getD 2 0).toNat else 0))]
        ((s.contactsOff p).modCard p fun x => { x with ppsDone := true, warm := c.warm }).classStart p c.cls
      else if c.warm then s.cdDeactivate p
      else s.actFail p 0x83
    else s

/-- CARD_CLOCK_STOP (R382): an idle port whose card allows it stops its clock, at the level the card names. -/
def execCardClockStop (p : Fin 2) (s : State) : Res :=
  .next <|
    let c := s.card p
    let ind := ((readAtr c.atr).t15.getD 0) / 64 % 4
    if s.cdSt p == cdACTIVE && s.coreRuns && s.on (CRD_PCFG0_CSTOP_EN p) && ind != 0 && c.exch.isNone && c.queue.isEmpty &&
        c.exclQ.isEmpty && !s.on (sessExcl p) && s.due (c.idleTick + 1 + s.get (CRD_PCFG2_CSTOP_IDLE p)) then
      (s.put (CRD_PSTAT_STATE p) cdSTOPPED).modCard p fun c => { c with clk := if ind = 2 then .high else .low }
    else s

/-- CARD_EXCL_EXPIRED (R391): the hold's frames end; the session's next command reports it. -/
def execCardExclExpired (p : Fin 2) (s : State) : Res :=
  .next <|
    if s.on (sessExcl p) && s.due (s.card p).exclEnd then
      let h := s.get (sessExHandle p)
      let s := { s with crd := { s.crd with sess := s.crd.sess.map fun (x : Sess) =>
        if x.handle == h then { x with expired := true } else x } }
      ((s.exclEnd p).log 0xB008 p [some h]).cdGo p
    else s

/-! ## Presence and emergencies -/

/-- The running exchange and the activation of a port end with a status, and its sessions end (R384, R386). -/
def State.cdCut (s : State) (p status : Nat) : State :=
  let s := match (s.card p).exch with
    | some e =>
      let s := s.modCard p fun c => { c with exch := none }
      match e.who with
      | .auth _ => if status == 0x88 then s else s.authFail
      | w => if e.discard then s else s.exComplete w status 0 e.resp.length
    | none => s
  let s := s.sessEndAll p
  let s := (s.admDrop (48 + p)).actDone p status 0
  let l := (s.card p).deact
  let s := s.modCard p fun c => { c with deact := [] }
  l.foldl (fun s t => s.done t 0 0) s

/-- Emergency deactivation by AON hardware with a cause of Table 16-7, if the contacts are powered (R384). -/
def State.emergency (s : State) (p cause st : Nat) : State :=
  if (s.card p).vcc then
    let s := (s.cdInactive p st).put (CRD_PSTAT_ECAUSE p) cause
    s.log 0xB003 p [some cause]
  else s.put (CRD_PSTAT_STATE p) st

/-- A removal (R384, R386): emergency deactivation, the record, the end of sessions and commands, and on CP1 the end of the
authorisation and of a challenge, which counts neither way (R163, R164). -/
def State.cdRemove (s : State) (p : Nat) : State :=
  let n := s.get (CRD_PSTAT_SESSIONS p)
  let s := if p = 1 then
      match s.snt.nonce with
      | some (_, _, _, t) => (s.attemptEnd.authClose 3).complete t 0x88 0 0
      | none => s.authClose 3
    else s
  let s := s.cdCut p 0x88
  let s := (s.emergency p 1 cdABSENT).put (CRD_PSTAT_PRESENT p) 0
  let s := (s.put (CRD_PSTAT_ATRLEN p) 0).modCard p fun c => { c with atr := [] }
  let s := (upTo 9).foldl (fun s i => s.setReg (0x9050 + 4 * (9 * p + i)) 0) s
  s.log 0xB002 p [some n]

/-- CARD_INSERT (R386): CPn_PRES has held its present level for INS_DEB frames. -/
def execCardInsert (p : Fin 2) (s : State) : Res :=
  .next <|
    if s.on (CRD_PSTAT_PRESENT p) || s.rst.low then s
    else
      let s := (s.put (CRD_PSTAT_PRESENT p) 1).put (CRD_PSTAT_STATE p) (if s.rst.core then cdINACTIVE else 0)
      (s.log 0xB001 p []).autoAct p

/-- CARD_EMERGENCY (R384, R386): CPn_PRES leaves its present level. The other causes of R384 act within the events that
bring them. -/
def execCardEmergency (p : Fin 2) (s : State) : Res :=
  .next <| if s.on (CRD_PSTAT_PRESENT p) then s.cdRemove p else s

/-- CARD_SUPPLY_FAULT (R371): an overcurrent, or VCC outside its tolerance (during the settling: not within it in 2 ms). -/
def execCardSupplyFault (p : Fin 2) (short : Bool) (s : State) : Res :=
  .next <|
    let c := s.card p
    if c.vcc && !(short && decide (c.ph = .settle)) then (s.cdCut p 0x87).emergency p (if short then 2 else 3) cdFAULT
    else s

/-! ## The tick, resets and power-downs -/

/-- What a tick does at a card port: a normal deactivation has ended (R383), and an admitted activation starts (R324). -/
def State.cardTick (s : State) (p : Nat) : State :=
  let s :=
    if s.cdSt p == cdDEACTIVATING then
      let l := (s.card p).deact
      let s := (s.put (CRD_PSTAT_STATE p) cdINACTIVE).modCard p fun c => { c with deact := [] }
      l.foldl (fun s t => s.done t 0 0) s
    else s
  let s := match (s.card p).restart with
    | some t => if s.due t then (s.modCard p fun c => { c with restart := none }).cdGo p else s
    | none => s
  let st := s.cdSt p
  if s.mayStart (48 + p) && s.coreRuns && (st == cdINACTIVE || st == cdBUDGET || st == cdFAULT) then
    let f := s.wasForced (48 + p)
    (s.admDrop (48 + p)).actStart p f
  else s

/-- A refused activation (Table 13-4).
(Log: PRESUMED 152) -/
def State.cardRefused (s : State) (p : Nat) : State :=
  (s.put (CRD_PSTAT_STATE p) cdINACTIVE).actDone p 0x42 0

/-- The sessions of an owner end with its reset (R339, R387): a running exchange runs on with its response discarded, what
waits goes, and a VI's channel is closed once the card is free. -/
def State.cardOwnerReset (s : State) (w : Who) : State :=
  let mine := s.crd.sess.filter fun x => x.owner == w
  let handles := mine.map fun x => x.handle
  let his (e : ExWho) : Bool := match e with
    | .open_ _ v => some v == w
    | _ => match e.handle with
      | some h => handles.contains h
      | none => false
  let s := (upTo 2).foldl (fun s p => s.modCard p fun c => { c with
    exch := c.exch.map fun (e : Exch) => if his e.who then { e with discard := true } else e
    queue := c.queue.filter fun x => !his x.1
    exclQ := c.exclQ.filter fun x => !handles.contains x.1 }) s
  mine.foldl (fun s x =>
    let s := s.sessDrop x
    if x.chan = 0 then s
    else (s.modCard x.port fun c => { c with queue := c.queue ++ [(.close none x.chan, [])] }).cdGo x.port) s

/-- A power-down begins: a port that is powered and has no exchange running deactivates normally (R387); an activation is
dropped. -/
def State.cardDown (s : State) (p : Nat) : State :=
  if (s.card p).exch.isSome then s
  else
    let s := (s.admDrop (48 + p)).actDone p 0x53 0
    if (s.card p).vcc then s.cdDeactivate p else s

/-- The deadline of R336: an exchange still running ends with 0x53 and its count of bytes, by emergency deactivation; a port whose
exchange has ended since the power-down began deactivates normally (R387). -/
def State.cardDeadline (s : State) (p : Nat) : State :=
  if (s.card p).exch.isSome then (s.cdCut p 0x53).emergency p 4 cdINACTIVE else s.cardDown p

/-- A CORE stop without a quiesce (R341, R384): emergency deactivation; sessions and waiting work are lost with CORE. -/
def State.cardCoreStop (s : State) (p : Nat) : State :=
  let on := (s.card p).vcc
  let g := (s.card p).gen
  let st := if s.on (CRD_PSTAT_PRESENT p) then cdINACTIVE else cdABSENT
  let s := s.emergency p 5 (if on then cdINACTIVE else st)
  let s := { s with crd := { s.crd with sess := s.crd.sess.filter fun x => x.port != p } }
  let s := (s.admDrop (48 + p)).modCard p fun _ => { Card.idle with gen := g }
  ((upTo 5).foldl (fun s k => s.setReg (0x90A0 + 0x20 * p + 4 * k) 0xFFFFFFFF) s).exclEnd p |>.sessShow p

end Sys2Proof.Machine
end

