-- ==== Sys2Proof/Machine/Chrysalis.lean ====
section
/-!
DEFINITION. Chrysalis (chapter 07): stages, staged writes, the consistency rules, and the taking of a COMMIT.
-/

namespace Sys2Proof.Machine

/-! ## Stages -/

/-- The stage of an owner (R165). -/
def State.stage (s : State) : Who → Stage
  | none => s.chr.owner
  | some v => s.chr.vis.getD v.val ⟨[], false⟩

/-- The CHR register block of an owner's stage: Owner BAR0 or its VF BAR0 (Tables 19-3, 20-11). -/
def chrKey : Who → Nat
  | none => 0x2000
  | some v => vfBase v.val + 0x1800

/-- The slots of a stage (R165). -/
def stageSize : Who → Nat
  | none => 256
  | some _ => 32

/-- The read-back registers follow the stage: COUNT and FULL, and the slot that CHR_STGSEL selects (R168). -/
def State.stageShow (s : State) (w : Who) : State :=
  let k := chrKey w
  let st := s.stage w
  let sel := (s.reg (k + 8)).toNat
  let s := (s.put ⟨k + 4, 0, 9⟩ st.slots.length).putB ⟨k + 4, 9, 1⟩ st.full
  match st.slots[sel % 256]? with
  | some x =>
    let s := (s.put ⟨k + 12, 0, 16⟩ (x.off / 4)).put ⟨k + 12, 31, 1⟩ 1
    s.setReg (k + 16) (if sel / 256 % 2 = 1 then x.mask else x.value)
  | none => (s.setReg (k + 12) 0).setReg (k + 16) 0

/-- Replaces the stage of an owner. -/
def State.setStage (s : State) (w : Who) (x : Stage) : State :=
  let c := match w with
    | none => { s.chr with owner := x }
    | some v => { s.chr with vis := modAt s.chr.vis v.val fun _ => x }
  ({ s with chr := c }).stageShow w

/-- Discards a stage (R167).
(Log: DEDUCED 74) -/
def State.stageClear (s : State) (w : Who) : State := s.setStage w ⟨[], false⟩

/-- Is the stage frozen by a COMMIT that was taken (R171)? -/
def State.frozen (s : State) (w : Who) : Bool :=
  match s.chr.taken with
  | some c => c.who == w && c.own.isNone
  | none => false

/-- The word of a register with the staged values of its slot laid over it (R168). -/
def overlay (old : Word) (x : Slot) : Word := (old &&& ~~~ x.mask) ||| (x.value &&& x.mask)

/-- The proposed image of a list of slots (R168). -/
def State.propose (s : State) (l : List Slot) (off : Nat) : Word :=
  match l.find? fun x => x.off == off with
  | some x => overlay (s.reg off) x
  | none => s.reg off

/-- The mask of the staged fields of a register that `p` accepts. -/
def fieldsMask (off : Nat) (p : RField → Bool) : Word :=
  (fieldsAt off).foldl (fun m f => if p f then m ||| fieldMask f.lo f.w else m) 0

/-- The staged fields whose value in `new` differs from that in `old` (R432).
(Log: DEDUCED 75) -/
def changedMask (off : Nat) (old new : Word) : Word :=
  fieldsMask off fun f => f.acc.staged && fieldOf old f.lo f.w != fieldOf new f.lo f.w

/-- Does a mask touch an STP field? -/
def touchesStp (off : Nat) (m : Word) : Bool := (m &&& fieldsMask off fun f => f.acc == .stp) != 0

/-- Merges a write into a stage (R166): none when a new slot is needed and every slot is in use. -/
def Stage.merge (st : Stage) (size off : Nat) (m v : Word) : Option Stage :=
  if st.slots.any fun x => x.off == off then
    some { st with slots := st.slots.map fun (x : Slot) =>
      if x.off == off then { x with mask := x.mask ||| m, value := (x.value &&& ~~~ m) ||| (v &&& m) } else x }
  else if st.slots.length < size then some { st with slots := st.slots ++ [⟨off, m, v &&& m⟩] }
  else none

/-- The record of a refused protected write (R158): SUBJECT is the register's offset shifted right by 2.
(Log: DEDUCED 73) -/
def State.stageDeny (s : State) (o : Origin) (off : Nat) (m : Word) : State :=
  (s.count SNT_DENYCNT_COUNT).log 0x5005 (off / 4) [some o.code, some m.toNat]

/-- Stages the fields of a register under a mask that differ from the proposed image (R166, R432): refused without an open
authorisation where it changes an STP field (R158), counted late on a frozen stage (R174), FULL without a free slot.
Answers the status.
(Log: DEDUCED 75) -/
def State.stageWrite (s : State) (o : Origin) (w : Who) (off : Nat) (m v : Word) : State × Nat :=
  let old := s.propose (s.stage w).slots off
  let m' := changedMask off old ((old &&& ~~~ m) ||| (v &&& m))
  if m' = 0 then (s, 0)
  else if touchesStp off m' && !s.on SNT_AUTHSTAT0_OPEN then (s.stageDeny o off m', 0x32)
  else if s.frozen w then (s.count ⟨chrKey w + 4, 16, 16⟩, 0x26)
  else
    match (s.stage w).merge (stageSize w) off m' v with
    | some st => (s.setStage w st, 0)
    | none => (s.setStage w { s.stage w with full := true }, 0x13)

/-- STAGED_REGISTER_WRITE (R157, R158, R432): a write of a register with staged fields by the Owner, or by JTAG while
DEBUG_EN is set; any other origin may not. -/
def execStagedRegisterWrite (o : Origin) (off : Nat) (v : Word) (s : State) : Res :=
  .next <|
    let may := match o with
      | .owner _ => true
      | .debug => s.snt.debugEn
      | _ => false
    if may && decide (off < 0x100000) then (s.stageWrite o none off 0xFFFFFFFF v).1 else s

/-! ## The consistency rules (Table 7-1) -/

/-- A field of an image. -/
def imgGet (img : Nat → Word) (f : FRef) : Nat := fieldOf (img f.off) f.lo f.w

/-- The first index that `p` accepts. -/
def firstBad (n : Nat) (p : Nat → Bool) : Option Nat := (upTo n).find? p

/-- The integer square root of `n`, bit by bit from bit `k`. -/
def isqrt (n : Nat) : Nat → Nat → Nat
  | 0, r => r
  | k + 1, r => isqrt n k (if (r + 2 ^ k) * (r + 2 ^ k) ≤ n then r + 2 ^ k else r)

/-- The distinct values of a list, ascending. -/
def sortDistinct (l : List Nat) : List Nat :=
  let ins (x : Nat) : List Nat → List Nat := fun m => m.filter (· < x) ++ [x] ++ m.filter (x < ·)
  l.foldl (fun m x => ins x m) []

/-- The worst-case length of the shutdown order, in frames (R122); 0 without a used rail.
(Log: DEDUCED 53) -/
def tShut (img : Nat → Word) : Nat :=
  let used := (upTo 24).filter fun n => imgGet img (PSQ_RAILCFG_USE n) == 1
  let off (n : Nat) := imgGet img (PSQ_RAILDLY_OFF_DLY n)
  let ft (g : Nat) := (used.filter fun n => off n == g).foldl (fun m n => max m (imgGet img (PSQ_RAILTMO_FALL_TMO n))) 0
  let groups := sortDistinct (used.map off)
  groups.foldl (fun e g => max g e + ft g) 0

/-- The Cocoon target in units of 100 mV (R122): the least `k` for which V_tgt = 100 `k` mV holds the needed energy. -/
def cocTarget (img : Nat → Word) : Nat :=
  let hold := tShut img + 16 + imgGet img SUP_DISTIME_FRAMES
  let ec := imgGet img SUP_COCLOAD1_EFF * imgGet img SUP_COCCAP_UF
  let v := imgGet img SUP_COCCFG_COLLAPSE
  let need := v * v * ec + 31250000 * (imgGet img SUP_COCLOAD0_P_RUN + imgGet img SUP_COCLOAD0_P_HOLD * hold)
  let q := (need + (ec * 10000 - 1)) / (ec * 10000)
  let r := isqrt q 40 0
  if r * r < q then r + 1 else r

/-- Rules 2 and 3: the first slot with a staged field that `p` finds at fault. -/
def badSlot (l : List Slot) (p : Chk → Nat → Bool) : Option Nat :=
  (upTo l.length).find? fun i =>
    match l[i]? with
    | some x => (fieldsAt x.off).any fun f =>
        f.acc.staged && (x.mask &&& fieldMask f.lo f.w) != 0 && p f.chk (fieldOf x.value f.lo f.w)
    | none => false

/-- Does rail `n` break rule 10? -/
def railOrder (img : Nat → Word) (n : Nat) : Bool :=
  let a := imgGet img (PSQ_RAILOFF_MV n)
  let b := imgGet img (SUP_RAILFLT_UV_FLT n)
  let c := imgGet img (SUP_RAILWARN_UV_WARN n)
  let d := imgGet img (SUP_RAILWARN_OV_WARN n)
  let e := imgGet img (SUP_RAILFLT_OV_FLT n)
  imgGet img (SUP_RAILCFG_MODE n) == 0 && !(a < b && b < c && c < d && d < e)

/-- Does rail `n` select an IS input that a lower used rail selects (rule 13)? -/
def isTwice (img : Nat → Word) (n : Nat) : Bool :=
  let sel (k : Nat) : Bool := imgGet img (PSQ_RAILCFG_USE k) == 1 && imgGet img (PSQ_RAILCFG_IS_EN k) == 1
  sel n && (upTo n).any fun k => sel k && imgGet img (PSQ_RAILCFG_IS_SEL k) == imgGet img (PSQ_RAILCFG_IS_SEL n)

/-- Is an owner code a VI that is not enabled, or the resource not enabled (rule 40)? -/
def viBad (img : Nat → Word) (owner : Nat) (en : Bool) : Bool :=
  decide (owner < 16) && !(en && imgGet img (HST_VIBIND_EN owner) == 1)

/-- Rule 40: the requester index of Table 13-1 of the first resource at fault. -/
def rule40 (img : Nat → Word) : Option Nat :=
  firstBad 58 fun r =>
    if r < 32 then viBad img (imgGet img (CPE_SCCFG_OWNER r)) (imgGet img (CPE_SCCFG_EN r) == 1)
    else if r < 48 then viBad img (imgGet img (BMV_DCCFG_OWNER (r - 32))) (imgGet img (BMV_DCCFG_EN (r - 32)) == 1)
    else if r == 48 then
      (upTo 16).any fun v => bitOf (imgGet img CRD_VIPERM_VIS) v && viBad img v (imgGet img (CRD_PCFG0_EN 0) == 1)
    else if r == 49 then false
    else viBad img (imgGet img (LMP_CFG_OWNER (r - 50))) (imgGet img (LMP_CFG_EN (r - 50)) == 1)

/-- The first rule of Table 7-1 that fails, with its subject: the rules in ascending order (R169, R170).
(Log: DEDUCED 16) -/
def checkRules (full : Bool) (slots : List Slot) (img : Nat → Word) : Option (Nat × Nat) :=
  let g := imgGet img
  let used (n : Nat) : Bool := g (PSQ_RAILCFG_USE n) == 1
  let whole (b : Bool) : Option Nat := if b then some 0 else none
  let rules : List (Nat × (Unit → Option Nat)) := [
    (1, fun _ => whole full),
    (2, fun _ => badSlot slots fun c v => !notReserved c v),
    (3, fun _ => badSlot slots fun c v => !inRange c v),
    (10, fun _ => firstBad 24 fun n => used n && railOrder img n),
    (11, fun _ => firstBad 24 fun n =>
      used n && decide (g PSQ_SEQCFG_WINDOW < g (PSQ_RAILDLY_ON_DLY n) + g (PSQ_RAILTMO_RISE_TMO n))),
    (12, fun _ => firstBad 24 fun n =>
      used n && decide (g PSQ_SEQCFG_WINDOW < g (PSQ_RAILDLY_OFF_DLY n) + g (PSQ_RAILTMO_FALL_TMO n))),
    (13, fun _ => firstBad 24 fun n => isTwice img n),
    (14, fun _ => firstBad 24 fun n => g (SUP_RAILCFG_FLT_ACTION n) == 1 && g (PSQ_RAILCFG_POLICY n) == 0),
    (15, fun _ => if g PSQ_SEQCFG_SRC == 1 then firstBad 24 fun n =>
        used n && (g (PSQ_RAILCFG_SW_ON n) == 0 ||
          (g (PSQ_RAILCFG_SW_OFF n) != 0 && g (PSQ_RAILCFG_SW_OFF n) == g (PSQ_RAILCFG_SW_ON n)))
      else none),
    (20, fun _ => whole (decide (g SUP_BUSCFG1_PRES_MV ≤ g SUP_BUSCFG2_ABS_MV))),
    (21, fun _ =>
      let k := cocTarget img
      whole (decide (2000000000 * g SUP_COCCFG_CAP < g SUP_COCCAP_UF * (100 * k) * (100 * k)) || decide (440 < k))),
    (22, fun _ => whole (g SUP_RTGRANT_W != 0 && decide (g SUP_GRANT_W < g SUP_RTGRANT_W))),
    (23, fun _ => whole (!(g SUP_BUSEVT0_INT < g SUP_BUSEVT0_DIP && g SUP_BUSEVT0_DIP < 100 && 100 < g SUP_BUSEVT0_OV))),
    (30, fun _ => firstBad 9 fun i =>
      g (THM_SRC_EN i) == 1 && decide (signedOf 13 (g (THM_ALM_CRIT i)) ≤ signedOf 13 (g (THM_ALM_WARN i)))),
    (31, fun _ => firstBad 4 fun o => g (THM_THR_MODE o) == 1 && decide (g (THM_THRL_LVL_ON o) ≤ g (THM_THRL_LVL_OFF o))),
    (40, fun _ => rule40 img),
    (41, fun _ => firstBad 32 fun n =>
      g (CPE_SCCFG_EN n) == 1 &&
        (decide (12 < g (CPE_SCCFG_PORT n)) || g ⟨0x10000 + 4 * g (CPE_SCCFG_PORT n), 0, 1⟩ == 0)),
    (50, fun _ => whole (decide (160 <
      ((upTo 8).map fun c => if g (LMP_CFG_EN c) == 1 then g (LMP_CFG_CURRENT c) else 0).sum)))]
  rules.findSome? fun r => (r.2 ()).map fun sub => (r.1, sub)

/-- A CHECK of an owner's stage: its verdict (R169). -/
def State.checkStage (s : State) (w : Who) : Option (Nat × Nat) :=
  let st := s.stage w
  checkRules st.full st.slots (s.propose st.slots)

/-- Writes CHR_CHKSTAT with a verdict. -/
def State.checkShow (s : State) (w : Who) (v : Option (Nat × Nat)) : State :=
  let k := chrKey w + 0x14
  match v with
  | none => s.setReg k 1
  | some (r, sub) => ((s.setReg k 2).put ⟨k, 8, 8⟩ r).put ⟨k, 16, 16⟩ sub

/-- The result word of a failed rule (R169). -/
def ruleWord (r : Nat × Nat) : Nat := r.1 + 65536 * (r.2 % 65536)

/-- CHR_CTL_CHECK (R169, R436): the rules run on the writer's stage and CHR_CHKSTAT holds the result. -/
def execChrCtlCheck (who : Sender) (s : State) : Res :=
  .next <| if s.reaches who then s.checkShow (senderWho who) (s.checkStage (senderWho who)) else s

/-- Discards the stage unless a COMMIT has frozen it; answers the status and how many slots (R167, R174).
(Log: DEDUCED 72) -/
def State.discardStage (s : State) (w : Who) : State × Nat × Nat :=
  if s.frozen w then (s, 0x26, 0) else (s.stageClear w, 0, (s.stage w).slots.length)

/-- CHR_CTL_DISCARD (R167).
(Log: DEDUCED 72) -/
def execChrCtlDiscard (who : Sender) (s : State) : Res :=
  .next <| if s.reaches who then (s.discardStage (senderWho who)).1 else s

/-! ## The commit -/

/-- Puts a COMMIT in wait (R171). -/
def State.commitAsk (s : State) (c : Commit) : State :=
  { s with chr := { s.chr with waiting := s.chr.waiting ++ [c] } }

/-- CHR_CTL_COMMIT (R157, R436, R467), by the Owner or JTAG: COMMIT reads 1 until the commit tick or the refusal; a write while it
reads 1, or by a VF, starts none.
(Log: DEDUCED 72) -/
def execChrCtlCommit (who : Sender) (s : State) : Res :=
  .next <|
    if (senderWho who).isSome || !s.reaches who || s.on CHR_CTL_COMMIT then s
    else (s.put CHR_CTL_COMMIT 1).commitAsk ⟨none, who.origin, .reg, none, 0⟩

/-- A COMMIT ends without applying: its status and result word (R169, R171, R172, R436). -/
def State.commitRefuse (s : State) (c : Commit) (status : Nat) (r : Nat × Nat) : State :=
  match c.from_ with
  | .cmd t => s.complete (BitVec.ofNat 16 t) status (ruleWord r) 0
  | .reg =>
    (((s.put CHR_CTL_COMMIT 0).put CHR_CMTSTAT_STATUS status).put CHR_CMTSTAT_RULE r.1).put CHR_CMTSTAT_SUBJECT r.2
  | _ => s

/-- The waiting COMMIT that Sentinel takes: the best party's oldest (R18, R171).
(Log: DEDUCED 70) -/
def State.commitPick (s : State) : Option Commit :=
  s.chr.waiting.foldl (fun b c =>
    match b with
    | some d => if s.rank c.origin < s.rank d.origin then some c else some d
    | none => some c) none

/-- The slots of a COMMIT: its own fields, or its stage. -/
def State.commitSlots (s : State) (c : Commit) : List Slot := c.own.getD (s.stage c.who).slots

/-- May a COMMIT be taken: Sentinel serves the slot of this frame (R40), none was taken in this frame, and no entry of an earlier commit lacks its
commit word (R171, R173)?
(Log: DEDUCED 70) -/
def State.mayTake (s : State) : Bool :=
  s.chr.taken.isNone && s.chr.lastTake != s.tb.ticks + 1 && s.sentinelRuns && s.slot &&
    s.st.jq.all fun e => e.kind != .commit || e.fromC == .change

/-- COMMIT_TAKE (R171, R173): the chosen COMMIT's rules run against the committed image; on a pass its stage is frozen until
the next tick, the commit tick. -/
def execCommitTake (s : State) : Res :=
  .next <|
    if s.mayTake then
      match s.commitPick with
      | none => s
      | some c =>
        let s := { s with chr := { s.chr with waiting := s.chr.waiting.erase c, lastTake := s.tb.ticks + 1 } }
        let l := s.commitSlots c
        match checkRules (c.own.isNone && (s.stage c.who).full) l (s.propose l) with
        | some r => s.commitRefuse c 0x15 r
        | none => { s with chr := { s.chr with taken := some { c with tick := s.tb.ticks + 1 } } }
    else s

end Sys2Proof.Machine
end

