-- ==== Sys2Proof/Machine/Lamps.lean ====
section
/-!
DEFINITION. Lamp channels (chapter 17): periods, patterns, diagnosis and the service states.
-/

namespace Sys2Proof.Machine

/-- Diagnosis codes (Table 17-3). -/
abbrev diagOFF : Nat := 0
abbrev diagOK : Nat := 1
abbrev diagOPEN : Nat := 2
abbrev diagSHORT : Nat := 3
abbrev diagUNVER : Nat := 4

/-- Lamp channel `c` as reset leaves it. -/
def Lamp.idle : Lamp := ⟨0, 0, none, false, 0, 0, 0, none, none, none, 0, 0⟩

/-- Lamp channel `c`. -/
def State.lamp (s : State) (c : Nat) : Lamp := s.lamps.getD c Lamp.idle

/-- Changes lamp channel `c`. -/
def State.modLamp (s : State) (c : Nat) (f : Lamp → Lamp) : State := { s with lamps := modAt s.lamps c f }

/-- May lamps sink current: the settings are loaded and the state is RUN, HOLD or Autonomous (R397)? -/
def State.lampsRun (s : State) : Bool :=
  decide (s.get RST_PSTATE_STATE < 2) && decide (5 ≤ s.snt.boot) && !s.rst.low && !s.pins.released

/-- Does channel `c` run (R397)? -/
def State.lampRuns (s : State) (c : Nat) : Bool := s.lampsRun && s.on (LMP_CFG_EN c)

/-- The level of a pattern with peak `l` at frame `f` (Table 17-2); what a ramp step rounds to is open. -/
def patternLevel (code l f : Nat) : Nat :=
  match code with
  | 0 => l
  | 1 => if f % 8000 < 4000 then l else 0
  | 2 => if f % 2000 < 1000 then l else 0
  | 3 => if f % 16000 < 1000 then l else 0
  | 4 =>
    let p := f % 16000
    if p < 8000 then divU (l * p) 8000 else divU (l * (16000 - p)) 8000
  | _ => 0

/-- The on-time in units of 1/4096 us of a level (R398): level x 1,000 / 4,096 us. -/
def onTimeOf (level : Nat) : Nat := level * 1000

/-- 16 us in the same units (R402, R403). -/
abbrev onTime16 : Nat := 65536

/-- A channel's diagnosis is lost: UNVERIFIED until two samples agree again (R404). -/
def State.lampUnver (s : State) (c : Nat) : State :=
  (s.put (LMP_STAT_DIAG c) diagUNVER).modLamp c fun l => { l with last := none, run := 0 }

/-- A channel sinks nothing, and its diagnosis reads OFF (R397). -/
def State.lampOff (s : State) (c : Nat) : State :=
  (s.put (LMP_STAT_DIAG c) diagOFF).modLamp c fun l => { l with level := 0, onTime := 0, last := none, run := 0 }

/-- One channel at a period start (R398, R399, R403 to R405, R407). -/
def State.lampPeriod (s : State) (c : Nat) : State :=
  if !s.lampRuns c then s.lampOff c
  else
    let s := if s.get (LMP_STAT_DIAG c) == diagOFF then s.lampUnver c else s
    let l := s.lamp c
    let f := s.tb.frame.toNat
    let (peak, code) := match l.svc with
      | some p => (4095, p)
      | none => (s.get (LMP_LEVEL_LEVEL c), s.get (LMP_PATTERN_CODE c))
    let s := s.putB (LMP_STAT_OVERRIDE c) l.svc.isSome
    if s.on (LMP_STAT_SHORT_LATCH c) then
      s.modLamp c fun l => { l with level := patternLevel code peak f, pat := code, onTime := 0 }
    else
      let lv := patternLevel code peak f
      let t := onTimeOf lv
      let pulse := s.on (LMP_CFG_DIAGPULSE c) && f % 256 == 32 * c
      let t := if pulse && t < onTime16 then onTime16 else t
      let s := s.modLamp c fun l => { l with level := lv, pat := code, onTime := t }
      if t < onTime16 && !s.on (LMP_CFG_DIAGPULSE c) && s.get (LMP_STAT_DIAG c) != diagUNVER then s.lampUnver c
      else s

/-- LAMP_PERIOD_START (R398): at the tick of every frame F with F mod 8 = 0, every channel's period starts. -/
def execLampPeriodStart (s : State) : Res :=
  .next <|
    if s.tb.frame.toNat % 8 == 0 then (upTo 8).foldl (fun s c => s.lampPeriod c) s else s

/-- What a sample finds (R402): the sink current in uA and LCn in mV. -/
def State.lampFind (s : State) (c ua mv : Nat) : LampFind :=
  if ua < s.get (LMP_CFG_CURRENT c) * 500 && mv < 300 then .open_
  else if (if s.on (LMP_CFG_SHORT_V c) then 4500 else 3000) < mv then .short
  else .pass

/-- LAMP_DIAG_SAMPLE (R402, R404 to R406): once a period whose on-time is at least 16 us; SHORT needs one sample and
latches, OPEN and OK need two with the same finding, and each change to OPEN, SHORT or OK is recorded.
(Log: DEDUCED 132) -/
def execLampDiagSample (c : Fin 8) (ua mv : Nat) (s : State) : Res :=
  .next <|
    let l := s.lamp c
    if s.lampRuns c && decide (onTime16 ≤ l.onTime) && s.tb.frame.toNat % 8 == 0 && l.sampleAt != s.tb.ticks then
      let find := s.lampFind c ua mv
      let was := s.get (LMP_STAT_DIAG c)
      let run := if l.last = some find then min 2 (l.run + 1) else 1
      let s := s.modLamp c fun l => { l with last := some find, run := run, sampleAt := s.tb.ticks }
      match find with
      | .short =>
        let s := (s.put (LMP_STAT_SHORT_LATCH c) 1).modLamp c fun l => { l with onTime := 0 }
        if was == diagSHORT then s else (s.put (LMP_STAT_DIAG c) diagSHORT).log 0xD002 c.val [some mv]
      | .open_ =>
        if run == 2 && was != diagOPEN then (s.put (LMP_STAT_DIAG c) diagOPEN).log 0xD001 c.val [some l.level] else s
      | .pass =>
        if run == 2 && was != diagOK then (s.put (LMP_STAT_DIAG c) diagOK).log 0xD003 c.val [some was] else s
    else s

/-- LAMP_DIAG_STALE (R404): the latest sample has become older than 512 frames. -/
def execLampDiagStale (c : Fin 8) (s : State) : Res :=
  .next <|
    let d := s.get (LMP_STAT_DIAG c)
    if s.lampRuns c && (d == diagOK || d == diagOPEN) && decide ((s.lamp c).sampleAt + 512 < s.tb.ticks) then
      s.lampUnver c
    else s

/-- LAMP_CLR (R405): a write of 1 to LMP_CTL[c].CLR clears the latch; the channel resumes at the next period start. -/
def execLampClr (c : Fin 8) (s : State) : Res :=
  .next ((s.put (LMP_STAT_SHORT_LATCH c) 0).modLamp c fun l => { l with last := none, run := 0 })

/-! ## Raises and service states -/

/-- Stores a level and pattern that need no admission, or were admitted (R399, R400). -/
def State.lampStore (s : State) (c level pat : Nat) : State :=
  (s.put (LMP_LEVEL_LEVEL c) level).put (LMP_PATTERN_CODE c) pat

/-- The reset of a channel's level and pattern (R401). -/
def State.lampClear (s : State) (c : Nat) : State :=
  let s := if (s.lamp c).waiting then s.admDrop (50 + c) else s
  (s.lampStore c 0 0).modLamp c fun l => { l with waiting := false, wantTag := none }

/-- The pattern that a service state gives channel `c`: the highest row of Table 17-5 that names it and holds (R407). -/
def State.svcPattern (s : State) (c : Nat) : Option Nat :=
  let critLatched := (upTo 9).any fun i => s.almLatched true i && s.on (almBit true i)
  let rows : List (Bool × Nat × Nat) := [
    (s.on SUP_DISSTAT_FAIL, s.get LMP_SVCMAP_DISFAIL, 2),
    (s.get SUP_HSSTAT_STATE == hsFAULT || s.get PSQ_SEQSTAT_STATE == seqLOCKOUT || critLatched,
      s.get LMP_SVCMAP_FAULT, 0),
    (s.on GLB_STATUS_AUTONOMOUS, s.get LMP_SVCMAP_AUTON, 1),
    (s.on SNT_AUTHSTAT0_OPEN, s.get LMP_SVCMAP_AUTH, 3)]
  (rows.find? fun r => r.1 && r.2.1 == c).map fun r => r.2.2

/-- Sentinel's override of channel `c` follows the service states: a raise is presented for admission by Sentinel once the
requester is free, a change that keeps or lowers the current applies at once, and the end of the state restores the
owner's settings (R407). -/
def State.lampService (s : State) (c : Nat) : State :=
  let want := s.svcPattern c
  let l := s.lamp c
  let s := s.modLamp c fun l => { l with svcWant := want }
  match want with
  | none =>
    let s := if l.svc.isNone && l.svcWant.isSome && !l.waiting then s.admDrop (50 + c) else s
    s.modLamp c fun l => { l with svc := none }
  | some p =>
    if l.svc.isSome || s.get (LMP_LEVEL_LEVEL c) == 4095 then s.modLamp c fun l => { l with svc := some p }
    else if (s.item (50 + c)).isNone then s.present (50 + c) 1 .sentinel
    else s

/-- An admitted lamp item takes effect once it may start (R324, R400): the owner's raise, or Sentinel's override.
(Log: DEDUCED 63) -/
def State.lampAdmitted (s : State) (c : Nat) : State :=
  if s.mayStart (50 + c) then
    let forced := s.wasForced (50 + c)
    let l := s.lamp c
    let s := s.admDrop (50 + c)
    if l.waiting then
      let s := (s.lampStore c l.wantLevel l.wantPat).modLamp c fun l => { l with waiting := false, wantTag := none }
      match l.wantTag with
      | some t => s.complete (BitVec.ofNat 16 t) (if forced then 0x41 else 0) 0 0
      | none => s
    else s.modLamp c fun l => { l with svc := l.svcWant }
  else s

/-- A refused lamp item (Table 13-4): the command completes with 0x42 and the lamp keeps its level; Sentinel presents its
own again (R407). -/
def State.lampRefused (s : State) (c : Nat) : State :=
  let l := s.lamp c
  let s := s.put (LMP_STAT_BUDGET_WAIT c) 0
  if l.waiting then
    let s := s.modLamp c fun l => { l with waiting := false, wantTag := none }
    match l.wantTag with
    | some t => s.complete (BitVec.ofNat 16 t) 0x42 0 0
    | none => s
  else s

end Sys2Proof.Machine
end

