-- ==== Sys2Proof/Machine/Rings.lean ====
section
/-!
DEFINITION. Rings (chapter 09): the opcode table's checks, fetching, starting, doorbells, coalescing and the Event ring's
registers.
-/

namespace Sys2Proof.Machine

/-! ## The opcode table (Table 9-6) -/

/-- A row of Table 9-6: the rings that accept it (Owner Submission, Admin, VI), whether Service firmware forwards it to
Sentinel (R155), the least buffer if it takes one, the masks of its named parameter bits, and its index parameters with
their bounds. -/
structure OpRow where
  op    : Nat
  o     : Bool
  a     : Bool
  v     : Bool
  fwd   : Bool
  buf   : Option Nat
  masks : List Nat
  idx   : List (Nat × Nat)
  deriving DecidableEq, Repr

/-- Every bit of a parameter is named. -/
abbrev pAll : Nat := 0xFFFFFFFF

/-- PARAM5 of SC_START and DC_START: K, VEC and QUIET (R263, R308). -/
abbrev pArea : Nat := 0x13F0F

/-- Rows 0x00 to 0x28. -/
def opRows0 : List OpRow := [
  ⟨0x00, true, true, true, false, none, [], []⟩,
  ⟨0x01, true, true, true, false, some 256, [], []⟩,
  ⟨0x02, true, true, true, false, none, [], []⟩,
  ⟨0x03, true, true, true, false, none, [1, 0xFFFF], []⟩,
  ⟨0x04, false, true, false, false, none, [0xFFFF], []⟩,
  ⟨0x10, true, true, true, true, none, List.replicate 10 pAll, []⟩,
  ⟨0x11, true, true, true, true, some 0, [], []⟩,
  ⟨0x12, true, true, true, true, some 0, [], []⟩,
  ⟨0x13, true, true, true, true, none, [], []⟩,
  ⟨0x14, true, true, true, true, none, [], []⟩,
  ⟨0x15, true, true, true, true, none, [], []⟩,
  ⟨0x16, false, true, false, true, none, [pAll], []⟩,
  ⟨0x20, false, true, false, true, none, [1], []⟩,
  ⟨0x21, false, true, false, true, none, [1], []⟩,
  ⟨0x22, false, true, false, true, none, [pAll], [(0, 24)]⟩,
  ⟨0x23, false, true, false, true, none, [pAll], []⟩,
  ⟨0x24, true, true, false, false, none, [pAll, pAll], []⟩,
  ⟨0x25, true, true, false, false, none, [pAll, pAll], []⟩,
  ⟨0x26, false, true, false, true, none, [], []⟩,
  ⟨0x27, false, true, false, true, none, [], []⟩,
  ⟨0x28, false, true, false, true, none, [pAll, 1], []⟩]

/-- Rows 0x30 to 0x57. -/
def opRows1 : List OpRow := [
  ⟨0x30, true, false, true, false, none, [pAll, pAll, pAll, pAll, pAll, pArea], [(0, 32)]⟩,
  ⟨0x31, true, false, true, false, none, [pAll], [(0, 32)]⟩,
  ⟨0x32, true, false, true, false, none, [pAll, pAll, pAll], [(0, 32)]⟩,
  ⟨0x33, true, false, true, false, none, [pAll], [(0, 32)]⟩,
  ⟨0x34, true, false, true, false, none, [pAll], [(0, 32)]⟩,
  ⟨0x35, true, false, true, false, none, [pAll], [(0, 32)]⟩,
  ⟨0x36, true, false, true, false, none, [pAll, pAll, pAll], []⟩,
  ⟨0x37, true, false, true, false, none, [], []⟩,
  ⟨0x40, true, false, true, false, none, [pAll, pAll, pAll, pAll, pAll, pArea], [(0, 16)]⟩,
  ⟨0x41, true, false, true, false, none, [pAll], [(0, 16)]⟩,
  ⟨0x42, true, false, true, false, none, [pAll], [(0, 16)]⟩,
  ⟨0x43, true, false, true, false, none, [pAll], [(0, 16)]⟩,
  ⟨0x44, true, false, true, false, none, [pAll], [(0, 16)]⟩,
  ⟨0x45, false, true, false, false, none, [0xFFFF], []⟩,
  ⟨0x50, true, false, true, false, none, [pAll], [(0, 2)]⟩,
  ⟨0x51, true, false, true, false, none, [pAll], []⟩,
  ⟨0x52, true, false, true, false, some 0, [pAll, pAll], []⟩,
  ⟨0x53, true, false, true, false, none, [pAll, pAll, pAll], []⟩,
  ⟨0x54, false, true, false, false, none, [pAll], [(0, 2)]⟩,
  ⟨0x55, false, true, false, false, none, [pAll], [(0, 2)]⟩,
  ⟨0x56, true, true, true, false, some 0, [pAll], [(0, 2)]⟩,
  ⟨0x57, false, true, false, false, none, [pAll], [(0, 2)]⟩]

/-- Rows 0x60 to 0xF2. -/
def opRows2 : List OpRow := [
  ⟨0x60, true, false, true, true, none, [pAll, pAll], [(0, 8)]⟩,
  ⟨0x61, true, false, true, true, none, [pAll, pAll], [(0, 8)]⟩,
  ⟨0x62, true, false, true, false, none, [pAll], [(0, 8)]⟩,
  ⟨0x70, true, true, false, false, none, [pAll], [(0, 9)]⟩,
  ⟨0x71, true, false, false, true, none, [pAll, 0xFFFF], [(0, 8)]⟩,
  ⟨0x72, false, true, false, true, none, [0x1FF, 0x1FF], []⟩,
  ⟨0x73, false, true, false, true, none, [], []⟩,
  ⟨0x74, true, true, false, true, none, [pAll], [(0, 7)]⟩,
  ⟨0x75, true, true, false, false, some 40, [], []⟩,
  ⟨0x80, false, true, false, true, some 0, [pAll, pAll, pAll], [(0, 3)]⟩,
  ⟨0x81, false, true, false, true, none, [pAll], [(0, 3)]⟩,
  ⟨0x90, false, true, false, false, some 0, [pAll, pAll], [(0, 2)]⟩,
  ⟨0x91, false, true, false, false, none, [pAll], [(0, 2)]⟩,
  ⟨0x92, false, true, false, true, none, [pAll], [(0, 2)]⟩,
  ⟨0x93, false, true, false, true, none, [pAll], [(0, 2)]⟩,
  ⟨0x94, false, true, false, true, none, [], []⟩,
  ⟨0x95, false, true, false, true, none, [], []⟩,
  ⟨0x96, false, true, false, true, some 256, [], []⟩,
  ⟨0xA0, false, true, false, true, none, [pAll], [(0, 4)]⟩,
  ⟨0xA1, false, true, false, true, none, [], []⟩,
  ⟨0xA2, false, true, false, true, none, [], []⟩,
  ⟨0xA3, false, true, false, true, some 64, [pAll], [(0, 4)]⟩,
  ⟨0xA4, false, true, false, true, none, [pAll], [(0, 4)]⟩,
  ⟨0xA5, true, true, false, true, some 48, [pAll], [(0, 6)]⟩,
  ⟨0xF0, false, true, false, false, none, [pAll, pAll], []⟩,
  ⟨0xF1, false, true, false, true, none, [pAll], [(0, 2)]⟩,
  ⟨0xF2, false, true, false, true, none, [], []⟩]

/-- The row of an opcode. -/
def opRow (op : Nat) : Option OpRow := (opRows0 ++ opRows1 ++ opRows2).find? fun r => r.op == op

/-- Does a ring accept a row? -/
def OpRow.on (r : OpRow) : RingId → Bool
  | .sub => r.o
  | .adm => r.a
  | .vi _ => r.v

/-- Is an opcode forwarded to Sentinel (R155)? -/
def opFwd (op : Nat) : Bool :=
  match opRow op with
  | some r => r.fwd
  | none => false

/-! ## The checks of R239 -/

/-- A triple of STAGE_WRITE: offset, mask and value.
(Log: DEDUCED 78) -/
def stageTriple (e : SqEntry) (i : Nat) : Nat × Word × Word :=
  (SqEntry_param e (3 * i), e.params.getD (3 * i + 1) 0, e.params.getD (3 * i + 2) 0)

/-- Does an offset name a register of Owner BAR0? -/
def namesReg (off : Nat) : Bool := decide (off < 0x40000) && off % 4 == 0 && (findReg off).isSome

/-- Check 2: a reserved field, a reserved flag, or a parameter bit that Table 9-6 leaves unnamed, is not 0.
(Log: DEDUCED 78) -/
def rsvBad (r : OpRow) (e : SqEntry) : Bool :=
  e.rsv0 != 0 || e.rsv1 != 0 || 4 ≤ e.flags.toNat ||
    ((upTo 10).any fun i =>
      let named := if r.op == 0x10 && i < 9 && SqEntry_param e 9 ≤ 3 && 3 * SqEntry_param e 9 ≤ i then 0 else r.masks.getD i 0
      SqEntry_param e i &&& named != SqEntry_param e i)

/-- Check 4: an index out of range. -/
def idxBad (r : OpRow) (e : SqEntry) : Bool :=
  (r.idx.any fun p => p.2 ≤ SqEntry_param e p.1) ||
    (r.op == 0x10 && ((upTo (min 3 (SqEntry_param e 9))).any fun i => !namesReg (stageTriple e i).1)) ||
    ((r.op == 0x24 || r.op == 0x25) &&
      ((SqEntry_param e 0 == 1 && 16 ≤ SqEntry_param e 1) || (SqEntry_param e 0 == 2 && 2 ≤ SqEntry_param e 1))) ||
    (r.op == 0xA5 && SqEntry_param e 0 == 0)

/-- The least buffer of a row for an entry and an owner. -/
def State.bufMin (s : State) (r : OpRow) (w : Who) (e : SqEntry) : Nat :=
  if r.op == 0x12 then 12 * (s.stage w).slots.length
  else if r.op == 0x52 then min 2048 (SqEntry_param e 1)
  else r.buf.getD 0

/-- Checks 1 to 5 of R239, in order; `dup` says that the CID is outstanding on the ring. -/
def State.entryCheck (s : State) (ring : RingId) (e : SqEntry) (dup : Bool) : Option Nat :=
  match opRow e.op.toNat with
  | none => some 0x10
  | some r =>
    if !r.on ring then some 0x11
    else if rsvBad r e then some 0x17
    else if dup then some 0x18
    else if idxBad r e then some 0x14
    else if r.buf.isSome && (e.buf.toNat % 8 != 0 || e.len.toNat % 8 != 0) then some 0x12
    else if r.buf.isSome && e.len.toNat < s.bufMin r (whoOf ring) e then some 0x16
    else none

/-- Check 6: the class of the origin (0x30), the assignment of what is named (0x31), and the authorisation of a Protected
action (0x32); R156, Table 6-4, R161, R263, R308, R388, R399. -/
def State.permCheck (s : State) (ring : RingId) (e : SqEntry) : Option Nat :=
  let w := whoOf ring
  let op := e.op.toNat
  let p0 := SqEntry_param e 0
  let vi := w.isSome
  let sess := match s.session p0 with
    | some x => x.owner != w
    | none => false
  let stp := (upTo (min 3 (SqEntry_param e 9))).any fun i =>
    let (off, m, v) := stageTriple e i
    let old := s.propose (s.stage w).slots off
    touchesStp off (changedMask off old ((old &&& ~~~ m) ||| (v &&& m)))
  let wo := (upTo (min 3 (SqEntry_param e 9))).any fun i =>
    let (off, m, _) := stageTriple e i
    m != 0 && (m &&& fieldsMask off fun f => f.acc.staged) == 0
  let auth := s.on SNT_AUTHSTAT0_OPEN
  if (op == 0x10 || op == 0x11) && vi then some 0x30
  else if op == 0x10 && wo then some 0x30
  else if 0x30 ≤ op && op ≤ 0x35 && vi && s.scOwner p0 != w then some 0x31
  else if 0x40 ≤ op && op ≤ 0x44 && vi && s.dcOwner p0 != w then some 0x31
  else if op == 0x50 && (match w with
      | some v => p0 != 0 || !bitOf (s.get CRD_VIPERM_VIS) v.val
      | none => false) then some 0x31
  else if 0x51 ≤ op && op ≤ 0x53 && sess then some 0x31
  else if (op == 0x60 || op == 0x61) && s.get (LMP_CFG_OWNER p0) != whoCode w then some 0x31
  else if op == 0x62 && vi && s.get (LMP_CFG_OWNER p0) != whoCode w then some 0x31
  else if (op == 0x96 || op == 0xA4) && !auth then some 0x32
  else if op == 0xA3 && !auth && ((upTo 4).any fun k => s.on (SNT_SVCKEY_VALID k)) then some 0x32
  else if op == 0x10 && stp && !auth then some 0x32
  else none

/-- MSI-X vectors of an owner's function (Table 8-2). -/
def vecLimit : Who → Nat
  | none => 64
  | some _ => 8

/-- Check 7: ranges and alignments of the values (0x13, 0x12), as each opcode's chapter gives them. -/
def State.valueCheck (s : State) (ring : RingId) (e : SqEntry) : Option Nat :=
  let w := whoOf ring
  let p := SqEntry_param e
  let area (addr base : Nat) : Option Nat :=
    let k := p 5 % 16
    if paramAddr e 1 % addr != 0 || paramAddr e 3 % base != 0 then some 0x12
    else if vecLimit w ≤ p 5 / 256 % 64 then some 0x13
    else if addr = 16 && 8 < k then some 0x13
    else if addr = 64 && (k < 4 || 12 < k) then some 0x13
    else none
  let bad (b : Bool) : Option Nat := if b then some 0x13 else none
  match e.op.toNat with
  | 0x10 => bad (p 9 == 0 || 3 < p 9)
  | 0x16 => bad (65535 < p 0)
  | 0x23 => bad (p 0 != 1 && p 0 != 2)
  | 0x24 => bad (2 < p 0)
  | 0x25 => bad (2 < p 0)
  | 0x28 => bad (2 < p 0)
  | 0x30 => area 16 32
  | 0x32 => if paramAddr e 1 % 16 != 0 then some 0x12 else none
  | 0x36 => bad (3 < p 0)
  | 0x40 => area 64 4096
  | 0x52 => bad (p 1 < 4 || 2048 < p 1)
  | 0x53 => bad (1 < p 1 || (p 1 == 1 && (p 2 == 0 || s.get CRD_EXCLMAX_FRAMES < p 2)))
  | 0x60 => bad (4095 < p 1)
  | 0x61 => bad (4 < p 1)
  | 0x90 => bad (0x100000 < p 1 + e.len.toNat)
  | _ => none

/-- Checks 6 and 7 of R239.
(Log: DEDUCED 87) -/
def State.cmdCheck (s : State) (ring : RingId) (e : SqEntry) : Option Nat :=
  match s.permCheck ring e with
  | some st => some st
  | none => s.valueCheck ring e

/-! ## Fetching (R228 to R230) -/

/-- Command slots of a ring (R229). -/
def ringSlots : RingId → Nat
  | .sub => 64
  | _ => 16

/-- Fetched commands of a ring, in fetch order. -/
def State.ringCmds (s : State) (r : RingId) : List Cmd := s.rng.cmds.filter fun c => c.ring == r

/-- Completion slots of a ring that can still be reserved (R229). -/
def State.cqFree (s : State) (r : RingId) : Nat :=
  let k := ringKey r
  let c := ringSize (s.get (RNG_CQSIZE_LOG2 k))
  let unread := (s.get (RNG_CQTAIL_WR k) + c - (s.ring r).cqHead) % c
  c - 1 - unread - (s.ringCmds r).length - (s.ring r).held.length

/-- How many entries one read of a ring may fetch (R228, R229). -/
def State.fetchLimit (s : State) (r : RingId) : Nat :=
  let k := ringKey r
  let n := ringSize (s.get (RNG_SQSIZE_LOG2 k))
  let h := s.get (RNG_SQHEAD_HEAD k)
  let waiting := ((s.ring r).tail + n - h) % n
  min (min 4 waiting) (min (n - h) (min (ringSlots r - (s.ringCmds r).length) (s.cqFree r)))

/-- The residue of a command that ends before it is complete (R244, R336, R339): FW_WRITE's bytes not written, the bytes of response
that a running exchange has received or the length of a CARD_APDU that has not begun; free where the spec gives it no unit.
(Log: DESIGN CHOICE 65; DEDUCED 108) -/
def State.cmdResidue (s : State) (c : Cmd) : State × Nat :=
  match c.entry.op.toNat with
  | 0x90 => (s, c.entry.len.toNat - c.count)
  | 0x52 =>
    match (upTo 2).findSome? fun p => (s.card p).exch.filter fun (e : Exch) => e.who.tag == some c.tag with
    | some e => (s, e.resp.length)
    | none => (s, SqEntry_param c.entry 1)
  | _ => ({ s with free := s.free + 1 }, (Config.freeWord s.free).toNat)

/-- Does the command interface run: CORE, Service firmware and no power-down (R22, R334)? -/
def State.cmdRuns (s : State) : Bool := s.coreRuns && s.on GLB_STATUS_SVC_RUN

/-- May a ring be fetched from? -/
def State.fetchable (s : State) (r : RingId) : Bool :=
  s.cmdRuns && s.served (whoOf r) && !s.rebinding (whoOf r) && s.get (RNG_STAT_STATE (ringKey r)) == 1 &&
    decide (0 < s.fetchLimit r)

/-- The rings in the order of R18 and R230: Admin before Submission, then the VIs from the VI pointer. -/
def State.ringOrder (s : State) : List RingId :=
  let vis := (List.finRange 16).map fun v => RingId.vi v
  let p := s.get FRM_VIPTR_PTR
  [.adm, .sub] ++ vis.drop p ++ vis.take p

/-- The ring granted next. -/
def State.ringPick (s : State) : Option RingId := s.ringOrder.find? fun r => s.fetchable r

/-- One fetched entry: its tag, its slot, and its judgement (R155, R228, R239).
(Log: DEDUCED 87) -/
def State.fetchOne (s : State) (r : RingId) (e : SqEntry) : State :=
  let k := ringKey r
  let n := ringSize (s.get (RNG_SQSIZE_LOG2 k))
  let s := s.put (RNG_SQHEAD_HEAD k) ((s.get (RNG_SQHEAD_HEAD k) + 1) % n)
  let t := s.rng.nextTag
  let dup := (s.ringCmds r).any fun c => c.entry.cid == e.cid
  let c : Cmd := ⟨t, r, s.originOf (whoOf r), e, .fetched, 0, false, false⟩
  let s := { s with rng := { s.rng with nextTag := t + 1, cmds := s.rng.cmds ++ [c] } }
  match s.entryCheck r e dup with
  | some st => s.complete t st 0 0
  | none =>
    if opFwd e.op.toNat then s
    else
      match s.cmdCheck r e with
      | some st => s.complete t st 0 0
      | none => s

/-- The submission entry in 64 bytes (Table 9-3). -/
def sqEntryOf (b : List Byte) : SqEntry :=
  let w (o : Nat) : Word := BitVec.ofNat 32 (leAt b o 4)
  ⟨b.getD 0 0, b.getD 1 0, BitVec.ofNat 16 (leAt b 2 2), w 4, BitVec.ofNat 64 (leAt b 8 8), w 0x10, w 0x14,
    (upTo 10).map fun i => w (0x18 + 4 * i)⟩

/-- Reads the ring's next entries from host memory, at SQBASE + 64 × SQHEAD, under its port and PASID (R209, R225, R228). -/
def State.ringRead (s : State) (r : RingId) : State :=
  let k := ringKey r
  let a := base64 (s.get (RNG_SQBASE_LO_BASE k)) (s.get (RNG_SQBASE_HI_BASE k)) + 64 * s.get (RNG_SQHEAD_HEAD k)
  s.hostRd (whoOf r) a (64 * s.fetchLimit r)

/-- ENTRY_FETCH (R228 to R230, R236, R239): the ring granted next is read, up to 4 entries, and `bytes` is what the read returns. -/
def execEntryFetch (bytes : List Byte) (s : State) : Res :=
  .next <|
    match s.ringPick with
    | some r =>
      let k := s.fetchLimit r
      (upTo k).foldl (fun s i => s.fetchOne r (sqEntryOf (fitTo 64 (bytes.drop (64 * i))))) (s.ringRead r)
    | none => s

/-- FETCH_BUS_ERROR (R228, R214): the read of the ring granted next fails. -/
def execFetchBusError (s : State) : Res :=
  .next <|
    match s.ringPick with
    | some r => ((s.ringRead r).put (RNG_STAT_STATE (ringKey r)) 3).put (RNG_STAT_FETCHERR (ringKey r)) 1
    | none => s

/-! ## Starting (R233) -/

/-- Is it a command of the ring's turn: every earlier one has started, and no fence stands between?
(Log: DEDUCED 86) -/
def State.inTurn (s : State) (c : Cmd) : Bool :=
  let l := (s.ringCmds c.ring).takeWhile fun d => d.tag != c.tag
  l.all (fun d => d.st = .running && !bitOf d.entry.flags.toNat 0) && (l.isEmpty || !bitOf c.entry.flags.toNat 0)

/-- May a command start: its owner is served, it is its turn, and a forwarded one has passed Sentinel's checks?
(Log: DEDUCED 86) -/
def State.mayRun (s : State) (c : Cmd) : Bool :=
  s.cmdRuns && s.served (whoOf c.ring) && !s.rebinding (whoOf c.ring) && s.inTurn c &&
    (if opFwd c.entry.op.toNat then decide (c.st = .granted) else decide (c.st = .fetched))

/-- SNT_MBXSTAT shows the occupied slots (R438). -/
def State.mbxShow (s : State) : State := s.put SNT_MBXSTAT_BUSY (2 ^ s.snt.mbx.length - 1)

/-- A command starts; its mailbox slot is free, except a COMMIT's, which is answered at the commit tick (R156).
(Log: DEDUCED 82) -/
def State.begin (s : State) (t : Tag) (op : Nat) : State :=
  let s := s.modCmd t fun c => { c with st := .running }
  if op == 0x14 || op == 0x16 then s
  else ({ s with snt := { s.snt with mbx := s.snt.mbx.filter fun m => !quotes t m.req } }).mbxShow

/-- A refusal is counted, with its status if Sentinel gave one (R155, R156, R438).
(Log: DEDUCED 84) -/
def State.mbxRefused (s : State) (status : Option Nat) : State :=
  let s := s.count SNT_MBXSTAT_REFUSED
  match status with
  | some v => s.put SNT_MBXSTAT_LAST v
  | none => s

/-- Sentinel refuses a request: the count, the record with the origin and the status of the failing check (R156). -/
def State.mbxRefuse (s : State) (o : Origin) (status : Nat) : State :=
  (s.mbxRefused (some status)).log 0x5004 o.code [some status]

/-- A STAGE_WRITE refused for want of an authorisation counts as a denied staged write (R158). -/
def State.stageDenied (s : State) (o : Origin) (w : Who) (e : SqEntry) : State :=
  let hit := (upTo (min 3 (SqEntry_param e 9))).findSome? fun i =>
    let (off, m, v) := stageTriple e i
    let old := s.propose (s.stage w).slots off
    let k := changedMask off old ((old &&& ~~~ m) ||| (v &&& m))
    if touchesStp off k then some (off, k) else none
  match hit with
  | some (off, k) => s.stageDeny o off k
  | none => s

/-- What Sentinel's refusal of a request leaves: the record, and for a staged write the denial (R156, R158). -/
def State.refuseNote (s : State) (c : Cmd) (e : SqEntry) (status : Nat) : State :=
  let s := s.mbxRefuse c.origin status
  if status == 0x32 && e.op == 0x10 then s.stageDenied c.origin (whoOf c.ring) e else s

/-- A command fails check 6 or 7 at its start: a forwarded one is refused by Sentinel (R156). -/
def State.refuseCmd (s : State) (c : Cmd) (status : Nat) : State :=
  let s := if opFwd c.entry.op.toNat then s.refuseNote c c.entry status else s
  (s.complete c.tag status 0 0).mbxShow

/-- Runs opcode `op` for the command with tag `t`, if it may start: checks 6 and 7 are judged again at the start. -/
def State.run (s : State) (t : Tag) (op : Nat) (f : State → Cmd → State) : State :=
  match s.cmd t with
  | some c =>
    if c.entry.op.toNat == op && s.mayRun c && !s.hst.pri.any fun q => q.tgt == .buf t then
      match s.cmdCheck c.ring c.entry with
      | some st => s.refuseCmd c st
      | none => (f (s.begin t op) { c with st := .running }).mbxShow
    else s
  | none => s

/-- Runs a long command (R244): it starts as any other, and once it runs it goes on; `f` is told whether it starts. -/
def State.runLong (s : State) (t : Tag) (op : Nat) (f : State → Cmd → Bool → State) : State :=
  match s.cmd t with
  | some c =>
    if c.st = .running then
      if c.entry.op.toNat == op && s.cmdRuns && !s.hst.pri.any fun q => q.tgt == .buf t then (f s c false).mbxShow else s
    else s.run t op fun s c => f s c true
  | none => s

/-! ## Doorbells and ring control -/

/-- The bad value of a doorbell (R227): BADDB and the record with the doorbell's offset.
(Log: DEDUCED 123) -/
def State.badDoorbell (s : State) (r : RingId) (off : Nat) : State :=
  let o := match r with
    | .vi _ => off
    | _ => ringKey r + off
  (s.put (RNG_STAT_BADDB (ringKey r)) 1).badAccess (whoOf r) o

/-- SQ_DOORBELL (R227).
(Log: DEDUCED 123) -/
def execSqDoorbell (r : RingId) (v : Word) (s : State) : Res :=
  .next <|
    let k := ringKey r
    let n := ringSize (s.get (RNG_SQSIZE_LOG2 k))
    let t := (s.ring r).tail
    let free := (s.get (RNG_SQHEAD_HEAD k) + 2 * n - t - 1) % n
    if !s.ringReach r || v.toNat == t then s
    else if n ≤ v.toNat || free < (v.toNat + n - t) % n then s.badDoorbell r 0x0C
    else s.modRing r fun x => { x with tail := v.toNat }

/-- CQ_DOORBELL (R229, R232): completion entries are returned; a head that passes the write index is refused like a tail.
(Log: DEDUCED 123) -/
def execCqDoorbell (r : RingId) (v : Word) (s : State) : Res :=
  .next <|
    let k := ringKey r
    let n := ringSize (s.get (RNG_CQSIZE_LOG2 k))
    let h := (s.ring r).cqHead
    if !s.ringReach r then s
    else if n ≤ v.toNat || (s.get (RNG_CQTAIL_WR k) + n - h) % n < (v.toNat + n - h) % n then s.badDoorbell r 0x20
    else s.modRing r fun x => { x with cqHead := v.toNat }

/-- A ring starts afresh (R226). -/
def State.ringStart (s : State) (r : RingId) : State :=
  let k := ringKey r
  let s := ((s.put (RNG_SQHEAD_HEAD k) 0).put (RNG_CQTAIL_WR k) 0).put (RNG_CQTAIL_PHASE k) 1
  (s.put (RNG_STAT_STATE k) 1).modRing r fun x => { x with tail := 0, cqHead := 0, unsig := 0, reen := false }

/-- RING_ENABLE (R226): EN goes from 0 to 1; on a ring that is not STOPPED it waits for STOPPED. -/
def execRingEnable (r : RingId) (s : State) : Res :=
  .next <|
    let k := ringKey r
    if !s.ringReach r || s.on (RNG_CTL_EN k) then s
    else
      let s := s.put (RNG_CTL_EN k) 1
      if s.get (RNG_STAT_STATE k) == 0 then s.ringStart r else s.modRing r fun x => { x with reen := true }

/-- RING_DISABLE (R226): EN becomes 0 and the ring drains. -/
def execRingDisable (r : RingId) (s : State) : Res :=
  .next <|
    let k := ringKey r
    if s.ringReach r && s.on (RNG_CTL_EN k) then
      ((s.put (RNG_CTL_EN k) 0).put (RNG_STAT_STATE k) 2).modRing r fun x => { x with reen := false }
    else s

/-- RING_DRAINED (R226): every fetched command has completed and its entry is written. -/
def execRingDrained (r : RingId) (s : State) : Res :=
  .next <|
    let k := ringKey r
    if s.get (RNG_STAT_STATE k) == 2 && (s.ringCmds r).isEmpty && (s.ring r).held.isEmpty then
      let s := s.put (RNG_STAT_STATE k) 0
      if (s.ring r).reen then s.ringStart r else s
    else s

/-- COALESCE_TIMEOUT (R234): COAL_TIME frames since the first unsignalled entry. -/
def execCoalesceTimeout (r : RingId) (s : State) : Res :=
  .next <|
    let x := s.ring r
    if 0 < x.unsig && s.get (RNG_CQVEC_COAL_TIME (ringKey r)) != 0 && s.due x.unsigEnd then s.raiseRing r else s

/-! ## The Event ring's registers (R455) -/

/-- EV_DOORBELL (R235, R455): the driver returns entries, and held entries may follow. -/
def execEvDoorbell (v : Word) (s : State) : Res :=
  .next <|
    let n := ringSize (s.get RNG_EVSIZE_LOG2)
    let h := s.rng.evHead
    let x := v.toNat % 65536
    if !s.ownerReach then s
    else if n ≤ x || (s.get RNG_EVTAIL_WR + n - h) % n < (x + n - h) % n then s.badAccess none 0xB08C
    else ({ s with rng := { s.rng with evHead := x } }).evPost

/-- EVSIZE_WRITE (R10, R455): the Event ring is enabled, resized or disabled; a reserved size is not stored.
(Log: DEDUCED 124) -/
def execEvsizeWrite (v : Word) (s : State) : Res :=
  .next <|
    let l := v.toNat % 16
    let old := s.get RNG_EVSIZE_LOG2
    if !s.ownerReach || (l != 0 && l < 4) || 12 < l then s
    else
      let s := s.put RNG_EVSIZE_LOG2 l
      if old == 0 && l != 0 then
        let s := (s.put RNG_EVTAIL_WR 0).put RNG_EVTAIL_PHASE 1
        ({ s with rng := { s.rng with evHead := 0 } }).evPost
      else s

end Sys2Proof.Machine
end

