-- ==== Sys2Proof/Machine/Commit.lean ====
section
/-!
DEFINITION. The commit tick (chapter 07): applying a taken stage, and what the change of a setting does to the block it
belongs to.
-/

namespace Sys2Proof.Machine

/-- A subchannel that is not IDLE loses its owner or port (R265): its halt's record goes to the Owner as SC_REASSIGNED, and
it becomes IDLE.
(Log: DEDUCED 136) -/
def State.scReassign (s : State) (n : Nat) : State :=
  let r := s.scResid n
  let a := s.scAddr n
  let old := (s.reg (0xC000 + 4 * n)).toNat
  let s := s.storeDrainAll.log 0x8003 n [some (r + 0x60 * 2 ^ 16), some old, none, some a]
  s.scLeave n

/-- A committed CPE_SCCFG[n] (R246, R265).
(Log: DEDUCED 136) -/
def State.applySc (s : State) (n : Nat) (w : Word) : State :=
  let off := 0xC000 + 4 * n
  let old := s.reg off
  let moved := fieldOf old 8 5 != fieldOf w 8 5 || fieldOf old 16 4 != fieldOf w 16 4
  let s := if moved && s.scSt n != scIDLE then s.scReassign n else s
  s.setReg off w

/-- A committed BMV_DCCFG[n] (R290, R312): a new OWNER waits for the abort of a chain in progress.
(Log: DEDUCED 136) -/
def State.applyDc (s : State) (n : Nat) (w : Word) : State :=
  let off := 0xE000 + 4 * n
  let old := fieldOf (s.reg off) 8 5
  if old != fieldOf w 8 5 && s.dcSt n != dcIDLE then
    (s.setReg off (withField w 8 5 old)).dcBegin n (.reassign w)
  else s.setReg off w

/-- A committed BMV_XOWN[i] (R293): each block that changes owner waits for the bursts in flight to it. -/
def State.applyXown (s : State) (i : Nat) (w : Word) : State :=
  ((upTo 4).foldl (fun t k =>
    let b := 4 * i + k
    let o := w.toNat / 2 ^ (8 * k) % 256
    let l := t.bmv.xpend.filter fun q => q.1 != b
    { t with bmv := { t.bmv with xpend := if t.xowner b == o then l else l ++ [(b, o)] } }) s).xSettle

/-- A committed binding (R205): the old port serves until the bursts in flight are complete; work resumes at the tick after
the commit tick, or once they are.
(Log: DEDUCED 135) -/
def State.applyBind (s : State) (who : Who) (f : FRef) (w : Word) : State :=
  let old := s.get f
  let s :=
    if old != fieldOf w f.lo f.w then
      let l := s.hst.rebind.filter fun r => r.1 != who
      { s with hst := { s.hst with rebind := l ++ [(who, s.portOf who, s.tb.ticks + 2)] } }
    else s
  s.setReg f.off w

/-- A committed DPT_GPIOCFG[g] (R366): a pin that becomes an output starts at the level it reads. -/
def State.applyGpio (s : State) (g : Nat) (w : Word) : State :=
  let off := 0x10200 + 4 * g
  let s :=
    if fieldOf (s.reg off) 0 1 == 0 && fieldOf w 0 1 == 1 then
      s.put DPT_GPIOOUT_LEVELS (setBit (s.get DPT_GPIOOUT_LEVELS) g (bitOf (s.get DPT_GPIOIN_LEVELS) g))
    else s
  s.setReg off w

/-- A committed PSQ_RAILCFG[n]: a slot whose USE becomes 0 leaves sequencing with EN low (R52). -/
def State.applyRail (s : State) (n : Nat) (w : Word) : State :=
  let was := s.used n
  let s := s.setReg (0x4100 + 4 * n) w
  if was && !s.used n then s.railUnuse n else s

/-- A committed PSQ_SWCFG: only a LEADER drives pulses, and a device whose role is OFF never drives SWARM (R71). -/
def State.applySwCfg (s : State) (w : Word) : State :=
  let s := s.setReg 0x4010 w
  let s := if s.get PSQ_SWCFG_ROLE == 2 then s else { s.put PSQ_SWCTL_RESYNC 0 with sw := { s.sw with pulse := none } }
  if s.get PSQ_SWCFG_ROLE == 0 then { s with sw := { s.sw with claimed := false, claimDue := false } } else s

/-- An I3C port that is enabled sends RSTDAA, then SETAASA or ENTDAA as DAA selects (R356). -/
def State.itEnable (s : State) (x : Nat) : State :=
  let g := (s.reg (0x10000 + 4 * x)).toNat
  if g % 2 = 1 then (s.emit (.devCtl x 0x0600 0x7E)).emit (.devCtl x (if bitOf g 1 then 0x0700 else 0x2900) 0x7E) else s

/-- A committed LMP_CFG[c] (R397): a channel that is no longer enabled sinks nothing. -/
def State.applyLamp (s : State) (c : Nat) (w : Word) : State :=
  let s := s.setReg (0x8000 + 4 * c) w
  if s.on (LMP_CFG_EN c) then s else s.lampOff c

/-- One register takes its committed value (R172), with what the change does at once. -/
def State.applyItem (s : State) (i : JItem) : State :=
  let o := i.off
  if 0xC000 ≤ o && o < 0xC080 then s.applySc ((o - 0xC000) / 4) i.new
  else if 0xE000 ≤ o && o < 0xE040 then s.applyDc ((o - 0xE000) / 4) i.new
  else if 0xE500 ≤ o && o < 0xE540 then s.applyXown ((o - 0xE500) / 4) i.new
  else if o = 0xA00C then s.applyBind none HST_OWNBIND_PORT i.new
  else if 0xA040 ≤ o && o < 0xA080 then
    let v := (o - 0xA040) / 4
    s.applyBind (whoOfCode v) (HST_VIBIND_PORT v) i.new
  else if 0x8000 ≤ o && o < 0x8020 then s.applyLamp ((o - 0x8000) / 4) i.new
  else if 0x4100 ≤ o && o < 0x4160 then s.applyRail ((o - 0x4100) / 4) i.new
  else if o = 0x4010 then s.applySwCfg i.new
  else if 0x10200 ≤ o && o < 0x10280 then s.applyGpio ((o - 0x10200) / 4) i.new
  else if (o = 0x10018 || o = 0x1001C) && fieldOf i.old 0 1 == 0 then (s.setReg o i.new).itEnable ((o - 0x10000) / 4)
  else if o = 0xD000 && fieldOf i.old 0 1 == 1 && fieldOf i.new 0 1 == 0 then (s.setReg o i.new).cchClear
  else s.setReg o i.new

/-- SUP_COCSTAT follows the committed settings (R122). -/
def State.cocShow (s : State) : State :=
  (s.put SUP_COCSTAT_VTGT (satTo 9 (cocTarget s.reg))).put SUP_COCSTAT_TSHUT (satTo 16 (tShut s.reg))

/-- The items of a commit, in ascending register offset (R182). -/
def State.commitItems (s : State) (l : List Slot) : List JItem :=
  (sortDistinct (l.map fun x => x.off)).filterMap fun o =>
    let new := s.propose l o
    if new = s.reg o then none else some (jItem o (s.reg o) new)

/-- The stage of an applied COMMIT is discarded (R167); a COMMIT of fields of its own has none. -/
def State.commitClear (s : State) (c : Commit) : State := if c.own.isNone then s.stageClear c.who else s

/-- A COMMIT from CHR_CTL is over: its status is 0 (R436). -/
def State.commitReg (s : State) (c : Commit) : State :=
  match c.from_ with
  | .reg => ((s.put CHR_CTL_COMMIT 0).setReg 0x2018 0)
  | _ => s

/-- The taken COMMIT meets its tick (R158, R172, R175): refused for want of an open authorisation, without change, or
applied and journalled.
(Log: DESIGN CHOICE 26; DEDUCED 69, 70, 71) -/
def State.commitApply (s : State) (c : Commit) : State :=
  let s := { s with chr := { s.chr with taken := none } }
  let items := s.commitItems (s.commitSlots c)
  let prot := items.any fun i => touchesStp i.off i.mask
  let open_ := s.on SNT_AUTHSTAT0_OPEN && decide (s.tb.ticks + 1 < s.snt.authEnd)
  if prot && !open_ then
    (match c.from_ with
      | .cmd _ => s.mbxRefuse c.origin 0x32
      | _ => s).commitRefuse c 0x32 (0, 0)
  else
    let s := (s.commitClear c).commitReg c
    if items.isEmpty then
      match c.from_ with
      | .cmd t => s.done (BitVec.ofNat 16 t) 0 0
      | .reg => s.put CHR_CMTSEQ_SEQ 0
      | _ => s
    else
      let s := (items.foldl (fun t i => t.applyItem i) s).cocShow
      s.journal ⟨c.origin.code, .commit, prot, c.who.isSome, (match c.who with | some v => v.val | none => 0), items,
        s.frameAt (s.tb.ticks + 1) * 1024, c.from_⟩

/-- COMMIT_APPLY (R172): the commit tick, in phase 1 of the tick that comes.
(Log: DESIGN CHOICE 26) -/
def execCommitApply (s : State) : Res :=
  .next <|
    match s.chr.taken with
    | some c => if c.tick ≤ s.tb.ticks + 1 then s.opened.commitApply c else s
    | none => s

end Sys2Proof.Machine
end

