-- ==== Sys2Proof/Machine/OwnerReset.lean ====
section
/-!
DEFINITION. Reversion of fields, and the resets whose scope is an owner or a port (chapters 08, 14 and 18): VI resets, Link
resets and failover, with the accounting of the items they end.
-/

namespace Sys2Proof.Machine

/-! ## Reversion -/

/-- The kinds of Table 7-7. -/
abbrev kCold : Nat := 1
abbrev kWarm : Nat := 2
abbrev kCore : Nat := 3
abbrev kLink : Nat := 4
abbrev kVi : Nat := 5

/-- Does a field hold a committed setting (R14)? -/
def RField.setting (f : RField) : Bool := f.acc.staged || f.inImage

/-- The committed settings that differ between two register files, as journal items in ascending offset (R14).
(Log: DEDUCED 76) -/
def State.revertItems (s t : State) : List JItem :=
  (sortDistinct ((s.regs ++ t.regs).map fun c => c.1)).filterMap fun off =>
    let changed := (fieldsAt off).any fun f =>
      f.setting && fieldOf (s.reg off) f.lo f.w != fieldOf (t.reg off) f.lo f.w
    if changed then some (jItem off (s.reg off) (t.reg off)) else none

/-- The REVERT entry and the RESET_CAUSE record of a reset of a kind (R14, R409, Table 7-7): `arg` is the port or VI, `lost`
the buffered stores discarded, `ts` the trigger's timestamp.
(Log: DEDUCED 76) -/
def State.resetRecords (s : State) (kind trig arg lost ts : Nat) (items : List JItem) (only : Bool) : State :=
  let s := s.journal ⟨Origin.sentinel.code, .revert, false, false, kind + 256 * arg + 65536 * lost, items, ts, .none⟩
  s.logWith only ts .sentinel 0xE001 kind [some trig, none, none, some ts]

/-! ## The end of an owner's items (R339) -/

/-- The record of a subchannel or channel that a reset ends: SUBJECT is the requester index (Table 14-3). -/
def State.itemRecord (s : State) (only : Bool) (code r status owner st resid addr : Nat) : State :=
  let s := s.touch
  s.logWith only s.now .sentinel code r [some (status + 256 * owner + 65536 * st), some resid, none, some addr]

/-- The record of a command that a reset ends.
(Log: DEDUCED 97) -/
def State.cmdRecord (s : State) (only : Bool) (code status aux : Nat) (c : Cmd) : State :=
  let s := s.touch
  let sqid : Nat := if c.ring = .adm then 1 else 0
  s.logWith only s.now .sentinel code c.origin.code
    [some (c.entry.cid.toNat + 65536 * c.entry.op.toNat + 2 ^ 24 * sqid), some status, some aux]

/-- A reset ends the chain of subchannel `n`: its SEQ is kept (R266, R339). -/
def State.scReset (s : State) (n status : Nat) (only : Bool) : State :=
  let s :=
    if s.scSt n == scIDLE then s
    else s.itemRecord only 0x7008 n status (s.scCode n) (s.scSt n) (s.scResid n) (s.scAddr n)
  s.scLeave n

/-- A reset ends the chain of channel `n`; commands that waited for its stop complete. -/
def State.dcReset (s : State) (n status : Nat) (only : Bool) : State :=
  let s :=
    if s.dcSt n == dcIDLE then s
    else s.itemRecord only 0x7008 (32 + n) status (s.dcCode n) (s.dcSt n) (s.dcResid n) (s.dcAddr n)
  ((s.dcWaitsDone n 0).dcLeave n).xSettle

/-- A reset ends a fetched command: its record, and its ledger slot is free. A COMMIT of it that waits goes with it; one that
is taken applies. -/
def State.cmdReset (s : State) (status : Nat) (only : Bool) (c : Cmd) : State :=
  let (s, aux) := s.cmdResidue c
  let s := ((s.cmdRecord only 0x7009 status aux c).dropCmd c.tag).freeSP0
  let mine (x : Commit) : Bool := x.from_ == .cmd c.tag.toNat
  { s with chr := { s.chr with
    waiting := s.chr.waiting.filter fun x => !mine x
    taken := s.chr.taken.map fun (x : Commit) => if mine x then { x with from_ := .none } else x } }

/-- Register keys within the scope of an owner's reset: its ring set, its stage registers and, for a VI, its own tables. -/
def ownerScope (w : Who) (off : Nat) : Bool :=
  match w with
  | none => decide (0xB000 ≤ off) && decide (off < 0xB0A0)
  | some v => decide (vfBase v.val ≤ off) && decide (off < vfBase v.val + 0x4000)

/-- The rings of an owner. -/
def ringsOf : Who → List RingId
  | none => [.adm, .sub]
  | some v => [.vi v]

/-- How many of an owner's items are in progress: what a reset of it aborts. -/
def State.ownerItems (s : State) (w : Who) : Nat :=
  (upTo 32).countP (fun n => s.scOwner n == w && s.scSt n != scIDLE) +
    (upTo 16).countP (fun n => s.dcOwner n == w && s.dcSt n != dcIDLE) +
    s.rng.cmds.countP fun c => whoOf c.ring == w

/-- Ends everything of an owner (R339, R387, R401, Table 11-2): answers how many stores were discarded. `only`: the Owner ring set is
within the reset's scope, so the records go to the Event Log alone. -/
def State.ownerEnd (s : State) (w : Who) (status : Nat) (only : Bool) : State × Nat :=
  let s := (upTo 32).foldl (fun t n => if t.scOwner n == w then t.scReset n status only else t) s
  let s := (upTo 16).foldl (fun t n => if t.dcOwner n == w then t.dcReset n status only else t) s
  let s := (s.rng.cmds.filter fun c => whoOf c.ring == w).foldl (fun t c => t.cmdReset status only c) s
  let s := s.cardOwnerReset w
  let (s, lost) := s.storesDrop fun o => o == whoCode w
  let s := s.modCch fun c => (c.drop fun l => l.owner == whoCode w).1
  let s := { s with hst := { s.hst with
    held := s.hst.held.filter fun h => h.1 != w
    rebind := s.hst.rebind.filter fun r => r.1 != w } }
  let s := (ringsOf w).foldl (fun t r => t.modRing r fun _ => RingX.idle) s
  let s : State := match w with
    | some v =>
      let s : State := { s with chr := { s.chr with vis := modAt s.chr.vis v.val fun _ => ⟨[], false⟩ } }
      (upTo 8).foldl (fun t c => if t.get (LMP_CFG_OWNER c) == v.val then t.lampClear c else t) s
    | none => { s with rng := { s.rng with evHead := 0 } }
  (s.mbxShow, lost)

/-- The fields that revert within an owner's scope (Table 18-5): code NONE. -/
def State.ownerRevert (s : State) (w : Who) : State :=
  { s with regs := keepRegs (fun off f => !ownerScope w off || f.held != .none) s.regs }

/-- A VI reset (R216, R339, R408): `trig` is its trigger. -/
def State.viReset (s : State) (v : Fin 16) (trig : Nat) : State :=
  let s := s.touch
  let ts := s.now
  let (t, lost) := s.ownerEnd (some v) 0x62 false
  let t := t.ownerRevert (some v)
  t.resetRecords kVi trig v.val lost ts (s.revertItems t) false

/-! ## Service of owners (R203, R204, R338) -/

/-- The bit of HST_FOSTAT that shows an owner. -/
def servedBit : Who → FRef
  | some v => ⟨0xA014, v.val, 1⟩
  | none => HST_FOSTAT_OWN_SERVED

/-- An owner turns ORPHAN: its items are held at their next burst boundary (R204, R329, R338). -/
def State.orphanEnter (s : State) (w : Who) : State :=
  let s := (s.put (servedBit w) 0).log 0x7004 (match w with | some v => v.val | none => 0xFF) [some 1]
  s.holdAll 6 none (fun n => s.scOwner n == w) (fun n => s.dcOwner n == w)

/-- What was held for an owner is written, in order (R206, R338). -/
def State.flushOwner (s : State) (w : Who) : State :=
  let s := s.hostFlush w
  let s := (ringsOf w).foldl (fun t r => t.postHeld r) s
  if w = none then s.evPost else s

/-- An owner is served again: what was held for it is written in order, and its items resume (R204, R338). -/
def State.orphanExit (s : State) (w : Who) : State :=
  let s := (s.put (servedBit w) 1).log 0x7004 (match w with | some v => v.val | none => 0xFF) [some 0]
  let s := s.flushOwner w
  s.unholdAll 64 (fun n => s.scOwner n == w) (fun n => s.dcOwner n == w)

/-- Every owner: the Owner, then the VIs. -/
def owners : List Who := none :: (List.finRange 16).map some

/-- Reports every change between served and ORPHAN (R204): a VI that is not enabled is neither. -/
def State.servedShow (s : State) : State :=
  owners.foldl (fun t w =>
    let now := t.served w
    let was := t.on (servedBit w)
    if now && !was then t.orphanExit w
    else if !now && was then t.orphanEnter w
    else t) s

/-! ## Ports -/

/-- The captures of the reading functions that `p` accepts are dropped: their functions are reset (R36, R433).
(Log: DEDUCED 67) -/
def State.capDrop (s : State) (p : ReadFn → Bool) : State :=
  { s with tb := { s.tb with
    tsCaps := s.tb.tsCaps.filter fun c => !p c.1
    pairCaps := s.tb.pairCaps.filter fun c => !p c.1 } }

/-- Is a reading function one of port `p`'s: the Owner's on it, or the mirror of a VI bound to it? -/
def State.fnOn (s : State) (p : Port) : ReadFn → Bool
  | .owner q => q == p
  | .vf v => s.portOf (some v) == p
  | .smb => false

/-- The port's part of a configuration: link, functions, MSI-X tables and translations (R193, R208, R210, Table 18-1). -/
def State.portReset (s : State) (p : Port) (idle : Bool) : State :=
  let s := (((s.put (linkF p) 0).put (rateF p) 0).put (widthF p) 0).putB (idleF p) idle
  let s := s.put (d3F p) 0
  let fns := List.replicate 17 false
  let cfg := List.replicate 17 FnCfg.reset
  let h : Hst := if p = Port.hpa then { s.hst with fnA := fns, cfgA := cfg, pmeA := false, l23A := false }
    else { s.hst with fnB := fns, cfgB := cfg, pmeB := false, l23B := false }
  let s := { s with hst := { h with
    aer := s.hst.aer.filter fun e => e.1 != p
    flr := s.hst.flr.filter fun e => e.1 != p
    atc := s.hst.atc.filter fun e => e.1 != p
    inval := s.hst.inval.filter fun e => e.1 != p } }
  let s := s.put (if p = Port.hpa then HST_SPDMSTAT_HPA else HST_SPDMSTAT_HPB) 0
  let mine (off : Nat) : Bool :=
    (none :: (List.finRange 16).map some).any fun (w : Who) =>
      let b := msixBase (whoNum w) p.num
      decide (b ≤ off) && decide (off < b + 0x4000)
  (({ s with regs := keepRegs (fun off _ => !(decide (0x200000 ≤ off) && mine off)) s.regs }).capDrop (s.fnOn p)).atcShow

/-- The owners bound to a port. -/
def State.boundTo (s : State) (p : Port) : List Who := owners.filter fun w => s.viEn w && s.portOf w == p

/-- Moves an owner to the other port (R206, R207): its state moves unchanged, pending vectors are raised once there, and the
record goes to the Owner's Event ring. Answers the journal item of the changed binding.
(Log: DEDUCED 111) -/
def State.rebindTo (s : State) (w : Who) (p : Port) : State :=
  let q := p.other
  let f := match w with
    | some v => HST_VIBIND_PORT v.val
    | none => HST_OWNBIND_PORT
  let n := if w.isNone then 64 else 8
  let vecs := (upTo n).filter fun k => s.on (msixPend w p k)
  let s := s.put f q.num
  let s := vecs.foldl (fun t k => (t.put (msixPend w p k) 0).raise w k) s
  let s := s.count HST_FOSTAT_FAILOVERS
  s.log 0x7003 (match w with | some v => v.val | none => 0xFF) [some q.num]

/-- Would failover move an owner off port `p` (R206): AUTO, and it would be served on the other port, whose link did not go
down in the same frame (R208)? -/
def State.failsOver (s : State) (p : Port) (w : Who) : Bool :=
  s.on HST_FOCFG_AUTO && !(s.hst.downA.isSome && s.hst.downA = s.hst.downB) && s.servedOn w p.other

/-- Failover off port `p` (R206): those that can move, with one journal entry of the changed bindings.
(Log: DEDUCED 71, 111) -/
def State.failoverFrom (s : State) (p : Port) : State :=
  let l := (s.boundTo p).filter fun w => s.failsOver p w
  if l.isEmpty then s
  else
    let t := l.foldl (fun t w => t.rebindTo w p) s
    let t := t.touch
    t.journal ⟨Origin.sentinel.code, .commit, false, false, 0, s.revertItems t, t.now, .change⟩

/-- A Link reset of port `p` (R193, R208, R408): it acts as a VI reset on every owner still bound to the port, and its fields
revert.
(Log: DEDUCED 92) -/
def State.linkReset (s : State) (p : Port) (trig : Nat) : State :=
  let s := s.touch
  let ts := s.now
  let l := s.boundTo p
  let (t, lost) := l.foldl (fun (a : State × Nat) w =>
    let (t, n) := a.1.ownerEnd w 0x63 (l.contains none)
    (t.ownerRevert w, a.2 + n)) (s, 0)
  let t := t.portReset p false
  t.resetRecords kLink trig p.num lost ts (s.revertItems t) (l.contains none)

/-- Non-posted requests outstanding on port `p` are discarded and roll back to the start of their bursts (R206, R337): a
burst in flight of an owner bound there is not yet written.
(Log: DEDUCED 96) -/
def State.rollback (s : State) (p : Port) : State :=
  let s := (upTo 32).foldl (fun t n =>
    if t.portOf (t.scOwner n) == p then
      t.modCch fun c => { c with miss := match c.miss with
        | some m => if m.sub == n then none else some m
        | none => none }
    else t) s
  (upTo 16).foldl (fun t n =>
    if t.portOf (t.dcOwner n) == p then
      (t.modChan n fun c => { c with flight := [], issued := c.conf, written := c.conf, resp := none, fetching := false
                                     preAsk := false, pre := if c.preAsk then none else c.pre }).dcProgress n
    else t) s

end Sys2Proof.Machine
end

