-- ==== Sys2Proof/Machine/Resets.lean ====
section
/-!
DEFINITION. Stops and restarts of CORE, Core and Warm resets, Autonomous mode and the boot order (chapters 01, 06, 14 and 18).
-/

namespace Sys2Proof.Machine

/-! ## What a stop of CORE leaves -/

/-- The item state of Table 20-10. -/
def itemState (off : Nat) (f : RField) : Bool :=
  (decide (0xC080 ≤ off) && decide (off < 0xC400)) ||
    (decide (0xE040 ≤ off) && decide (off < 0xE240) && !(decide (off < 0xE080) && f.lo == 4))

/-- The fields that a Core reset leaves (Table 18-5): those of AON, the settings, and retained item state; the level of a
GPIO input is the pin's.
(Log: DEDUCED 36) -/
def keepCore (retained : Bool) (off : Nat) (f : RField) : Bool :=
  f.acc == .fix || f.dom == .aon || f.held == .nv || f.held == .bat || f.held == .warm || off == 0x102A0 ||
    (retained && itemState off f)

/-- The fields that a Warm reset leaves.
(Log: DEDUCED 45) -/
def keepWarm (off : Nat) (f : RField) : Bool :=
  f.acc == .fix || f.held == .nv || f.held == .bat || f.held == .warm || off == 0x102A0

/-- Both transmitters are in electrical idle and no link is up; with CORE stopped a card port shows presence and cause alone (R465). -/
def State.linksIdle (s : State) : State :=
  let s := [Port.hpa, Port.hpb].foldl (fun t p =>
    ((((t.put (linkF p) 0).put (rateF p) 0).put (widthF p) 0).put (d3F p) 0).put (idleF p) 1) s
  (upTo 2).foldl (fun t p => t.put (CRD_PSTAT_STATE p) 0) s

/-- Every owner that was served turns ORPHAN as both links go down: its record (R193, R204). -/
def State.orphanRecords (s : State) : State :=
  owners.foldl (fun t w =>
    if t.on (servedBit w) then
      (t.put (servedBit w) 0).log 0x7004 (match w with | some v => v.val | none => 0xFF) [some 1]
    else t) s

/-- The registers of CORE after its stop, which takes both links down (R193). -/
def State.coreRegs (s : State) (retained : Bool) : State :=
  let s := s.orphanRecords
  ({ s with regs := keepRegs (keepCore retained) s.regs }).linksIdle

/-- The CORE domain's internal state after its stop: retained item state stays (R335, R452), all else goes. The snapshot of a
COMMIT that a command asked for goes with the command, unless it is taken.
(Log: DEDUCED 125) -/
def State.coreClear (s : State) (retained : Bool) : State :=
  let s := (upTo 50).foldl (fun t r => t.admDrop r) s
  let s := { s with
    rng := { s.rng with
      rings := State.blank.rng.rings, cmds := [], evHead := 0, quiet := if retained then s.rng.quiet else [] }
    hst := { State.blank.hst with
      perstA := s.hst.perstA, perstB := s.hst.perstB
      held := if retained then s.hst.held else [] }
    dpt := { State.blank.dpt with
      ports := (s.dpt.ports.zip State.blank.dpt.ports).map fun (x : DPort × DPort) => { x.2 with ctsHigh := x.1.ctsHigh } }
    bmv := { State.blank.bmv with chans := if retained then s.bmv.chans else State.blank.bmv.chans }
    cpe := if retained then s.cpe else State.blank.cpe
    crd := ⟨(s.crd.ports.zip State.blank.crd.ports).map fun (x : Card × Card) => { x.2 with gen := x.1.gen }, []⟩
    snt := { s.snt with mbx := [], hbEnd := none, svc := none, locked := 0 }
    chr := { s.chr with
      waiting := s.chr.waiting.filter fun c => match c.from_ with | .cmd _ => false | _ => true
      taken := s.chr.taken.map fun (c : Commit) => match c.from_ with | .cmd _ => { c with from_ := .none } | _ => c } }
  (s.modCch fun _ => ⟨[], [], [], [], none, [], 31⟩).mbxShow

/-! ## A stop without a quiesce (R341) -/

/-- The records that Sentinel writes straight from the mirror, ahead of the buffer (R341). -/
def State.mirrorRecords (s : State) (status : Nat) : List Ev :=
  let ev (code subject a0 a1 : Nat) (a2 a3 : Option Nat) : Ev :=
    ⟨Origin.sentinel.code, code, subject, a0, a1, recArg code 2 a2, recArg code 3 a3, recArg code 4 none, s.now, false⟩
  let subs := ((upTo 32).filter fun n => s.scSt n != scIDLE).map fun n =>
    ev 0x700A n (status + 256 * s.scCode n + 65536 * s.scSt n) 0xFFFFFFFF none (some (s.scAddr n))
  let chans := ((upTo 16).filter fun n => s.dcSt n != dcIDLE).map fun n =>
    ev 0x700A (32 + n) (status + 256 * s.dcCode n + 65536 * s.dcSt n) 0xFFFFFFFF none (some (s.dcAddr n))
  let cmds := s.rng.cmds.map fun c =>
    ev 0x700B c.origin.code
      (c.entry.cid.toNat + 65536 * c.entry.op.toNat + 2 ^ 24 * (if c.ring = .adm then 1 else 0)) status (some 0) none
  subs ++ chans ++ cmds

/-- CORE stops without a quiesce: cards, records and the loss of everything it held (R341). Answers the stores lost. -/
def State.coreLost (s : State) (status : Nat) : State × Nat :=
  let s := s.touch
  let recs := s.mirrorRecords status
  let n := s.cch.stores.length
  let s := (upTo 2).foldl (fun t p => t.cardCoreStop p) s
  let s := { s with st := { s.st with evq := recs ++ s.st.evq } }
  ((s.coreClear false).coreRegs false, n)

/-- CORE_EN is released. -/
def State.coreEnOff (s : State) : State :=
  let s := ((s.put RST_CORECTL_CORE_EN 0).put RST_CORECTL_STARTED 0).put GLB_STATUS_SVC_RUN 0
  { s with
    pins := { s.pins with coreEn := false }
    rst := { s.rst with core := false, downEnd := none, downFor := none }
    snt := { s.snt with boot := 4, hbEnd := none } }

/-- Step 5 of Table 6-2: CORE_EN is asserted, and CORE has 64 frames to start (R21, R150).
(Log: DEDUCED 90) -/
def State.coreStart (s : State) : State :=
  let s := ((s.put RST_CORECTL_CORE_EN 1).put RST_CORECTL_STARTED 0).put GLB_STATUS_SVC_RUN 0
  { s with
    pins := { s.pins with coreEn := true }
    rst := { s.rst with core := false, downEnd := none, downFor := none, cocStop := false }
    snt := { s.snt with boot := 5, bootEnd := s.after 64, hbEnd := none } }

/-- A Core reset (R408, R413): AON is untouched. `retained`: CORE was stopped by a domain power-down.
(Log: DEDUCED 36) -/
def State.coreReset (s : State) (trig : Nat) (retained : Bool) (lost : Nat) : State :=
  let s := s.touch
  let t := (s.coreClear retained).coreRegs retained
  let t := (t.put RST_CAUSE_KIND kCore).put RST_CAUSE_TRIGGER trig
  let t := t.resetRecords kCore trig 0 lost s.now (s.revertItems t) false
  ({ t with rst := { t.rst with retained := retained } }).coreStart

/-- RST_CTL_CORE (R408, R413): nothing orders a quiesce for it, so CORE stops without one.
(Log: DEDUCED 88) -/
def execRstCtlCore (s : State) : Res :=
  .next <|
    if s.rst.core then
      let (s, n) := s.coreLost 0x64
      s.coreReset 7 false n
    else s

/-- CORE_POWER_LOSS (R289, R341): CORE power fails; with stores in the buffer the record CCH_STORES_LOST. CORE_EN stays, and
CORE must start again within 64 frames (R21).
(Log: DEDUCED 90) -/
def execCorePowerLoss (s : State) : Res :=
  .next <|
    if s.rst.core then
      let mask := s.get CCH_SBMIRROR_OWNERS
      let (s, n) := s.coreLost 0x64
      let s := if n = 0 then s else s.log 0x8005 0xFF [some n, some mask]
      s.coreStart
    else s

/-! ## Autonomous mode -/

/-- Autonomous mode is entered with a cause of R21 (R22, R25). A running CORE stops without a quiesce (R341).
(Log: DEDUCED 92) -/
def State.autonomousEnter (s : State) (cause : Nat) : State :=
  let s := s.log 0x5008 0 [some cause]
  let s := (s.put GLB_STATUS_AUTONOMOUS 1).put GLB_AUTOCAUSE_CAUSE cause
  let s := s.put GLB_AUTOCAUSE_FRAME (s.tb.frame.toNat % 2 ^ 24)
  let s := if s.rst.core then (s.coreLost 0x64).1 else s
  s.coreEnOff.linksIdle

/-- CORE_START_TIMEOUT (R21): CORE_EN is asserted and CORE has not started within 64 frames. -/
def execCoreStartTimeout (s : State) : Res :=
  .next <|
    if s.snt.boot == 5 && s.on RST_CORECTL_CORE_EN && !s.rst.core && s.due s.snt.bootEnd then
      (s.put RST_CORECTL_TMO 1).autonomousEnter 1
    else s

/-! ## Images (R151, Tables 6-3 and 19-6) -/

/-- An image from its bytes: the header and the body that BODY_LEN names. -/
def imageOf (b : List Byte) : Image := ⟨fitTo 256 b, (b.drop 256).take (leAt b 8 4)⟩

/-- The first failing check of an image, 0 for none (R151): `kind` is that of its location, `limit` its greatest body, `roll` the
rollback counter of its kind. The digest and the signature are computed over the body and the header's bytes 0x000 to 0x06F.
(Log: DEDUCED 95, 101) -/
def State.imageCode (s : State) (i : Image) (kind limit roll : Nat) : Nat :=
  let h := i.hdr
  let len := leAt h 8 4
  let key := leAt h 7 1
  if leAt h 0 4 != 0x31474D57 then 1
  else if leAt h 4 2 != 1 then 2
  else if leAt h 6 1 != kind then 3
  else if len % 64 != 0 || limit < len then 4
  else if 4 ≤ key || s.snt.otpRevoked.contains key then 5
  else if sha384 (i.body.take len) != (h.drop 0x40).take 48 then 6
  else if !p384.verify (s.snt.otpKeys.getD key []) (beNat (sha384 (h.take 0x70))) ((h.drop 0x70).take 96) then 7
  else if leAt h 12 4 < roll || 63 < leAt h 12 4 then 8
  else 0

/-- A Service image (R151).
(Log: DEDUCED 95) -/
def State.serviceCode (s : State) (i : Image) : Nat := s.imageCode i 0 786432 s.snt.rollSvc

/-- The Sentinel patch (R151). -/
def State.patchCode (s : State) (i : Image) : Nat := s.imageCode i 1 65536 s.snt.rollPatch

/-- Where the patch area lies, and its size (Table 7-2). -/
abbrev patchBase : Nat := 0x3C000
abbrev patchSize : Nat := 0x12000

/-- Bytes of the patch area from its offset `o`, as they read where a word has an uncorrectable error.
(Log: DESIGN CHOICE 167) -/
def Store.patchBytes (t : Store) (o : Nat) (l : List Byte) : List Byte :=
  l.zipIdx.map fun c =>
    if t.ecc.contains ((patchBase + o + c.2) / 8) then Config.eccByte (patchBase + o + c.2) else c.1

/-- The patch that the patch area holds: none where the area does not begin with MAGIC (R424). -/
def State.patchRead (s : State) : Option Image :=
  match s.snt.nextPatch with
  | some i =>
    let h := s.st.patchBytes 0 i.hdr
    if leAt h 0 4 = 0x31474D57 then some ⟨h, s.st.patchBytes 256 i.body⟩ else none
  | none => none

/-- Step 2 of Table 6-2 for the patch: run, rejected, or none (R151, R424).
(Log: DEDUCED 103) -/
def State.patchBoot (s : State) : State :=
  match s.patchRead with
  | none => { s.setReg 0x3810 1 with snt := { s.snt with runPatch := none } }
  | some i =>
    let c := s.patchCode i
    if c = 0 then
      let s := (s.setReg 0x3810 2).put SNT_PATCHSTAT_SVN (leAt i.hdr 12 4)
      { s with snt := { s.snt with runPatch := some i } }
    else
      let s := (s.setReg 0x3810 4).put SNT_PATCHSTAT_CAUSE c
      ({ s with snt := { s.snt with runPatch := none } }).log 0x5002 0 [some c]

/-! ## Boot steps 6 to 8 -/

/-- Does the port of subchannel or channel owners hold ORPHAN: the owner is not served (R335, R338)? -/
def State.orphanAll (s : State) : State :=
  s.holdAll 6 none (fun n => !s.served (s.scOwner n)) (fun n => !s.served (s.dcOwner n))

/-- The reload of the item area fails (R421): each retained item is reported lost and is IDLE. -/
def State.itemsLost (s : State) : State :=
  let s := s.touch
  let recs := s.mirrorRecords 0x64
  let s := { s with st := { s.st with evq := recs ++ s.st.evq } }
  let s := { s with cpe := State.blank.cpe, bmv := { s.bmv with chans := State.blank.bmv.chans } }
  { s with regs := keepRegs (fun off f => !itemState off f) s.regs }

/-- The NV copy that a Cold reset loads (R186): the one with the higher SEQ of those that are VALID; `true` is copy B. -/
def Store.nvPick (t : Store) : Option (Bool × NvCopy) :=
  let a := !t.eccIn nvBaseA (nvBaseA + nvSize)
  let b := !t.eccIn nvBaseB (nvBaseB + nvSize)
  if a && b then some (if seqOlder t.nvA.tag t.nvB.tag then (true, t.nvB) else (false, t.nvA))
  else if a then some (false, t.nvA)
  else if b then some (true, t.nvB)
  else none

/-- The replay of the NV fields of one COMMIT entry. -/
def nvReplay (l : List (Nat × Word)) (b : List Byte) : List (Nat × Word) :=
  (upTo (leAt b 18 2)).foldl (fun l i =>
    let o := 24 + 16 * i
    let off := 4 * leAt b o 2
    let m := BitVec.ofNat 32 (leAt b (o + 4) 4) &&& fieldsMask off fun f => f.inImageAt off
    let v := BitVec.ofNat 32 (leAt b (o + 12) 4)
    cellSet resetWord l off ((cellGet resetWord l off &&& ~~~ m) ||| (v &&& m))) l

/-- The NV image with the higher SEQ, and the replay of the journal after it, up to the first entry that is not VALID (R186): the NV
settings that MRAM holds. None without a valid copy.
(Log: DEDUCED 77) -/
def Store.nvMram (t : Store) : Option (List (Nat × Word)) :=
  match t.nvPick with
  | none => none
  | some (_, c) =>
    let later := (t.journal.recs.filter fun r => seqOlder c.tag r.seq).takeWhile fun r => t.recSt .journal r = .valid
    let commits := (later.map fun r => t.recBytes .journal r).filter fun b => leAt b 16 1 == 1
    some (commits.foldl nvReplay c.regs)

/-- Lays an NV image over the register file: every field of the image takes the image's value.
(Log: DEDUCED 77) -/
def State.nvLoad (s : State) (img : List (Nat × Word)) (p : RField → Bool) : State :=
  let offs := sortDistinct ((s.regs ++ img).map fun c => c.1)
  offs.foldl (fun t off =>
    let m := fieldsMask off fun f => f.inImageAt off && p f
    if m = 0 then t else t.setReg off ((t.reg off &&& ~~~ m) ||| (cellGet resetWord img off &&& m))) s

/-- Are CORE's supplies (mV) within the limits of Table 21-2: VDD08, VIO18 and VIO33 (R150, R470)? -/
def suppliesOk (vdd08 vio18 vio33 : Nat) : Bool :=
  decide (760 ≤ vdd08) && decide (vdd08 ≤ 840) && decide (1710 ≤ vio18) && decide (vio18 ≤ 1890) && decide (3135 ≤ vio33) &&
    decide (vio33 ≤ 3465)

/-- CORE_STARTED (R21, R150, R335, R420, R421): steps 5 and 6, with the supplies judged within their limits; without them CORE does not
start. The retention areas are reloaded, DOMAIN clears, an owner not served holds ORPHAN, cards with AUTO_ACT start, and the first
Service slot is tried.
(Log: DEDUCED 89, 91) -/
def execCoreStarted (cfgOk itemOk : Bool) (vdd08 vio18 vio33 : Nat) (s : State) : Res :=
  .next <|
    if s.snt.boot == 5 && s.on RST_CORECTL_CORE_EN && !s.rst.core && !s.rst.low && suppliesOk vdd08 vio18 vio33 then
      let cfg := cfgOk || !s.rst.retBuilt
      let item := itemOk || !s.rst.retBuilt || !s.rst.retained
      let s := (s.putB RST_RETSTAT_CFG_OK cfg).putB RST_RETSTAT_ITEM_OK item
      let s := if cfg then s else
        let t := match s.st.nvMram with
          | some img => s.nvLoad img fun f => f.dom == Dom.core
          | none => s
        t.log 0xE008 0 [some 0]
      let s := if item then s else (s.itemsLost).log 0xE008 0 [some 1]
      let s := { s.put RST_CORECTL_STARTED 1 with
        rst := { s.rst with core := true, retained := false, retBuilt := true }
        snt := { s.snt with boot := 6, bootEnd := s.after 400, slotB := s.on SNT_BOOTCFG_PREF, second := false } }
      let s := (((s.setReg 0x3804 0).put SNT_BOOTSTAT0_FAIL_A 11).put SNT_BOOTSTAT0_FAIL_B 11)
      let s := (s.setReg 0x3808 0).setReg 0x380C 0
      let s := s.orphanAll.unholdAll 32 (fun _ => true) (fun _ => true)
      let s := (upTo 2).foldl (fun t p => t.putB (CRD_PSTAT_STATE p) (t.on (CRD_PSTAT_PRESENT p))) s
      (upTo 2).foldl (fun t p => t.autoAct p) s
    else s

/-- A slot attempt fails with a code: the other slot follows, or Autonomous mode (R21, R152). -/
def State.slotFail (s : State) (code : Nat) : State :=
  let s := s.put (if s.snt.slotB then SNT_BOOTSTAT0_FAIL_B else SNT_BOOTSTAT0_FAIL_A) code
  if s.snt.second then s.autonomousEnter 2
  else { s with snt := { s.snt with slotB := !s.snt.slotB, second := true, bootEnd := s.after 400 } }

/-- Step 8 restores the pins of the committed configuration: after a Warm or Cold reset each GPIO output's latch takes its pin's level before
the pin is driven, and an enabled I3C port starts (R356, R366, R413). -/
def State.pinsRestore (s : State) : State :=
  let s :=
    if s.pins.gpio then s
    else
      let outs := (upTo 32).foldl (fun m g => if s.on (DPT_GPIOCFG_DIR g) then m + 2 ^ g else m) 0
      let lv := (s.get DPT_GPIOOUT_LEVELS &&& (0xFFFFFFFF - outs)) ||| (s.get DPT_GPIOIN_LEVELS &&& outs)
      { s.put DPT_GPIOOUT_LEVELS lv with pins := { s.pins with gpio := true } }
  (s.itEnable 6).itEnable 7

/-- A verified slot runs (R150, R152): SNT_BOOTSTAT names it, the Service cores are released at ENTRY, heartbeat supervision starts,
and the host ports may train: step 8. -/
def State.slotRun (s : State) (i : Image) : State :=
  let h := i.hdr
  let s := s.put (if s.snt.slotB then SNT_BOOTSTAT0_FAIL_B else SNT_BOOTSTAT0_FAIL_A) 0
  let s := ((s.putB SNT_BOOTSTAT0_SLOT s.snt.slotB).put SNT_BOOTSTAT0_RAN 1).put SNT_BOOTSTAT0_SVN (leAt h 12 4)
  let s := (s.put SNT_BOOTSTAT1_BUILD_ID (leAt h 16 4)).put SNT_BOOTSTAT2_BUILD_ID (leAt h 20 4)
  let s := s.put GLB_STATUS_SVC_RUN 1
  let s := { s with snt := { s.snt with
    boot := 8, svc := some i, entry := leAt h 24 4, hbEnd := some (s.after (s.get SNT_HBCFG_PERIOD)), hbClear := s.after 480000 } }
  [Port.hpa, Port.hpb].foldl (fun t p => t.put (idleF p) 0) s.pinsRestore

/-- SERVICE_SLOT_VERIFY (R150 to R152): the slot's header and body have been copied to SRAM (none: a read error on SP0); their region
is locked and the copy is verified. Verification after the attempt's 400 frames comes too late.
(Log: DEDUCED 101, 166) -/
def execServiceSlotVerify (img : Option (List Byte)) (s : State) : Res :=
  .next <|
    if s.snt.boot == 6 && s.rst.core then
      if s.due s.snt.bootEnd then s.slotFail 9
      else
        match img with
        | none => s.slotFail 10
        | some b =>
          let i := imageOf b
          let s := { s with snt := { s.snt with locked := 256 + i.body.length } }
          let c := s.serviceCode i
          if c != 0 then s.slotFail c else s.slotRun i
    else s

/-- SLOT_TIMEOUT (R152): the slot has not verified within 400 frames. -/
def execSlotTimeout (s : State) : Res :=
  .next <| if s.snt.boot == 6 && s.rst.core && s.due s.snt.bootEnd then s.slotFail 9 else s

/-! ## Warm reset -/

/-- The MRAM test ends with a result (R418).
(Log: DEDUCED 94) -/
def State.bistEnd (s : State) (result : Nat) : State :=
  let s := { s with snt := { s.snt with bistEnd := none } }
  (s.put RST_BISTRES_RESULT result).log 0xE009 0 [some result, some (s.get RST_BISTRES_OFFSET)]

/-- What a Warm reset ends outside the registers: everything of the front end, the rails, the thermal and lamp blocks and
admission (R408 to R412).
(Log: DESIGN CHOICE 21; DEDUCED 30, 80) -/
def State.warmClear (t : State) (joined : Bool) (trig ts : Nat) (calBad : Option Nat) : State :=
  { t with
    tb := { t.tb with tsCaps := [], pairCaps := [], wdRun := 0 }
    rails := State.blank.rails, seq := State.blank.seq, adm := State.blank.adm, lamps := State.blank.lamps
    sup := { State.blank.sup with pfw := t.sup.pfw }
    thm := State.blank.thm
    sw := { t.sw with pulse := none, rejoin := false, resyncReq := t.sw.resyncReq && !joined }
    chr := State.blank.chr
    snt := { t.snt with bistArmed := false, boot := 0, hbEnd := none }
    pins := { t.pins with coreEn := false, throt := false, gpio := false, held := true }
    rst := { t.rst with
      core := false, downEnd := none, downFor := none, cocStop := false, gated := false, wakeEnd := none
      retained := false, adopt := true, warmTick := t.tb.ticks, trig := trig, trigTs := ts, calBad := calBad } }

/-- The registers a Warm reset leaves (R401, R408): a VI's lamp keeps its level and pattern, the Owner's lose them. -/
def State.warmRegs (s : State) : State :=
  (upTo 8).foldl (fun t c =>
    if t.get (LMP_CFG_OWNER c) < 16 then t else (t.put (LMP_LEVEL_LEVEL c) 0).put (LMP_PATTERN_CODE c) 0)
    { s with regs := keepRegs keepWarm s.regs }

/-- The front end's snapshot that adoption reads (R409, R426). -/
def State.warmSnap (s : State) : Word :=
  if s.rst.adopt then s.reg 0x30008
  else BitVec.ofNat 32 (s.get PSQ_SEQSTAT_STATE + 8 * s.get PSQ_SEQSTAT_RETRY + 64 * b2n s.sup.pfw +
    128 * s.railMask fun st => st == rlFLAGGED)

/-- A Warm reset begins (R408 to R412): what it records, what it ends, what reverts, and what the outputs do until adoption.
The record buffer and the store keep what waits in them.
(Log: DEDUCED 76, 94, 98) -/
def State.warmBegin (s : State) (trig : Nat) : State :=
  let s := s.touch
  let ts := s.now
  let calBad := s.rst.calBad
  let snap := s.warmSnap
  let s := if s.snt.bistEnd.isSome then s.bistEnd 2 else s
  let s := s.attemptEnd.authClose 4
  let (s, lost) := s.coreLost 0x65
  let t := s.warmRegs.warmClear (s.on PSQ_SWSTAT_JOINED) trig ts calBad
  let t := (none :: (List.finRange 16).map some).foldl (fun (t : State) (w : Who) => t.stageShow w) t
  let t := (t.setReg 0x30008 snap).linksIdle
  let t := (t.put RST_CAUSE_KIND kWarm).put RST_CAUSE_TRIGGER trig
  t.journal ⟨Origin.sentinel.code, .revert, false, false, kWarm + 65536 * lost, s.revertItems t, ts, .none⟩

/-- Steps 1 to 5 of Table 6-2 after a Warm reset: the trigger's record, the patch, calibration, the THM settings and CORE_EN
(R121, R122, R146, R150, R409, R426).
(Log: DEDUCED 93) -/
def State.warmBoot (s : State) : State :=
  let s := { s with
    pins := { s.pins with bleed := false, throt := true, released := false }
    rst := { s.rst with low := false } }
  let ts := s.rst.trigTs
  let s := s.logAt ts .sentinel 0xE001 kWarm [some s.rst.trig, none, none, some ts]
  let s := if s.rst.trig = 5 then s.logAt ts .sentinel 0x5001 0 [none, none, none, some ts] else s
  let s := match s.rst.calBad with
    | some b => (s.put GLB_STATUS_CAL_FAIL 1).log 0xE00A 0 [some b]
    | none => s
  s.patchBoot.cocShow.coreStart

/-- RST_CTL_WARM (R408). -/
def execRstCtlWarm (s : State) : Res :=
  .next <| if s.rst.low || s.rst.vault then s else (s.warmBegin 6).warmBoot

/-- SENTINEL_WATCHDOG_EXPIRE (R46): 16 consecutive overrun frames cause a Warm reset, with which the watchdog starts again.
(Log: DESIGN CHOICE 21) -/
def execSentinelWatchdogExpire (s : State) : Res :=
  .next <| if s.rst.low || s.rst.vault || s.rst.gated || decide (s.tb.wdRun < 16) then s else (s.warmBegin 4).warmBoot

/-- LOCKSTEP_MISMATCH (R149): a Warm reset, after which SENTINEL_MISMATCH carries the timestamp of the mismatch. -/
def execLockstepMismatch (s : State) : Res :=
  .next <| if s.rst.low || s.rst.vault || s.rst.gated then s else (s.warmBegin 5).warmBoot

/-- RESET_N_LOW (R410): the pin has been low for 2 us; AON stays in reset until it returns high. -/
def execResetNLow (s : State) : Res :=
  .next <|
    if s.rst.low || s.rst.vault then s
    else
      let s := s.warmBegin 3
      { s with rst := { s.rst with low := true, lowFrom := s.tb.ticks } }

/-- RESET_N_LONG (R410): the pin stays low for 16 frames and every output is released to its pull. -/
def execResetNLong (s : State) : Res :=
  .next <| if s.rst.low && s.due (s.rst.lowFrom + 17) then s.releaseOutputs else s

/-- RESET_N_RELEASE (R410): 64 AON cycles after the pin returns high the internal reset ends and the boot order runs. -/
def execResetNRelease (s : State) : Res :=
  .next <| if s.rst.low then s.warmBoot else s

end Sys2Proof.Machine
end

