-- ==== Sys2Proof/Machine/Supervise.lean ====
section
/-!
DEFINITION. Phases 2 and 3 of a frame for PSQ and SUP (chapters 03 and 04): the sweep, the judgement of rails, the energy
ledger, the busbar, the discharge, Cocoon's charging and the snapshots.
-/

namespace Sys2Proof.Machine

/-- Writes a quantity that may lie outside its register's format: the value there is open. -/
def State.putFit (s : State) (f : FRef) (v : Int) (signed : Bool) : State :=
  let lo : Int := if signed then -((2 : Int) ^ (f.w - 1)) else 0
  let hi : Int := if signed then (2 : Int) ^ (f.w - 1) else (2 : Int) ^ f.w
  if lo ≤ v && v < hi then s.putS f v
  else { s.put f (Config.freeWord s.free).toNat with free := s.free + 1 }

/-! ## Phase 2: the sweep (R43, R87, R89) -/

/-- A VS code of 12 bits over 0 to 1.5 V as rail millivolts (R86, R87).
(Log: DEDUCED 40) -/
def railMv (scale code : Nat) : Nat := divU (code % 4096 * 1500 * scale) (4096 * 4096)

/-- The rotating items in their order (R89): 0 the diode cross-check, 1 VSTBY, 2 VDD08, 3 VIO33, 4 VIO18, 5 VCARD_IN, 6 VBAT. -/
def rotItems : List Nat := [0, 1, 2, 3, 0, 4, 5, 6]

/-- The rotating position: a request waiting takes it, unless the due item was displaced in 8 frames in a row. -/
def State.sweepRot (s : State) (v : Nat) : State :=
  match s.sup.adcReq with
  | (i, t) :: l =>
    if s.sup.displaced < 8 then
      let s := { s with sup := { s.sup with adcReq := l, displaced := s.sup.displaced + 1, rotItem := i, rotVal := v } }
      s.done (BitVec.ofNat 16 t) v 0
    else
      { s with sup := { s.sup with
        rotItem := rotItems.getD s.sup.rot 0, rotVal := v, rot := (s.sup.rot + 1) % 8, displaced := 0 } }
  | [] =>
    { s with sup := { s.sup with
      rotItem := rotItems.getD s.sup.rot 0, rotVal := v, rot := (s.sup.rot + 1) % 8, displaced := 0 } }

/-- A 12-bit code over 0 to 1.5 V behind a divider of `k`:1, in mV (R87, R89). -/
def adcMv (k : Nat) (code : BitVec 12) : Nat := divU (code.toNat * 1500 * k) 4096

/-- The signed 12-bit code of +-50 mV across the shunt, as a current in mA (R87, R89). -/
def State.adcShunt (s : State) (code : BitVec 12) : Int := divUInt (code.toInt * 50000000) (2048 * s.get SUP_HSSHUNT_UOHM)

/-- The sweep: what it has converted is stored, the rest keeps the previous frame's values and is marked stale (R43, R89).
(Log: DESIGN CHOICE 158) -/
def State.sweep (s : State) (f : FrameIn) : State :=
  let whole := s.phase 2
  let sr := if whole then 0 else f.staleVs % 2 ^ 24
  let so := if whole then 0 else f.staleOther % 2 ^ 13
  let s := s.forRails fun n t =>
    if t.used n && !bitOf sr n then
      t.put (SUP_RAILSTAT_READING n) (satTo 16 (railMv (t.get (SUP_RAILSCALE_SCALE n)) (f.vs.getD n 0)))
    else t
  let old := s.sup
  let s := { s with sup := { s.sup with
    isMa := (upTo 8).map fun i => if bitOf so i then old.isMa.getD i 0 else (Config.isMa (f.isn.getD i 0)).toNat
    busVs := if bitOf so 8 then old.busVs else adcMv 64 f.bus
    bulkVs := if bitOf so 9 then old.bulkVs else adcMv 64 f.bulk
    shunt := if bitOf so 10 then old.shunt else s.adcShunt f.shunt
    cocVs := if bitOf so 11 then old.cocVs else adcMv 32 f.coc
    staleVs := sr, staleOther := so } }
  let s := if bitOf so 12 then s else s.sweepRot f.rot.toNat
  match s.sup.calReq with
  | some (_, t) =>
    if whole then ({ s with sup := { s.sup with calReq := none } }).done (BitVec.ofNat 16 t) 0 0 else s
  | none => s

/-! ## The fast path's frame: hardware, whatever the phases do (R41, R43, R88) -/

/-- A fast-path code of BUS_VS or BULK_VS in mV: 10 bits over 96 V (R87, R88). -/
def fastMv (code : Nat) : Nat := divU (code * 96000) 1024

/-- The extremes and the mean of the frame that ends at this tick, whose eight bins are complete (R88, R109, R111). A frame that
brings no sample keeps the last extremes and mean.
(Log: DEDUCED 161) -/
def State.fastFrame (s : State) : State :=
  let a := s.sup.fast
  let bins := (List.replicate (7 - binOf (a.cnt - 1)) 0 ++ a.part :: a.bins).take 511
  let s := { s with sup := { s.sup with
    lastRaw := a.frameRaw, accFrames := s.sup.accFrames + 1
    fast := { a with frameRaw := 0, sum := 0, cnt := 0, busLo := 1023, busHi := 0, bulkLo := 1023, bulkHi := 0, part := 0, bins := bins } } }
  if a.cnt = 0 then s
  else { s with sup := { s.sup with
    busMin := fastMv a.busLo, busMax := fastMv a.busHi, bulkMin := fastMv a.bulkLo, bulkMax := fastMv a.bulkHi
    vbulk := divU (a.sum * 96000) (1024 * a.cnt) } }

/-- A count of consecutive frames, up to `top`. -/
def runUp (c : Bool) (n top : Nat) : Nat := if c then min top (n + 1) else 0

/-- The fast path at a tick, with the counts that hardware keeps frame by frame: the gate drive at full in CHARGING, the limiting
current loop in ON, and ON itself (R41, R104, R105, R114). -/
def State.fastPath (s : State) (f : FrameIn) : State :=
  let s := (s.fastRun f.fast).fastFrame
  let st := s.get SUP_HSSTAT_STATE
  { s with sup := { s.sup with
    gateRun := runUp (st == hsCHARGING && f.gateFull) s.sup.gateRun 8
    limRun := runUp (st == hsON && f.limiting) s.sup.limRun 255
    onRun := runUp (st == hsON) s.sup.onRun 8 } }

/-! ## Phase 3: rails -/

/-- The latest reading of rail `n` (mV). -/
def State.reading (s : State) (n : Nat) : Nat := s.get (SUP_RAILSTAT_READING n)

/-- Is rail `n` up in this phase 3 (R58)? -/
def State.judgedUp (s : State) (pg n : Nat) : Bool :=
  if s.measured n then
    decide (s.get (SUP_RAILWARN_UV_WARN n) ≤ s.reading n) && decide (s.reading n < s.get (SUP_RAILFLT_OV_FLT n)) &&
      (!s.on (PSQ_RAILCFG_PG_USED n) || bitOf pg n)
  else bitOf pg n

/-- Has rail `n` fallen in this phase 3 (R65)? -/
def State.judgedFallen (s : State) (pg n : Nat) : Bool :=
  if s.measured n then decide (s.reading n < s.get (PSQ_RAILOFF_MV n)) else !bitOf pg n

/-- Rails that come up or have fallen move on (R58, R65). -/
def State.judgeRails (s : State) (pg : Nat) : State :=
  let s := s.forRails fun n t =>
    if !t.used n then t
    else if t.railSt n == rlRISING && t.judgedUp pg n then t.setRail n rlON
    else if t.railSt n == rlFALLING && t.judgedFallen pg n then t.setRail n rlOFF
    else t
  s.shutdownEnd

/-- One warning of rail `n` after a frame (R90): `over` says outside its level, `back` inside it by the hysteresis. Both counts
are of consecutive frames. -/
def State.judgeWarn (s : State) (n : Nat) (ov past back : Bool) : State :=
  let f := if ov then SUP_RAILSTAT_OV_WARN n else SUP_RAILSTAT_UV_WARN n
  let r := s.rail n
  let k := s.get SUP_PERSIST_WARN
  let set := if past then min k ((if ov then r.ovSet else r.uvSet) + 1) else 0
  let clr := if back then min k ((if ov then r.ovClr else r.uvClr) + 1) else 0
  let s := s.modRail n fun r => if ov then { r with ovSet := set, ovClr := clr } else { r with uvSet := set, uvClr := clr }
  if !s.on f && past && k ≤ set then (s.put f 1).log 0x3001 n [some (argCode 0x3001 (if ov then fltOV else fltUV))]
  else if s.on f && back && k ≤ clr then (s.put f 0).log 0x3002 n [some (argCode 0x3002 (if ov then fltOV else fltUV))]
  else s

/-- A rail fault is recorded with its stamp `ts` and the path that declared it, and asks for a snapshot (R96, R128). -/
def State.faultAt (s : State) (ts n kind : Nat) (hw : Bool) : State :=
  (s.logAt ts .sentinel 0x3003 n [some (argCode 0x3003 kind), some (argCode 0x3003 (8 + b2n hw))]).snapAsk 0 0x3003 n

/-- A rail fault that phase 3 declares is recorded with the moment's stamp (R91, R95, R96). -/
def State.faultRecord (s : State) (n kind : Nat) : State :=
  let s := s.touch
  s.faultAt s.now n kind false

/-- Faults declared in hardware since the last phase 3 are recorded there, each with its latched timestamp, and no digital judgement
of the same crossing declares it again (R92, R96). -/
def State.hwRecord (s : State) (n : Nat) : State :=
  let l := (s.rail n).hwDue
  if l.isEmpty then s
  else
    let s := s.modRail n fun r => { r with
      hwDue := []
      ovFlt := if l.any fun x => x.1 == .ov then 4 else r.ovFlt
      uvFlt := if l.any fun x => x.1 == .uv then 4 else r.uvFlt }
    l.foldl (fun t x => t.faultAt x.2 n (crossNum x.1) true) (s.put (SUP_RAILSTAT_ANALOG n) 1)

/-- A digital fault of rail `n` after a frame with its level crossed or not (R91): declared once its persistence is reached;
a bit cleared while the condition holds sets again (R443). -/
def State.judgeFlt (s : State) (n : Nat) (ov past : Bool) : State :=
  let r := s.rail n
  let k := s.get SUP_PERSIST_FLT
  let was := if ov then r.ovFlt else r.uvFlt
  let now := if past then min 4 (was + 1) else 0
  let kind := if ov then fltOV else fltUV
  let s := s.modRail n fun r => if ov then { r with ovFlt := now } else { r with uvFlt := now }
  if past && k ≤ now then
    if was < k then (s.put (SUP_RAILSTAT_ANALOG n) 0).railFault n kind false |>.faultRecord n kind
    else s.put (fltBit n kind) 1
  else s

/-- Is the sense line of rail `n` open (R95)? A reading near 0 counts while the rail should be up; in OFF_WAIT and FALL_GATE
an undervoltage is only logged. -/
def State.senseOpen (s : State) (pg code n : Nat) : Bool :=
  let st := s.railSt n
  s.measured n &&
    ((s.on (PSQ_RAILCFG_PG_USED n) && st == rlON && bitOf pg n && decide (s.reading n < s.get (SUP_RAILFLT_UV_FLT n))) ||
      ((st == rlRISING || st == rlON) && decide (code * 50 < 4096) &&
        decide ((s.rail n).enTick + s.get (PSQ_RAILTMO_RISE_TMO n) < s.tb.ticks)))

/-- The supervision of one used rail in phase 3 (R90 to R95).
(Log: DEDUCED 41, 42, 43, 44) -/
def State.superviseRail (s : State) (pg code n : Nat) : State :=
  let s := s.hwRecord n
  if !s.used n || !s.measured n then s
  else
    let st := s.railSt n
    let v := s.reading n
    let h := s.get (SUP_RAILCFG_HYST n)
    let ovw := s.get (SUP_RAILWARN_OV_WARN n)
    let uvw := s.get (SUP_RAILWARN_UV_WARN n)
    let down := st == rlOFFWAIT || st == rlFALLGATE
    let uv := decide (v < s.get (SUP_RAILFLT_UV_FLT n))
    let s :=
      if armed st .ov then
        (s.judgeWarn n true (decide (ovw < v)) (decide (v * 1000 ≤ ovw * (1000 - h)))).judgeFlt n true
          (decide (s.get (SUP_RAILFLT_OV_FLT n) < v))
      else s.modRail n fun r => { r with ovSet := 0, ovClr := 0, ovFlt := 0 }
    let s :=
      if st == rlON then
        (s.judgeWarn n false (decide (v < uvw)) (decide (uvw * (1000 + h) ≤ v * 1000))).judgeFlt n false uv
      else if down then
        let r := s.rail n
        let a := if v < uvw then min 15 (r.uvSet + 1) else 0
        let b := if uv then min 4 (r.uvFlt + 1) else 0
        let s := s.modRail n fun r => { r with uvSet := a, uvClr := 0, uvFlt := b }
        if (v < uvw && s.get SUP_PERSIST_WARN ≤ a) || (uv && s.get SUP_PERSIST_FLT ≤ b) then s.uvInDown n else s
      else s.modRail n fun r => { r with uvSet := 0, uvClr := 0, uvFlt := 0 }
    if s.senseOpen pg code n && !s.on (SUP_RAILSTAT_SENSE_OPEN n) then
      (s.railFault n fltSENSE false).faultRecord n fltSENSE
    else s

/-! ## Phase 3: the ledger (Table 4-5) -/

/-- The ledger of the frames since the last completed phase 3 (R109, R110). Energy of the bulk is kept as capacitance times
squared voltage, in halves of a picojoule.
(Log: DESIGN CHOICE 15; DEDUCED 46, 64) -/
def State.ledger (s : State) : State :=
  let c := s.get SUP_BULKCAP_UF
  let e := c * s.sup.vbulk * s.sup.vbulk
  let n := max 1 s.sup.accFrames
  let ein := s.rawUj s.sup.fast.raw
  let etot := s.sup.etot + ein
  let pin := divUInt (ein * 8) n
  let pload := divUInt (ein * 8000000 - ((e : Int) - (s.sup.ebulk : Int)) * 4) (n * 1000000)
  let hist := (List.replicate (min n 8) (pin, pload, 1) ++ s.sup.hist).take 8
  let draw := divUInt (hist.map fun h => h.1).sum 8
  let pred := (max 0 (divUInt (hist.map fun h => h.2.1).sum 8)).toNat
  let floor := c * s.get SUP_BULKMIN_MV * s.get SUP_BULKMIN_MV + s.get SUP_SHUTRES_MJ * 2000000000
  let avail := divU (e - floor) 2000000000
  let left := if pred = 0 then 65535 else min 65535 (avail * 8000 / pred)
  let s := s.putFit SUP_LDG_EIN_UJ ein true
  let s := s.putFit SUP_LDG_PIN_MW pin false
  let s := s.putFit SUP_LDG_EBULK_MJ (divU e 2000000000) false
  let s := s.putFit SUP_LDG_PLOAD_MW pload true
  let s := s.putFit SUP_LDG_PDRAW_MW draw false
  let s := s.putFit SUP_LDG_PPRED_MW pred false
  let s := (s.putFit SUP_LDG_EAVAIL_MJ avail false).put SUP_LDG_TLEFT_FRAMES left
  let tot := encSigned 64 (divUInt etot 1000)
  let s := (s.put SUP_LDG_ETOT_LO_MJ tot).put SUP_LDG_ETOT_HI_MJ (tot / 2 ^ 32)
  { s with sup := { s.sup with
    hist := hist, ebulk := e, draw := draw, etot := etot, accFrames := 0, fast := { s.sup.fast with raw := 0 } } }

/-! ## Phase 3: the busbar -/

/-- Does the frame's fast path show class `k` of Table 4-6: 0 DIP, 1 INTERRUPTION, 2 OVERVOLTAGE, 3 RIPPLE? -/
def State.busClass (s : State) (k : Nat) : Bool :=
  let nom := s.get SUP_BUSCFG0_NOM_MV
  let lo := s.sup.busMin * 100
  let hi := s.sup.busMax * 100
  match k with
  | 0 => decide (lo < s.get SUP_BUSEVT0_DIP * nom) && !decide (lo < s.get SUP_BUSEVT0_INT * nom)
  | 1 => decide (lo < s.get SUP_BUSEVT0_INT * nom)
  | 2 => decide (s.get SUP_BUSEVT0_OV * nom < hi)
  | _ => decide (s.get SUP_BUSEVT1_RIPPLE < s.sup.busMax - s.sup.busMin)

/-- The bit of SUP_BUSSTAT.EVT of a class. -/
def evtBit (k : Nat) : FRef := ⟨0x6088, 4 + k, 1⟩

/-- One busbar event class in a phase 3 that covers `n` frames with energy `ein`, the last of them with `last` (R110, R112). The
record holds the class in SUBJECT, the extreme in ARG0 (for RIPPLE the peak-to-peak voltage), the frames in ARG1 and E_in in ARG3.
(Log: DEDUCED 49; DESIGN CHOICE 159) -/
def State.busEvent (s : State) (k n : Nat) (ein last : Int) : State :=
  let e := s.sup.evs.getD k ⟨false, 0, 0, 0, 0⟩
  let set (s : State) (x : BusEv) : State := { s with sup := { s.sup with evs := modAt s.sup.evs k fun _ => x } }
  let v := if k = 3 then s.sup.busMax - s.sup.busMin else if k = 2 then s.sup.busMax else s.sup.busMin
  let need := if k = 3 then 4 else 1
  if s.busClass k then
    let run := min 4 (e.run + 1)
    if e.open_ then
      set s ⟨true, e.frames + n, if k ≤ 1 then min e.extreme v else max e.extreme v, e.ein + ein, run⟩
    else if need ≤ run then set (s.put (evtBit k) 1) ⟨true, 1, v, last, run⟩
    else set s { e with run := run }
  else if e.open_ then
    let n := n - 1
    (set (s.put (evtBit k) 0) ⟨false, 0, 0, 0, 0⟩).log 0x3007 (argCode 0x3007 k % 65536)
      [some e.extreme, some (e.frames + n), none, some (encSigned 64 (e.ein + if n = 0 then 0 else ein - last))]
  else set s { e with run := 0 }

/-- Consecutive-frame counts of the busbar and the shelf inputs (R103, R113).
(Log: DEDUCED 46) -/
def State.busCounts (s : State) (f : FrameIn) : State :=
  { s with sup := { s.sup with
    presRun := runUp (s.get SUP_BUSCFG1_PRES_MV ≤ s.sup.busVs) s.sup.presRun 8
    absRun := runUp (s.sup.busVs < s.get SUP_BUSCFG2_ABS_MV) s.sup.absRun 8
    warnRun := runUp f.warnLow s.sup.warnRun 2
    failRun := runUp f.failLow s.sup.failRun 2 } }

/-- The busbar's events in a phase 3, before the ledger takes the energy up (R112). -/
def State.busEvents (s : State) : State :=
  let n := max 1 s.sup.accFrames
  let ein := s.rawUj s.sup.fast.raw
  let last := s.rawUj s.sup.lastRaw
  (upTo 4).foldl (fun t k => t.busEvent k n ein last) s

/-- The busbar is judged lost (R117). -/
def State.busLost (s : State) : Bool :=
  (s.get SUP_HSSTAT_STATE != hsON && s.get SUP_LDG_EAVAIL_MJ == 0) || s.get SUP_HSSTAT_STATE == hsFAULT ||
    (s.on SUP_BUSSTAT_SHELF_FAIL && s.on SUP_SHELFCFG_FAIL_LOSS)

/-- A lost busbar asserts PFW_N and ends the sequence at once, unused lead time and all; under SWARM the catch-up of R85 restarts it
(R68, R100, R117).
(Log: DEDUCED 48) -/
def State.judgeLost (s : State) : State :=
  let now := s.busLost
  let was := s.on SUP_BUSSTAT_LOST
  let s := s.putB SUP_BUSSTAT_LOST now
  if now then
    let s := s.pfwAssert false
    let s := if was then s else s.snapAsk 3 Config.lostCause.toNat 0
    if s.running then
      ({ s with
        sup := { s.sup with leadEnd := none }
        sw := { s.sw with missDue := s.sw.missDue || s.on PSQ_SEQCFG_SRC } }).shutdown (fun _ => true) 5
    else s
  else s

/-- Predictive PFW and its recovery (R115, R116).
(Log: DEDUCED 47, 54) -/
def State.predict (s : State) : State :=
  let left := s.get SUP_LDG_TLEFT_FRAMES
  let lead := s.get SUP_PFWCFG_LEAD
  let on := s.get SUP_HSSTAT_STATE == hsON
  if s.running && !on && left < lead && !s.sup.pfw then
    ((s.pfwAssert true).log 0x3009 0 [some left]).snapAsk 4 0x3009 0
  else if s.on SUP_PFWCFG_RECOVER && s.sup.pfw && s.sup.pfwPred && on && 2 * lead < left && !s.sup.latched then
    s.pfwRelease.log 0x300A 0 [some left]
  else s

/-- BULK_SENSE (R121).
(Log: DEDUCED 50) -/
def State.judgeBulk (s : State) : State :=
  if s.get SUP_HSSTAT_STATE == hsON && (s.sup.busVs + 2000 < s.sup.bulkVs || s.sup.bulkVs + 2000 < s.sup.busVs) then
    (s.put SUP_HSSTAT_BULK_SENSE 1).hsFault 6 none
  else s

/-- The discharge's limits (R119, R120): two frames in a row pass it, unless BULK_SENSE is latched. -/
def State.judgeDischarge (s : State) : State :=
  if !s.on SUP_DISSTAT_RUNNING then s
  else
    let ok := s.sup.vbulk < s.get SUP_DISCFG_V_LIM && s.sup.ebulk ≤ s.get SUP_DISCFG_E_LIM * 2000000000
    let run := if ok then min 2 (s.sup.disRun + 1) else 0
    let s := { s with sup := { s.sup with disRun := run } }
    if run < 2 then s
    else if s.on SUP_HSSTAT_BULK_SENSE then { s with sup := { s.sup with disOk := true } }
    else
      let n := s.tb.ticks - s.sup.disFrom
      let s := (s.put SUP_DISSTAT_RUNNING 0).put SUP_DISSTAT_PASS 1
      let s := (s.put SUP_DISSTAT_ELAPSED (satTo 16 n)).log 0x300B 0 [some n]
      { s with sup := { s.sup with disDone := true } }

/-- Cocoon's charging and its flag (R123 to R125). The Cocoon target is in units of 100 mV. -/
def State.cocoon (s : State) : State :=
  let v := s.sup.cocVs
  let t := s.get SUP_COCSTAT_VTGT * 100
  let s := if v < t then { s with sup := { s.sup with ovHold := false } } else s
  let s := if s.sup.busVs < v then s else s.put SUP_BUSSTAT_ON_COCOON 0
  let on := if t ≤ v then false else if v + 200 < t && !s.sup.ovHold then true else s.pins.cocChg
  { s.putB SUP_COCSTAT_CHARGING on with pins := { s.pins with cocChg := on } }

/-- The trigger that waits is captured at the end of phase 3 (R128).
(Log: DEDUCED 55) -/
def State.snapshots (s : State) : State :=
  match s.sup.snapReq with
  | some (cause, subject, tag) => ({ s with sup := { s.sup with snapReq := none } }).snapCapture cause subject tag
  | none => s

end Sys2Proof.Machine
end

