-- ==== Sys2Proof/Machine/SwarmLine.lean ====
section
/-!
DEFINITION. The Swarm line (chapter 03): the state counter, claims and releases, beacons, joining, fallback and the
leader's pulses.
-/

namespace Sys2Proof.Machine

/-- Roles (R71). -/
abbrev roleOFF : Nat := 0
abbrev roleLEADER : Nat := 2

/-- Does the device take part in Swarm at all? -/
def State.swRole (s : State) : Bool := s.get PSQ_SWCFG_ROLE != roleOFF

/-- Does it claim and count: joined and not fallen back (R81, R83)?
(Log: DEDUCED 28) -/
def State.swCounts (s : State) : Bool := s.swRole && s.on PSQ_SWSTAT_JOINED && !s.sw.fellBack

/-- Is it the leader? -/
def State.swLeader (s : State) : Bool := s.get PSQ_SWCFG_ROLE == roleLEADER

/-- Is the rail off for the Swarm: OFF, or FLAGGED, which is already off (R64)?
(Log: DEDUCED 27) -/
def railDown (st : Nat) : Bool := st == rlOFF || st == rlFLAGGED

/-- Rail `n` names state `v` as its on-state and is OFF (R73). -/
def State.swStarts (s : State) (v n : Nat) : Bool :=
  s.used n && s.get (PSQ_RAILCFG_SW_ON n) == v && v != 0 && s.railSt n == rlOFF

/-- Rail `n` names state `v` as its off-state and is not off (R73). -/
def State.swStops (s : State) (v n : Nat) : Bool :=
  s.used n && s.get (PSQ_RAILCFG_SW_OFF n) == v && v != 0 && !railDown (s.railSt n)

/-- Has the device work in state `v` (R73, R74: none in LOCKOUT)? -/
def State.swWork (s : State) (v : Nat) : Bool :=
  s.on PSQ_SEQCFG_SRC && s.get PSQ_SEQSTAT_STATE != seqLOCKOUT && !s.pins.held &&
    (upTo 24).any fun n => s.swStarts v n || s.swStops v n

/-- A claim (R73): SWARM is driven low at once, or after the leader's own beacon (R78). -/
def State.swClaim (s : State) : State :=
  match s.sw.pulse with
  | some (.beacon, _) => { s with sw := { s.sw with claimDue := true } }
  | _ => { s with sw := { s.sw with claimed := true, claimTick := s.tb.ticks + 1 } }

/-- Entry into state `v` (R56, R73, R85): a claim, the common starts and the shutdowns of the rails that name it. While the
busbar is not present, or in SLEEP, where claims are disabled (R414, R417), no claim and no start: MISSED is set.
(Log: DEDUCED 28, 29) -/
def State.swEnter (s : State) (v : Nat) : State :=
  if !s.swWork v then s
  else
    let c :=
      if !s.on SUP_BUSSTAT_PRESENT || s.asleep then
        let c := s.put PSQ_SWSTAT_MISSED 1
        { c with sw := { c.sw with missDue := true } }
      else if s.on GLB_STATUS_CAL_FAIL then s.swClaim
      else s.swClaim.startRails (s.swStarts v)
    if (upTo 24).any (s.swStops v) then c.shutdown (s.swStops v) 2 else c

/-- SWARM_ADVANCE (R72, R73, R75): the counter advances, or saturates with a record; then the entry. The edge opens a claim
window, in which a hold may begin. -/
def execSwarmAdvance (s : State) : Res :=
  .next <|
    if s.swCounts then
      let c := s.get PSQ_SWSTAT_STATE
      let s := { s with sw := { s.sw with holdFrom := some (s.tb.ticks + 1), stuckDone := false } }
      if c == 255 then s.log 0x2005 0 []
      else (s.put PSQ_SWSTAT_STATE (c + 1)).swEnter (c + 1)
    else s

/-- The common-start rule of R81 against counter value `v`: on-state at or below it, off-state 0 or above it. -/
def State.swDue (s : State) (v n : Nat) : Bool :=
  let on := s.get (PSQ_RAILCFG_SW_ON n)
  let off := s.get (PSQ_RAILCFG_SW_OFF n)
  s.used n && on != 0 && decide (on ≤ v) && (off == 0 || decide (v < off)) && s.railSt n == rlOFF

/-- Starts the rails that R81 admits against counter value `v`. -/
def State.swJoinStarts (s : State) (v : Nat) : State :=
  if s.on PSQ_SEQCFG_SRC && s.get PSQ_SEQSTAT_STATE != seqLOCKOUT && !s.on GLB_STATUS_CAL_FAIL then
    s.startRails (s.swDue v)
  else s

/-- SWARM_CATCHUP (R68, R85): the rails missed, or shut down by an input loss that is over, take their common starts against the
current counter; SWARM is not driven.
(Log: DEDUCED 29) -/
def execSwarmCatchup (s : State) : Res :=
  .next <|
    if s.sw.missDue && s.swCounts && s.on SUP_BUSSTAT_PRESENT && s.get SUP_HSSTAT_STATE == hsON && !s.on SUP_BUSSTAT_LOST &&
        !(s.get PSQ_SEQSTAT_STATE == seqDOWN && s.get PSQ_SEQSTAT_CAUSE == 5) then
      let s := { s with sw := { s.sw with missDue := false } }
      s.swJoinStarts (s.get PSQ_SWSTAT_STATE)
    else s

/-- A rejoin (R84): the device is joined and counts again, DESYNC clears, a request by PSQ_SWCTL.REJOIN ends (R7) and a record
is written. -/
def State.swRejoin (s : State) : State :=
  let s := { s with sw := { s.sw with fellBack := false, rejoin := false } }
  let s := ((s.put PSQ_SWSTAT_DESYNC 0).put PSQ_SWSTAT_JOINED 1).put PSQ_SWCTL_REJOIN 0
  s.log 0x2007 0 [some (s.get PSQ_SWSTAT_STATE)]

/-- SWARM_RESYNC (R72, R77, R82, R84): a low period passes 2 ms and the counter becomes 0 on every device; a leader's own first
resync joins it, and a fallen-back device with REJOIN set rejoins. -/
def execSwarmResync (s : State) : Res :=
  .next <|
    if s.swRole then
      let s := { s with sw := { s.sw with receiving := false } }
      let s := s.put PSQ_SWSTAT_STATE 0
      if s.sw.fellBack then
        if s.on PSQ_SWCFG_REJOIN then s.swRejoin else s
      else
        match s.sw.pulse with
        | some (.resync, _) => s.put PSQ_SWSTAT_JOINED 1
        | _ => s
    else s

/-- SWARM_INVALID_PULSE (R72): the beacon in progress is discarded and GLITCHCNT counts. -/
def execSwarmInvalidPulse (s : State) : Res :=
  .next <|
    if s.swRole then { s with sw := { s.sw with receiving := false } }.count PSQ_SWSTAT_GLITCHCNT else s

/-- SWARM_BEACON_GAP (R78): a high gap longer than 100 us discards the beacon in progress. -/
def execSwarmBeaconGap (s : State) : Res :=
  .next <| if s.swRole then { s with sw := { s.sw with receiving := false } } else s

/-- The fallback of R83: LOCAL gives every used rail without a common start one at the next tick; HOLD gives none. -/
def State.swFallback (s : State) : State :=
  let s := { s with sw := { s.sw with fellBack := true, claimed := false, claimDue := false } }
  if !s.on PSQ_SWCFG_FALLBACK && s.get PSQ_SEQSTAT_STATE != seqLOCKOUT && !s.on GLB_STATUS_CAL_FAIL then
    s.startRails fun n => s.railSt n == rlOFF && !(s.rail n).had
  else s

/-- A desync (R83): the flag, the record with the beacon's value, if one was decoded, and the counter, and the fallback. -/
def State.swDesync (s : State) (v : Option Nat) : State :=
  ((s.put PSQ_SWSTAT_DESYNC 1).log 0x2006 0 [v, some (s.get PSQ_SWSTAT_STATE)]).swFallback

/-- A beacon decoded by a joined device that counts: a value that differs from the counter is a desync (R83). -/
def State.swCompare (s : State) (v : Nat) : State :=
  if v == s.get PSQ_SWSTAT_STATE then s else s.swDesync (some v)

/-- SWARM_BEACON (R78, R79, R81, R83, R84): a valid beacon conflicts at a leader that did not send it, joins an unjoined
follower, is compared by a joined device, or ends a fallback for which a rejoin is armed; a leader ignores its own (R82). -/
def execSwarmBeacon (value : BitVec 8) (own : Bool) (s : State) : Res :=
  .next <|
    let v := value.toNat
    if !s.swRole then s
    else
      let s := { s with sw := { s.sw with receiving := false } }
      if s.swLeader && own then s
      else
        let s := { s with sw := { s.sw with lastBeacon := s.tb.ticks, noBeaconDone := false } }
        let s := if s.swLeader then (s.put PSQ_SWSTAT_LEADER_CONFLICT 1).log 0x2009 0 [some v] else s
        if s.sw.fellBack then
          if s.sw.rejoin then (s.put PSQ_SWSTAT_STATE v).swRejoin else s
        else if s.on PSQ_SWSTAT_JOINED then s.swCompare v
        else if s.swLeader then s
        else ((s.put PSQ_SWSTAT_STATE v).put PSQ_SWSTAT_JOINED 1).swJoinStarts v

/-- Three beacon intervals from the last valid beacon, or from the Cold reset (R81, R83), counted by R48. -/
def State.beaconLate (s : State) : Bool := s.due (s.sw.lastBeacon + 1 + 3 * s.get PSQ_SWCFG_BEACON)

/-- JOIN_TIMEOUT (R81): a follower that no beacon reached within 3 intervals of the reset acts as in R83: DESYNC, the record,
which has no beacon's value, and the fallback.
(Log: DESIGN CHOICE 12) -/
def execJoinTimeout (s : State) : Res :=
  .next <|
    if s.swRole && !s.swLeader && !s.on PSQ_SWSTAT_JOINED && !s.sw.fellBack && s.beaconLate then s.swDesync none
    else s

/-- NOBEACON (R83): a joined device that has seen no valid beacon for 3 intervals sets NOBEACON and keeps counting. The bit
clears at a Cold reset only.
(Log: DESIGN CHOICE 156) -/
def execNobeacon (s : State) : Res :=
  .next <|
    if s.swRole && s.on PSQ_SWSTAT_JOINED && !s.sw.noBeaconDone && s.beaconLate then
      let s := s.put PSQ_SWSTAT_NOBEACON 1
      { s with sw := { s.sw with noBeaconDone := true } }
    else s

/-- The three conditions of R74, or LOCKOUT.
(Log: DEDUCED 27) -/
def State.swSettled (s : State) : Bool :=
  let v := s.get PSQ_SWSTAT_STATE
  s.get PSQ_SEQSTAT_STATE == seqLOCKOUT ||
    ((upTo 24).all (fun n => !(s.used n && s.get (PSQ_RAILCFG_SW_ON n) == v) ||
        s.railSt n == rlON || s.railSt n == rlFLAGGED) &&
     (upTo 24).all (fun n => !(s.used n && s.get (PSQ_RAILCFG_SW_OFF n) == v && v != 0) || railDown (s.railSt n)) &&
     s.get PSQ_SEQSTAT_STATE != seqCOOL)

/-- SWARM_RELEASE (R74): in a phase 4 after the claim, with every rail of the state settled, SWARM is released. -/
def execSwarmRelease (s : State) : Res :=
  .next <|
    if s.sw.claimed && s.phase 4 && s.due s.sw.claimTick && s.swSettled then
      { s with sw := { s.sw with claimed := false } }
    else s

/-- SWARM has been high for at least 8 frames, counted from the tick after the sample that found it high (R48, R76 to R78). -/
def State.swHigh8 (s : State) : Bool := s.sw.high && s.due (s.sw.since + 9)

/-- The leader paces: it is joined, saw no conflict, drives no pulse and no hold (R76, R79). -/
def State.swPaces (s : State) : Bool :=
  s.swLeader && s.on PSQ_SWSTAT_JOINED && !s.sw.fellBack && !s.on PSQ_SWSTAT_LEADER_CONFLICT &&
    s.sw.pulse.isNone && !s.sw.claimed

/-- LEADER_ADVANCE_PULSE (R76): a pulse of 4 frames while the counter is below the target. -/
def execLeaderAdvancePulse (s : State) : Res :=
  .next <|
    if s.swPaces && s.swHigh8 && decide (s.get PSQ_SWSTAT_STATE < s.get PSQ_SWTARGET_STATE) then
      { s with sw := { s.sw with pulse := some (.advance, s.after 4) } }
    else s

/-- LEADER_RESYNC_PULSE (R77, R82): a pulse of 32 frames, requested by SWCTL or owed after a Cold reset. -/
def execLeaderResyncPulse (s : State) : Res :=
  .next <|
    if s.swLeader && !s.on PSQ_SWSTAT_LEADER_CONFLICT && s.sw.resyncReq && s.sw.pulse.isNone && s.swHigh8 then
      { s with sw := { s.sw with pulse := some (.resync, s.after 32) } }
    else s

/-- The microseconds a beacon takes: nine low pulses of 8 or 40 us and eight highs of 40 us (R78). -/
def beaconUs (v : Nat) : Nat :=
  let ones := popCount v 8 + b2n (popCount v 8 % 2 == 0)
  320 + 72 + 32 * ones

/-- LEADER_BEACON_SEND (R78): once every beacon interval, on a line high for 8 frames, the leader sends the counter; an
advance or a claim that is due is deferred until the beacon has ended. -/
def execLeaderBeaconSend (s : State) : Res :=
  .next <|
    if s.swPaces && s.swHigh8 && s.due s.sw.beaconAt then
      let v := s.get PSQ_SWSTAT_STATE
      let s := { s with sw := { s.sw with
        beaconAt := s.after (s.get PSQ_SWCFG_BEACON), pulse := some (.beacon, s.after ((beaconUs v + 124) / 125)) } }
      s.emit (.beacon (BitVec.ofNat 8 v) (popCount v 8 % 2 == 0))
    else s

/-- Has a hold outlasted PSQ_SWHOLDMAX: low since an edge that advanced the counter (R72, R80)? -/
def State.holdLong (s : State) : Bool :=
  match s.sw.holdFrom with
  | some t => !s.sw.high && s.due (t + s.get PSQ_SWHOLDMAX_FRAMES + 1)
  | none => false

/-- SWARM_STUCK (R80): a hold outlasts PSQ_SWHOLDMAX; the leader sets STUCK once per hold and records the state. -/
def execSwarmStuck (s : State) : Res :=
  .next <|
    if s.swLeader && !s.sw.stuckDone && s.holdLong then
      let s := { s with sw := { s.sw with stuckDone := true } }
      (s.put PSQ_SWSTAT_STUCK 1).log 0x2008 0 [some (s.get PSQ_SWSTAT_STATE)]
    else s

/-- The resync request of R77: RESYNC reads 1 until the pulse ends. -/
def State.swResyncReq (s : State) : State :=
  if s.swLeader then { s.put PSQ_SWCTL_RESYNC 1 with sw := { s.sw with resyncReq := true } } else s

/-- The rejoin request of R84: armed for the next valid beacon; REJOIN reads 1 until then (R7). -/
def State.swRejoinReq (s : State) : State :=
  if s.sw.fellBack then { s.put PSQ_SWCTL_REJOIN 1 with sw := { s.sw with rejoin := true } } else s

/-- SWCTL_RESYNC (R77): a write of 1 to PSQ_SWCTL.RESYNC. -/
def execSwctlResync (s : State) : Res := .next s.swResyncReq

/-- SWCTL_REJOIN (R84): a write of 1 to PSQ_SWCTL.REJOIN. -/
def execSwctlRejoin (s : State) : Res := .next s.swRejoinReq

end Sys2Proof.Machine
end

