-- ==== Sys2Proof/Machine/PowerStates.lean ====
section
/-!
DEFINITION. Domain power-downs, HOLD and SLEEP, waking, Cocoon, collapse and the adoption of held outputs (chapters 04, 14
and 18).
-/

namespace Sys2Proof.Machine

/-! ## Domain power-down (R334 to R336) -/

/-- The VI resets of a FORCE entry (R415); answers the mask of the VIs reset. -/
def State.forceVis (s : State) : State × Nat :=
  (List.finRange 16).foldl (fun (a : State × Nat) v =>
    if a.1.viEn (some v) then (a.1.viReset v 16, a.2 + 2 ^ v.val) else a) (s, 0)

/-- May a power-down that is due begin: a state entry waits until no taken COMMIT remains unapplied (R415)? -/
def State.downReady (s : State) : Bool :=
  s.rst.downEnd.isNone && s.rst.core && !s.rst.low &&
    match s.rst.downFor with
    | some (.state _ _ _ _) => s.chr.taken.isNone
    | some _ => true
    | none => false

/-- DOMAIN_POWER_DOWN (R334): from here nothing new starts; every subchannel and channel in progress takes DOMAIN, the store
buffer drains, and idle card ports deactivate.
(Log: DEDUCED 107) -/
def execDomainPowerDown (s : State) : Res :=
  .next <|
    if s.downReady then
      let s : State := match s.rst.downFor with
        | some (.state st true _ t) =>
          let (s, vis) := s.forceVis
          { s with rst := { s.rst with downFor := some (.state st true vis t) } }
        | _ => s
      let s := s.holdAll 5 (some 0x53) (fun _ => true) (fun _ => true)
      let s := (upTo 2).foldl (fun t p => t.cardDown p) s.storeDrainAll
      { s with rst := { s.rst with downEnd := some (s.tb.ticks + 1) } }
    else s

/-- Does a burst of the Block Mover, or a write response, still stand out? -/
def State.bmvBusy (s : State) : Bool :=
  (upTo 16).any fun n => !(s.chan n).flight.isEmpty || (s.chan n).resp.isSome

/-- The command that a state entry answers. -/
def DownFor.tag : DownFor → Option Tag
  | .state _ _ _ t => some t
  | _ => none

/-- The tags of the card exchanges that run. -/
def State.exTags (s : State) : List Tag :=
  (upTo 2).filterMap fun p =>
    match (s.card p).exch with
    | some e => e.who.tag
    | none => none

/-- How many subchannels and channels are not IDLE: the items retained (R335, R415). -/
def State.itemCount (s : State) : Nat :=
  (upTo 32).countP (fun n => s.scSt n != scIDLE) + (upTo 16).countP fun n => s.dcSt n != dcIDLE

/-- Everything that must end before the domain stops (R334, R336): commands complete with 0x53 and their residue, running
exchanges end by emergency deactivation, stores drain, and the item area is written.
(Log: DEDUCED 107) -/
def State.domainEnd (s : State) (d : DownFor) : State :=
  let s := (upTo 32).foldl (fun (t : State) (n : Nat) => t.scHoldTake n) s
  let keep := s.exTags
  let l := s.rng.cmds.filter fun c => d.tag != some c.tag && !keep.contains c.tag
  let s := l.foldl (fun (t : State) (c : Cmd) => let (t, n) := t.cmdResidue c; t.complete c.tag 0x53 0 n) s
  let s := (upTo 2).foldl (fun t p => t.cardDeadline p) s
  s.storeDrainAll.put RST_RETSTAT_ITEMS s.itemCount

/-- The domain stops: its clock is off and the items are retained. -/
def State.domainStop (s : State) : State :=
  let s := s.coreClear true
  { s with rst := { s.rst with core := false, downEnd := none, downFor := none, retained := true } }

/-- Both links enter electrical idle, each port with a Link reset that ends no item (R415). -/
def State.linksDown (s : State) : State :=
  (((s.portReset .hpa true).portReset .hpb true).linksIdle).orphanRecords

/-- The exit from HOLD or SLEEP by a wake source (R417): a Core reset with trigger 11.
(Log: DEDUCED 104) -/
def State.wake (s : State) (src : Nat) : State :=
  let st := s.get RST_PSTATE_STATE
  let s := if s.snt.bistEnd.isSome then s.bistEnd 2 else s
  let s := if st == 2 then
      let s := s.put SUP_BUSSTAT_PRESENT 0
      { s with
        tb := { s.tb with goodWins := 0, resid := 0, win := 0 }
        seq := { s.seq with absentSeen := true }
        sup := { s.sup with presRun := 0, absRun := 0 } }
    else s
  let s := s.coreReset 11 s.rst.retained 0
  let s := { s.put RST_PSTATE_STATE 0 with rst := { s.rst with gated := false, wakeEnd := none, wakeDue := none } }
  s.log 0xE003 st [some (2 ^ src)]

/-- SLEEP stops the clock discipline, drives the throttle inactive and turns every lamp off (R397, R415). -/
def State.sleepBegin (s : State) : State :=
  let s := (upTo 8).foldl (fun t c => t.lampOff c) s
  let s := (upTo 4).foldl (fun t o => t.put (THM_THRSTAT_ACTIVE o) 0) s
  { s.put FRM_STATUS_LOCKED 0 with tb := { s.tb with d := 0, goodWins := 0, resid := 0, win := 0 } }

/-- HOLD runs an armed test of the MRAM, which lasts 400 frames (R418). -/
def State.holdTest (s : State) : State :=
  if s.snt.bistArmed then { s with snt := { s.snt with bistArmed := false, bistEnd := some (s.after 400) } } else s

/-- The state is entered (R414, R415, R418): the last completion, both links idle, CORE_EN released, the record; SLEEP stops
the discipline and drives the throttle inactive, HOLD runs an armed test.
(Log: DEDUCED 104) -/
def State.stateEnter (s : State) (st : Nat) (force : Bool) (vis : Nat) (t : Tag) : State :=
  let s := s.done t (s.get RST_RETSTAT_ITEMS) 0
  let s := s.domainStop.linksDown.coreEnOff
  let s := (s.log 0xE002 st [some (b2n force + 65536 * vis)]).put RST_PSTATE_STATE st
  let s := { s with rst := { s.rst with retained := true, wakeEnd := some (s.after (s.get RST_WAKETMR_FRAMES)) } }
  let s := if st == 2 then s.sleepBegin else s.holdTest
  match s.rst.wakeDue with
  | some src => s.wake src
  | none => s

/-- What follows a power-down (R125, R160, R408, R415). -/
def State.afterDown (s : State) : DownFor → State
  | .state st force vis t => s.stateEnter st force vis t
  | .cocoon =>
    let s := s.domainStop.linksDown.coreEnOff
    { s with rst := { s.rst with cocStop := true, retained := true } }
  | .heartbeat =>
    if s.get SNT_HBSTAT_RESTARTS == s.get SNT_HBCFG_LIMIT then s.domainStop.autonomousEnter 3
    else (s.domainStop.coreReset 8 true 0).count SNT_HBSTAT_RESTARTS
  | .activate => s.domainStop.coreReset 9 true 0

/-- DOMAIN_DEADLINE (R334, R336): every burst has ended and every write response is in.
(Log: DEDUCED 107) -/
def execDomainDeadline (s : State) : Res :=
  .next <|
    match s.rst.downEnd, s.rst.downFor with
    | some t, some d => if s.due t && !s.bmvBusy then (s.domainEnd d).afterDown d else s
    | _, _ => s

/-! ## Waking (R416, R417) -/

/-- Does a wake source's condition hold: 0 WAKE_N, 1 the timer, 2 a card, 3 the busbar, 4 the Swarm counter in SLEEP? -/
def State.wakeCond (s : State) (src : Nat) : Bool :=
  match src with
  | 1 => match s.rst.wakeEnd with
    | some t => s.due t
    | none => false
  | 4 =>
    let v := s.get PSQ_SWSTAT_STATE
    s.get RST_PSTATE_STATE == 2 && (upTo 24).any fun n => s.used n && v != 0 && s.get (PSQ_RAILCFG_SW_ON n) == v
  | 2 => s.on (CRD_PSTAT_PRESENT 0) || s.on (CRD_PSTAT_PRESENT 1)
  | 3 => s.get RST_PSTATE_STATE == 2 || s.on SUP_BUSSTAT_PRESENT
  | _ => true

/-- WAKE_EVENT (R416, R417): a selected source ends HOLD or SLEEP; one that comes during the entry ends the state as soon as
the entry is complete.
(Log: DEDUCED 104) -/
def execWakeEvent (src : Fin 5) (s : State) : Res :=
  .next <|
    if s.rst.low || s.rst.vault || !bitOf (s.get RST_WAKECFG_SOURCES) src then s
    else if s.get RST_PSTATE_STATE == 1 || s.get RST_PSTATE_STATE == 2 then
      if s.wakeCond src then s.wake src else s
    else
      match s.rst.downFor with
      | some (.state _ _ _ _) =>
        if s.rst.downEnd.isSome && src.val != 1 && src.val != 4 then
          { s with rst := { s.rst with wakeDue := some src.val } }
        else s
      | _ => s

/-! ## The busbar and Cocoon -/

/-- BUSBAR_PRESENT (R103, R125): 8 frames in a row at or above PRES_MV; CORE restarts if R125 stopped it.
(Log: DEDUCED 51) -/
def execBusbarPresent (s : State) : Res :=
  .next <|
    if 8 ≤ s.sup.presRun && !s.rst.low && !s.rst.vault then
      let s := if s.on SUP_BUSSTAT_PRESENT then s else s.busbarPresent
      if s.rst.cocStop then s.coreReset 10 s.rst.retained 0 else s
    else s

/-- CORE powers down for Cocoon (R125): a CORE that runs by a domain power-down, in place of one that would restart it; a CORE not yet
started at once. A power-down that ends in HOLD or SLEEP goes on: it releases CORE_EN itself.
(Log: DEDUCED 50) -/
def State.cocoonDown (s : State) : State :=
  if s.rst.core then
    match s.rst.downFor with
    | some (.state _ _ _ _) => s
    | _ => { s with rst := { s.rst with downFor := some .cocoon } }
  else if s.on RST_CORECTL_CORE_EN then { s.coreEnOff with rst := { s.coreEnOff.rst with cocStop := true } }
  else s

/-- ON_COCOON (R125): the first phase 3 with BUS_VS below COC_VS: the record, and CORE powers down.
(Log: DEDUCED 50) -/
def execOnCocoon (s : State) : Res :=
  .next <|
    if s.phase 3 && s.sup.busVs < s.sup.cocVs && !s.on SUP_BUSSTAT_ON_COCOON && !s.rst.low && !s.rst.vault then
      ((s.put SUP_BUSSTAT_ON_COCOON 1).log 0x300E 0 [some s.sup.busVs]).cocoonDown
    else s

/-- A write in progress is stopped without its commit word (R127): the record that stood at the front of a queue.
(Log: DESIGN CHOICE 52) -/
def State.cutWrite (s : State) : State :=
  let k := (Config.cutWrite s.free).toNat
  let e := WriteEnd.cut (Config.cutWords s.free).toNat
  let s := { s with free := s.free + 1 }
  if k = 1 then s.writeJournal e
  else if k = 2 then s.writeLog e
  else if k = 3 then s.writeSnap e
  else s

/-- COLLAPSE (R125 to R127): on Cocoon, with BUS_VS below COC_VS, COC_VS falls below COLLAPSE: every output is released and the store's write stops. -/
def execCollapse (mv : Nat) (s : State) : Res :=
  .next <|
    if (s.on SUP_BUSSTAT_ON_COCOON || decide (s.sup.busVs < s.sup.cocVs)) && mv < s.get SUP_COCCFG_COLLAPSE && !s.st.collapsed then
      let s := if s.canWrite then s.cutWrite else s
      ({ s with st := { s.st with collapsed := true } }).releaseOutputs
    else s

/-! ## Adoption after a Warm reset (R412, Table 18-3) -/

/-- Step 1: the front end. -/
def State.adoptFront (s : State) : State :=
  match s.pins.gate with
  | .full =>
    if s.sup.busVs ≤ s.sup.bulkVs + 500 then
      s.hsOn
    else
      { s.put SUP_HSSTAT_STATE hsCHARGING with
        sup := { s.sup with chgEnd := s.after (s.get SUP_HSCFG0_CHG_TMO), gateRun := 0, limRun := 0 } }
  | .ramp =>
    { s.put SUP_HSSTAT_STATE hsCHARGING with
      sup := { s.sup with chgEnd := s.after (s.get SUP_HSCFG0_CHG_TMO), gateRun := 0, limRun := 0 } }
  | .off => if s.get SUP_HSSTAT_STATE == hsFAULT then s else s.put SUP_HSSTAT_STATE hsOPEN

/-- Step 2: the rails, from EN as held, the phase 3 of the frame and the recorded FLAGGED mask.
(Log: DEDUCED 105) -/
def State.adoptRails (s : State) : State :=
  let en := s.pins.en
  let fl := s.get RST_WARMSNAP_FLAGGED
  s.forRails fun n t =>
    if !t.used n then t.setRail n rlOFF
    else if bitOf fl n then t.setRail n rlFLAGGED
    else if en.getLsbD n then
      let up := t.judgedUp t.sup.pg n
      (t.setRail n (if up then rlON else rlRISING)).modRail n fun r =>
        { r with started := true, tmoEnd := t.after (t.get (PSQ_RAILTMO_RISE_TMO n)), enTick := t.tb.ticks + 1 }
    else t.setRail n rlOFF

/-- Rails that are due a common start at adoption: every used OFF rail under LOCAL, those of R81 under SWARM. -/
def State.adoptDue (s : State) (n : Nat) : Bool :=
  if s.on PSQ_SEQCFG_SRC then s.swDue (s.get PSQ_SWSTAT_STATE) n else s.railSt n == rlOFF

/-- Step 3: the sequence, by the recorded state (Table 18-3); answers the row.
(Log: DEDUCED 105) -/
def State.adoptSeq (s : State) : State × Nat :=
  let st := s.get RST_WARMSNAP_STATE
  if st == seqUP || st == seqON then
    let s := (s.put PSQ_SEQSTAT_STATE st).put PSQ_SEQSTAT_RETRY (s.get RST_WARMSNAP_RETRY)
    if !s.pfwOut && s.get SUP_HSSTAT_STATE == hsON then
      let due := s.adoptDue
      (((s.put PSQ_SEQSTAT_STATE seqUP).startRails due).seqComplete, 1)
    else (s.shutdown (fun _ => true) (if s.pfwOut then 7 else 5), 2)
  else if st == seqDOWN then (s.shutdown (fun _ => true) (s.get PSQ_SEQSTAT_CAUSE), 3)
  else if st == seqCOOL then
    let due := s.adoptDue
    let s := (s.put PSQ_SEQSTAT_STATE seqCOOL).put PSQ_SEQSTAT_RETRY (s.get RST_WARMSNAP_RETRY)
    let s := s.forRails fun n t => if t.used n && due n then t.modRail n fun r => { r with started := true } else t
    ({ s with seq := { s.seq with coolEnd := s.after (s.get PSQ_COOLDOWN_FRAMES) } }, 4)
  else (s.put PSQ_SEQSTAT_STATE seqOFF, 5)

/-- Step 4: SWARM is claimed while an adopted rail of the current state is not settled, else released (R74).
(Log: DEDUCED 105) -/
def State.adoptSwarm (s : State) : State :=
  let v := s.get PSQ_SWSTAT_STATE
  let names := s.on PSQ_SEQCFG_SRC && (upTo 24).any fun n =>
    s.used n && v != 0 && (s.get (PSQ_RAILCFG_SW_ON n) == v || s.get (PSQ_RAILCFG_SW_OFF n) == v)
  { s with sw := { s.sw with claimed := s.swCounts && names && !s.swSettled, claimTick := s.tb.ticks + 1 } }

/-- WARM_ADOPT (R412): the first phase 4 after step 4 of the boot in which the busbar judgement has run for 8 frames.
(Log: DEDUCED 105) -/
def execWarmAdopt (s : State) : Res :=
  .next <|
    if s.rst.adopt && !s.rst.low && !s.rst.vault && s.phase 4 && s.due (s.rst.warmTick + 8) then
      let s := { s with rst := { s.rst with adopt := false }, pins := { s.pins with held := false } }
      let (s, row) := s.adoptFront.adoptRails.adoptSeq
      s.adoptSwarm.log 0xE004 row
        [some (s.railMask fun st => st == rlON), some (s.railMask fun st => st == rlRISING)]
    else s

end Sys2Proof.Machine
end

