-- ==== Sys2Proof/Machine/Measure.lean ====
section
/-!
DEFINITION. Measurements and the SPDM responder's messages, with the responses that Sentinel signs (R220 to R222).
-/

namespace Sys2Proof.Machine

/-! ## Measurements (R222) -/

/-- The measurement of an index of Table 8-8: a SHA-384 digest, or 48 zero bytes where no patch runs. An image is its header and body.
(Log: DEDUCED 122) -/
def State.measurement (s : State) (k : Nat) : List Byte :=
  match k with
  | 1 => sha384 Config.romImage
  | 2 => match s.snt.runPatch with
    | some i => sha384 (i.hdr ++ i.body)
    | none => zeros 48
  | 3 => match s.snt.svc with
    | some i => sha384 (i.hdr ++ i.body)
    | none => sha384 []
  | 4 => sha384 (leBytes 8 s.snt.rollSvc ++ leBytes 8 s.snt.rollPatch ++
      (upTo 4).map fun i => BitVec.ofNat 8 (s.get (SNT_SVCKEY_VALID i)))
  | _ => sha384 (s.nvImage.map fun c => leBytes 4 c.1 ++ leBytes 4 c.2.toNat).flatten

/-! ## SPDM messages (R221, R222) -/

/-- The state field of a context (R453). -/
def spdmF (c : Fin 3) : FRef :=
  match c with
  | 0 => HST_SPDMSTAT_HPA
  | 1 => HST_SPDMSTAT_HPB
  | 2 => HST_SPDMSTAT_SMB

/-- An ERROR response.
(Log: DEDUCED 121) -/
def spdmError (code data : Nat) : List Byte := [0x12, 0x7F, BitVec.ofNat 8 code, BitVec.ofNat 8 data]

/-- The digest of slot 0's chain. -/
def chainDigest : List Byte := sha384 Config.certChain

/-- A measurement block: index, DMTF specification, a digest of its kind. -/
def State.measBlock (s : State) (k : Nat) : List Byte :=
  [BitVec.ofNat 8 k, 1, 51, 0, 1, 48, 0] ++ s.measurement k

/-- Takes a nonce and a signature that Sentinel computes (R222).
(Log: PRESUMED 120) -/
def State.signed (s : State) : State × List Byte × List Byte :=
  ({ s with free := s.free + 1 }, leBytes 32 (Config.spdmNonce s.free).toNat, leBytes 96 (Config.spdmSig s.free).toNat)

/-! ## Replies (R220) -/

/-- Does the SMBus target answer: the AON domain is powered and out of reset?
(Log: DEDUCED 119) -/
def State.smbRuns (s : State) : Bool := !s.rst.low && !s.rst.vault

/-- The packets of an MCTP message: at most 64 bytes each (R220). At most `fuel` packets are made. -/
def mctpCut : Nat → List Byte → List (List Byte)
  | 0, _ => []
  | fuel + 1, b => if b.length ≤ 64 then [b] else b.take 64 :: mctpCut fuel (b.drop 64)

/-- Sends an MCTP message over SMBus, in packets of the baseline transmission unit (R220). -/
def State.mctpSend (s : State) (b : List Byte) : State :=
  let l := mctpCut (b.length / 64 + 1) b
  l.zipIdx.foldl (fun t c => t.emit (.mctp (c.2 == 0) (c.2 + 1 == l.length) c.1)) s

/-- Sends an SPDM response in its context: a DOE object, or an MCTP message of type 0x05. -/
def State.spdmSend (s : State) (c : Fin 3) (b : List Byte) : State :=
  if c = 2 then s.mctpSend (5 :: b) else s.emit (.reply c.val b)

/-- Does a context's transport work: its link, or the SMBus target? -/
def State.spdmThere (s : State) (c : Fin 3) : Bool :=
  match c with
  | 0 => s.linkUp .hpa
  | 1 => s.linkUp .hpb
  | 2 => s.smbRuns

/-- The longest message of a context (Table 8-2, R220): a DOE object of 1,024 dwords with its header, or 4 KiB with its type. -/
def spdmMax (c : Fin 3) : Nat := if c = 2 then 4095 else 4088

/-! ## Signed responses (R222) -/

/-- CHALLENGE_AUTH: the chain's digest, a nonce, a measurement summary if asked for, and the signature. -/
def State.challengeAuth (s : State) (req : List Byte) : State × List Byte :=
  let (s, nonce, sig) := s.signed
  let sum := if leAt req 3 1 = 0 then [] else
    sha384 ((upTo 5).map fun k => s.measurement (k + 1)).flatten
  (s, [0x12, 0x03, 0, 1] ++ chainDigest ++ nonce ++ sum ++ [0, 0] ++ sig)

/-- MEASUREMENTS (R222): their number, one, or all of Table 8-8, signed where the request asks. -/
def State.measurements (s : State) (req : List Byte) : State × List Byte :=
  let k := leAt req 3 1
  let l := if k = 0 then [] else if k = 0xFF then [1, 2, 3, 4, 5] else [k]
  let rec_ := (l.map fun k => s.measBlock k).flatten
  let (s, nonce, sig) := s.signed
  let sig := if bitOf (leAt req 2 1) 0 then sig else []
  (s, [0x12, 0x60, (if k = 0 then 5 else 0), 0] ++ leBytes 1 l.length ++ leBytes 3 rec_.length ++ rec_ ++ nonce ++ [0, 0] ++ sig)

/-- Sentinel has served a signing request: its response is sent, where the context still works (R222).
(Log: PRESUMED 120) -/
def State.signReply (s : State) (c : Fin 3) (req : List Byte) : State :=
  if s.spdmThere c then
    let (t, b) := if leAt req 1 1 = 0x83 then s.challengeAuth req else s.measurements req
    t.spdmSend c b
  else s

end Sys2Proof.Machine
end

