-- ==== Sys2Proof/Machine/Sentinel.lean ====
section
/-!
DEFINITION. The Sentinel mailbox and the Service heartbeat (chapter 06).
-/

namespace Sys2Proof.Machine

/-- Occupies a mailbox slot. -/
def State.mbxPut (s : State) (r : MbxReq) : State :=
  ({ s with snt := { s.snt with mbx := s.snt.mbx ++ [(⟨r, true⟩ : Mbx)] } }).mbxShow

/-- Places a request in a mailbox slot (R155): the mailbox hardware refuses it when every slot is occupied, and a tag that the ledger
lacks or that a slot quotes.
(Log: DEDUCED 84, 85) -/
def State.mbxAsk (s : State) (r : MbxReq) : State :=
  if 8 ≤ s.snt.mbx.length then s.mbxRefused none
  else
    match r with
    | .cmd t e =>
      match s.cmd t with
      | none => s.mbxRefused none
      | some c =>
        if s.snt.mbx.any fun m => quotes t m.req then s.mbxRefused none
        else if c.st = .fetched ∧ e = c.entry then (s.modCmd t fun c => { c with st := .asked }).mbxPut r
        else s.mbxPut r
    | _ => s.mbxPut r

/-- MAILBOX_REQUEST (R155): Service firmware forwards a fetched command by its tag, or asks on its own behalf. -/
def execMailboxRequest (r : MbxReq) (s : State) : Res := .next <| if s.cmdRuns then s.mbxAsk r else s

/-- The heartbeat (R159): only the last accepted value plus one is accepted; every other value is counted. -/
def State.heartbeat (s : State) (v : Word) : State :=
  if v = s.reg 0x3820 + 1 then
    let s := s.setReg 0x3820 v
    { s with snt := { s.snt with hbEnd := some (s.after (s.get SNT_HBCFG_PERIOD)) } }
  else s.count SNT_HBSTAT_BADCNT

/-- HEARTBEAT_POST (R148, R159): Service firmware posts a heartbeat through a mailbox slot; Sentinel judges it as it serves the slot. -/
def execHeartbeatPost (v : Word) (s : State) : Res := .next <| if s.cmdRuns then s.mbxAsk (.heartbeat v) else s

/-- The rank of a waiting request: the origin's in the order of R18; none for a slot already answered.
(Log: DEDUCED 83) -/
def State.mbxRank (s : State) (m : Mbx) : Option Nat :=
  if !m.asked then none
  else
    match m.req with
    | .cmd t _ => (s.cmd t).map fun c => s.rank c.origin
    | .sign c _ => some (if c = 2 then s.rank .sideband else s.rank (.owner (if c = 0 then .hpa else .hpb)))
    | _ => some (s.rank .service)

/-- The request served next: the best origin's oldest (R156).
(Log: DEDUCED 83) -/
def State.mbxPick (s : State) : Option MbxReq :=
  let l := s.snt.mbx.filterMap fun (m : Mbx) => (s.mbxRank m).map fun k => (k, m.req)
  (l.foldl (fun (b : Option (Nat × MbxReq)) x =>
    match b with
    | some y => if x.1 < y.1 then some x else some y
    | none => some x) none).map fun x => x.2

/-- Frees the slot of a request.
(Log: DEDUCED 82) -/
def State.mbxFree (s : State) (r : MbxReq) : State :=
  ({ s with snt := { s.snt with mbx := s.snt.mbx.erase (⟨r, true⟩ : Mbx) } }).mbxShow

/-- The slot of a granted request is answered. -/
def State.mbxAnswered (s : State) (t : Tag) : State :=
  { s with snt := { s.snt with mbx := s.snt.mbx.map fun m => if quotes t m.req then { m with asked := false } else m } }

/-- Sentinel judges a request `e` that quotes the tag of `c`, by the origin of the tag (R156). Granted, it runs under that tag;
refused, its slot is free, and the command fails if the request was its own.
(Log: DEDUCED 82, 85, 87) -/
def State.serveCmd (s : State) (c : Cmd) (e : SqEntry) : State :=
  match s.cmdCheck c.ring e with
  | none =>
    (s.modCmd c.tag fun c => { c with
      st := .granted, entry := { e with cid := c.entry.cid, flags := c.entry.flags } }).mbxAnswered c.tag
  | some st =>
    let s := (s.refuseNote c e st).mbxFree (.cmd c.tag e)
    if c.st = .asked then (s.complete c.tag st 0 0).mbxShow else s

/-- Sentinel serves a request of Service firmware's own (R137, R148, R155, R159).
(Log: DEDUCED 165) -/
def State.serveOwn (s : State) : MbxReq → State
  | .record code subject a0 a1 a2 a3 a4 =>
    if code.toNat / 4096 == 0xC then
      let s := s.touch
      s.logAt s.now .service code.toNat subject.toNat
        [some a0.toNat, some a1.toNat, some a2.toNat, some a3.toNat, some a4.toNat]
    else s.mbxRefuse .service 0x30
  | .heartbeat v => s.heartbeat v
  | .journalRead i q => s.emit (.svc (s.st.read i q.toNat).2.2)
  | .post r v => s.postRemote r v.toNat
  | .sign c req => s.signReply c req
  | _ => s.mbxRefuse .service 0x30

/-- MAILBOX_SERVE (R40, R155 to R158): in a housekeeping slot Sentinel takes the best request. A forwarded one is granted, or refused
with the first failing check's status; firmware's own requests act at once.
(Log: DEDUCED 82, 87) -/
def execMailboxServe (s : State) : Res :=
  .next <|
    if !s.sentinelRuns || !s.slot || !s.rst.core then s
    else
      match s.mbxPick with
      | none => s
      | some (.cmd t e) =>
        match s.cmd t with
        | none => s
        | some c => s.serveCmd c e
      | some r => (s.mbxFree r).serveOwn r

/-- HEARTBEAT_LOST (R21, R160): no value was accepted within PERIOD frames. The record, then a domain power-down that ends in
a Core reset or, with the restarts used up, in Autonomous mode. Requests not begun are discarded. -/
def execHeartbeatLost (s : State) : Res :=
  .next <|
    match s.snt.hbEnd with
    | some e =>
      if s.due e && s.cmdRuns && s.rst.downFor.isNone then
        let s := s.log 0x5003 0 []
        let s := ({ s with snt := { s.snt with hbEnd := none, mbx := [] } }).mbxShow
        { s with rst := { s.rst with downFor := some .heartbeat } }
      else s
    | none => s

/-- HB_RESTARTS_CLEAR (R160): 480,000 frames of Service operation without a loss. -/
def execHbRestartsClear (s : State) : Res :=
  .next <|
    if s.on GLB_STATUS_SVC_RUN && s.due s.snt.hbClear && s.get SNT_HBSTAT_RESTARTS != 0 then
      let s := s.put SNT_HBSTAT_RESTARTS 0
      { s with snt := { s.snt with hbClear := s.after 480000 } }
    else s

end Sys2Proof.Machine
end

