-- ==== Sys2Proof/Machine/Host.lean ====
section
/-!
DEFINITION. The host ports (chapter 08): links, failover, functions, refused accesses, translations and page requests, function
level resets.
-/

namespace Sys2Proof.Machine

/-! ## What a port still waits for -/

/-- Does a read of an owner stand outstanding: a chain-cache miss, or a read or confirmation of the Block Mover?
(Log: DEDUCED 135) -/
def State.ownerBusy (s : State) (w : Who) : Bool :=
  (match s.cch.miss with
    | some m => whoOfCode m.owner == w
    | none => false) ||
    (upTo 16).any fun n =>
      let c := s.chan n
      s.dcOwner n == w && (!c.flight.isEmpty || c.resp.isSome || c.fetching || c.preAsk)

/-- Does a non-posted request stand outstanding on a port? -/
def State.portBusy (s : State) (p : Port) : Bool := owners.any fun w => s.portOf w == p && s.ownerBusy w

/-- Sends the PME_TO_Ack that is due once every request has completed and every posted write has left; the link goes to L2/L3 Ready
(R191).
(Log: DEDUCED 117) -/
def State.pmeTry (s : State) (p : Port) : State :=
  let due := if p = Port.hpa then s.hst.pmeA else s.hst.pmeB
  if due && !s.portBusy p then
    let h : Hst := if p = Port.hpa then { s.hst with pmeA := false, l23A := true } else { s.hst with pmeB := false, l23B := true }
    ((({ s with hst := h }).emit (.pmeAck p)).put (linkF p) 0).servedShow
  else s

/-- Sets a function's condition of R203 on a port. -/
def State.setFn (s : State) (p : Port) (fn : Nat) (b : Bool) : State :=
  let h : Hst := if p = Port.hpa then { s.hst with fnA := modAt s.hst.fnA fn fun _ => b }
    else { s.hst with fnB := modAt s.hst.fnB fn fun _ => b }
  { s with hst := h }

/-- The tick of the frame in which a port's data link went down, while its failover is due. -/
def State.downOf (s : State) (p : Port) : Option Nat := if p = Port.hpa then s.hst.downA else s.hst.downB

/-- Marks a port's failover as due, or as done. -/
def State.setDown (s : State) (p : Port) (d : Option Nat) : State :=
  { s with hst := if p = Port.hpa then { s.hst with downA := d } else { s.hst with downB := d } }

/-! ## Links -/

/-- LINK_UP (R189): a port whose transmitters may train reaches L0, at a rate up to MAXRATE; a PERST that held it down has
ended.
(Log: DESIGN CHOICE 13; DEDUCED 109) -/
def execLinkUp (p : Port) (rate : Fin 4) (x2 : Bool) (s : State) : Res :=
  .next <|
    if s.coreRuns && !s.on (idleF p) && !s.linkUp p && (s.downOf p).isNone then
      let r := min rate.val (s.get (HST_PORTCFG_MAXRATE p.num))
      let s := ((s.put (linkF p) 2).put (rateF p) r).putB (widthF p) x2
      let s : State := { s with hst :=
        if p = Port.hpa then { s.hst with perstA := false, l23A := false } else { s.hst with perstB := false, l23B := false } }
      (s.log 0x7001 p.num [some (argCode 0x7001 (r + 4 * b2n x2))]).servedShow
    else s

/-- HOT_RESET (R193, R208): a Link reset of the port; nothing fails over.
(Log: DEDUCED 110) -/
def execHotReset (p : Port) (s : State) : Res :=
  .next <|
    if s.linkUp p then
      let s := (s.log 0x7002 p.num [some (argCode 0x7002 0)]).rollback p
      (s.linkReset p 12).servedShow
    else s

/-- The data link of a port goes down (R206 step 1): outstanding requests are discarded and their items roll back; the
failover follows at the next tick.
(Log: DEDUCED 110) -/
def State.dlDown (s : State) (p : Port) : State :=
  if s.linkUp p then
    let s := ((s.put (linkF p) 0).log 0x7002 p.num [some (argCode 0x7002 1)]).rollback p
    s.setDown p (some s.tb.ticks)
  else s

/-- DL_DOWN (R206). -/
def execDlDown (p : Port) (s : State) : Res := .next (s.dlDown p)

/-- PERST_ASSERT (R474): the port's link is held down. -/
def execPerstAssert (p : Port) (s : State) : Res :=
  .next <|
    ({ s with hst := if p = Port.hpa then { s.hst with perstA := true } else { s.hst with perstB := true } }).dlDown p

/-- Failover off port `p` (R206 to R208): those that can move do, and resume from the next tick.
(Log: DEDUCED 111) -/
def State.failoverMove (s : State) (p : Port) : State :=
  let l := (s.boundTo p).filter fun w => s.failsOver p w
  let s := s.failoverFrom p
  { s with hst := { s.hst with rebind := s.hst.rebind ++ l.map fun w => (w, p.other, s.tb.ticks + 1) } }

/-- The failover that a DL_Down brings, and the Link reset of the port. -/
def State.failover (s : State) (p : Port) : State :=
  ((((s.failoverMove p).linkReset p 13).setDown p none).servedShow)

/-- FAILOVER (R206, R208): at the tick after DL_Down.
(Log: DEDUCED 110) -/
def execFailover (p : Port) (s : State) : Res :=
  .next <|
    match s.downOf p with
    | some t => if t < s.tb.ticks then s.failover p else s
    | none => s

/-- PME_TURN_OFF (R191).
(Log: DEDUCED 117) -/
def execPmeTurnOff (p : Port) (s : State) : Res :=
  .next <|
    if s.linkUp p then
      (({ s with hst := if p = Port.hpa then { s.hst with pmeA := true } else { s.hst with pmeB := true } })).pmeTry p
    else s

/-! ## Functions -/

/-- VI_ORPHAN (R203, R204, R338): a function leaves D0 (`d3`), or loses Memory Space or Bus Master Enable. PF0 in D3hot takes a link
in L0 to L1 (R191).
(Log: DEDUCED 109) -/
def execViOrphan (p : Port) (fn : Fin 17) (d3 : Bool) (s : State) : Res :=
  .next <|
    let s := s.setFn p fn.val false
    let s := if d3 && fn.val == 0 then
        let s := s.put (d3F p) 1
        if s.linkUp p then s.put (linkF p) 3 else s
      else s
    s.servedShow

/-- Sets what the host configures in a function. -/
def State.setCfg (s : State) (p : Port) (fn : Nat) (c : FnCfg) : State :=
  { s with hst := if p = Port.hpa then { s.hst with cfgA := modAt s.hst.cfgA fn fun _ => c }
      else { s.hst with cfgB := modAt s.hst.cfgB fn fun _ => c } }

/-- VI_SERVED (R203, R204): a function is in D0 with Memory Space and Bus Master Enable set, and configured; a configuration request
needs a link, which PF0's return to D0 finds in L0 (R191). -/
def execViServed (p : Port) (fn : Fin 17) (cfg : FnCfg) (s : State) : Res :=
  .next <|
    if s.linkUp p then
      let s := (s.setFn p fn.val true).setCfg p fn.val cfg
      (if fn.val == 0 then (s.put (d3F p) 0).put (linkF p) 2 else s).servedShow
    else s

/-- BAD_ACCESS (R200, R215, Table 8-3): a memory request that is not one aligned full dword has no effect on any register but the
error's; an AtomicOp is an Unsupported Request. -/
def execBadAccess (p : Port) (fn : Fin 17) (bar2 : Bool) (off : BitVec 18) (kind : ReqKind) (s : State) : Res :=
  .next <|
    if s.linkUp p then
      if kind = .atomic then (s.emit (.refuse p true)).aerReport p fn.val .unsupported
      else
        let s := (s.put HST_ERRSTAT_BADACC 1).put HST_ERRADDR_OFFSET off.toNat
        let s := ((s.put HST_ERRADDR_FUNC fn.val).put HST_ERRADDR_PORT p.num).putB HST_ERRADDR_BAR bar2
        let s := s.log 0x7005 fn.val [some off.toNat]
        if kind = .write then s else (s.emit (.refuse p false)).aerReport p fn.val .completerAbort
    else s

/-- UNBOUND_ACCESS (R201, R215): a request to the BAR0 of a VF whose VI is not bound to the port.
(Log: DEDUCED 113, 118) -/
def execUnboundAccess (p : Port) (v : Fin 16) (write : Bool) (s : State) : Res :=
  .next <|
    if s.linkUp p && !(s.viEn (some v) && s.portOf (some v) == p) then
      if write then s.count HST_ERRSTAT_UNBOUND
      else (s.emit (.refuse p true)).aerReport p (fnOf (some v)) .unsupported
    else s

/-! ## Identity (R194, R195) -/

/-- The identity of a function (Table 8-1). -/
structure PcieId where
  vendor : Nat
  device : Nat
  revision : Nat
  class_ : Nat
  subsys : Word
  deriving DecidableEq, Repr

/-- The identity that PF0 (`fn` 0) or a VF shows (R194). -/
def State.pcieId (s : State) (fn : Nat) : PcieId :=
  ⟨(s.reg 0).toNat % 65536, if fn = 0 then 0x2408 else 0x2409, 0x11, 0x088000, s.reg 0x20⟩

/-- The SR-IOV capability of PF0 (R194): TotalVFs, InitialVFs, First VF Offset, VF Stride. -/
def sriov : Nat × Nat × Nat × Nat := (16, 16, 1, 1)

/-- The function number of VF `k` (R194). -/
def vfNumber (k : Nat) : Nat := sriov.2.2.1 + (k - 1) * sriov.2.2.2

/-- The capabilities of Table 8-2. -/
inductive PcieCap where
  | express | power | msix | aer | sriov | ari | ats | pri | pasid | doe | flr
  deriving DecidableEq, Repr

/-- The capabilities that a function presents (R194, R195). -/
def pcieCaps (fn : Nat) : List PcieCap :=
  if fn = 0 then [.express, .power, .msix, .aer, .sriov, .ari, .ats, .pri, .pasid, .doe, .flr]
  else [.express, .power, .msix, .aer, .ari, .ats, .flr]

/-- The values those capabilities report (Table 8-2, R190): MSI-X vectors, Invalidate Queue Depth, Smallest Translation Unit, Outstanding
Page Request Capacity, PASID bits, the largest DOE object in dwords, Max Payload Size Supported and tag bits. -/
def pcieValues (fn : Nat) : List Nat := [if fn = 0 then 64 else 8, 8, 4096, 32, 20, 1024, 256, 8]

/-- The DOE object types of PF0 (Table 8-2): vendor ID and type of Discovery and of CMA/SPDM. -/
def doeObjects : List (Nat × Nat) := [(1, 0), (1, 1)]

/-! ## The VF mirror (R198, R466) -/

/-- The word that a VI reads at `off` of its VF BAR0 mirror (Table 20-11): its source's value, 0 for a resource of another.
(Log: DESIGN CHOICE 134) -/
def State.vfMirror (s : State) (v : Fin 16) (off : Nat) : Word :=
  let w : Who := some v
  let sc (n : Nat) (src : Nat) : Word := if s.scOwner n == w then s.reg src else 0
  let dc (n : Nat) (src : Nat) : Word := if s.dcOwner n == w then s.reg src else 0
  let lamp (n : Nat) (src : Nat) : Word := if whoOfCode (s.get (LMP_CFG_OWNER n)) == w then s.reg src else 0
  let sess := if bitOf (s.get CRD_VIPERM_VIS) v.val then s.crd.sess.find? fun x => x.port == 0 && x.owner == w else none
  let excl (x : Sess) : Bool := s.on (sessExcl 0) && s.get (sessExHandle 0) == x.handle
  if 0x2100 ≤ off && off < 0x2200 then sc ((off - 0x2100) / 8) (0xC200 + (off - 0x2100))
  else if 0x2200 ≤ off && off < 0x2300 then
    let n := (off - 0x2200) / 8
    sc n (if off % 8 = 0 then (CPE_SCPTR_LO_ADDR n).off else (CPE_SCPTR_HI_ADDR n).off)
  else if 0x2300 ≤ off && off < 0x2380 then sc ((off - 0x2300) / 4) (CPE_SCSEQ_SEQ ((off - 0x2300) / 4)).off
  else if 0x2400 ≤ off && off < 0x2440 then dc ((off - 0x2400) / 4) (BMV_DCSTAT_STATE ((off - 0x2400) / 4)).off
  else if 0x2440 ≤ off && off < 0x2480 then dc ((off - 0x2440) / 4) (BMV_DCRES_BYTES ((off - 0x2440) / 4)).off
  else if 0x2480 ≤ off && off < 0x2500 then
    let n := (off - 0x2480) / 8
    dc n (if off % 8 = 0 then (BMV_DCPTR_LO_ADDR n).off else (BMV_DCPTR_HI_ADDR n).off)
  else if 0x2500 ≤ off && off < 0x2540 then dc ((off - 0x2500) / 4) (BMV_DCCRQPTR_WR ((off - 0x2500) / 4)).off
  else if off = 0x2600 then
    match sess with
    | some x => BitVec.ofNat 32 (x.handle + 2 ^ 16 + 2 ^ 17 * b2n (excl x) + 2 ^ 20 * s.get (CRD_PSTAT_STATE 0))
    | none => 0
  else if off = 0x2604 then
    match sess with
    | some x => if excl x then BitVec.ofNat 32 (s.get (sessEnd 0)) else 0
    | none => 0
  else if 0x2700 ≤ off && off < 0x2720 then lamp ((off - 0x2700) / 4) (LMP_STAT_DIAG ((off - 0x2700) / 4)).off
  else if 0x2720 ≤ off && off < 0x2740 then lamp ((off - 0x2720) / 4) (LMP_LEVEL_LEVEL ((off - 0x2720) / 4)).off
  else if 0x2740 ≤ off && off < 0x2760 then lamp ((off - 0x2740) / 4) (LMP_PATTERN_CODE ((off - 0x2740) / 4)).off
  else 0

/-! ## Invalidations (R211) -/

/-- INVALIDATION_REQUEST (R211): every matching entry goes, and the completion is owed; at most 8 are held.
(Log: DEDUCED 114) -/
def execInvalidationRequest (p : Port) (fn : Fin 17) (pasid lo hi : Nat) (s : State) : Res :=
  .next <|
    if s.linkUp p && decide (s.hst.inval.length < 8) then
      let hit (e : Port × Nat × Nat × Nat × Bool) : Bool :=
        let (q, f, a, pg, _) := e
        q == p && f == fn.val && a == pasid && decide (lo ≤ pg) && decide (pg ≤ hi)
      ({ s with hst := { s.hst with
        atc := s.hst.atc.filter fun e => !hit e
        inval := s.hst.inval ++ [(p, fn.val, pasid)] } }).atcShow
    else s

/-- The owner of a function. -/
def ownerOfFn (fn : Nat) : Who := if fn = 0 then none else whoOfCode (fn - 1)

/-- INVALIDATION_COMPLETE (R211): the requests issued with the translations have completed and the completion is sent.
(Log: DEDUCED 114) -/
def execInvalidationComplete (p : Port) (fn : Fin 17) (s : State) : Res :=
  .next <|
    match s.hst.inval.find? fun e => e.1 == p && e.2.1 == fn.val with
    | some e =>
      if s.portOf (ownerOfFn fn.val) == p && s.ownerBusy (ownerOfFn fn.val) then s
      else (({ s with hst := { s.hst with inval := s.hst.inval.erase e } }).atcShow).emit (.invDone p fn.val)
    | none => s

/-! ## Translation faults and page requests (R212, R213, R269, R317) -/

/-- The owner whose access a page request serves. -/
def State.pgWho (s : State) : PgFor → Who
  | .sub n => s.scOwner n
  | .ssr n => s.scOwner n
  | .chanData n => s.dcOwner n
  | .chanFetch n => s.dcOwner n
  | .chanRec n => s.dcOwner n
  | .buf t =>
    match s.cmd t with
    | some c => whoOf c.ring
    | none => none

/-- Has the target an access that can meet a translation fault? A POST's or a SENSE's address is translated before the entry takes effect.
(Log: DEDUCED 115) -/
def State.pgBusy (s : State) : PgFor → Bool
  | .sub n =>
    let u := s.sub n
    s.scSt n == scACTIVE && (decide (u.ph = .fetch ∨ u.ph = .op) || (decide (u.ph = .ready) && (u.cce.code == 0x0B || u.cce.code == 0x23)) ||
      (decide (u.ph = .adm) && u.cce.code == 0x23))
  | .ssr n => (s.sub n).ssr.isSome
  | .chanData n => s.dcSt n == dcACTIVE && !(s.chan n).flight.isEmpty
  | .chanFetch n => (s.chan n).fetching || (s.chan n).preAsk
  | .chanRec n => (s.chan n).rec_.isSome
  | .buf t => (s.cmd t).isSome

/-- The affected item waits at its resume point: a subchannel closes its operation, a channel drops its bursts in flight
unwritten.
(Log: DEDUCED 115) -/
def State.pgSuspend (s : State) : PgFor → State
  | .sub n =>
    let s := s.modCch fun c => { c with miss := match c.miss with
      | some m => if m.sub == n.val then none else some m
      | none => none }
    ((s.portRelease n).admDrop n).put (CPE_SCSTAT0_STATE n) scPAGE
  | .chanData n =>
    (s.modChan n fun c => { c with flight := [], issued := c.written }).put (BMV_DCSTAT_STATE n) dcPAGE
  | .chanFetch n => (s.modChan n fun c => { c with fetching := false }).put (BMV_DCSTAT_STATE n) dcPAGE
  | .chanRec n =>
    if s.dcSt n == dcACTIVE then s.put (BMV_DCSTAT_STATE n) dcPAGE else s
  | _ => s

/-- The item goes on: the access is made again. -/
def State.pgResume (s : State) : PgFor → State
  | .sub n => if s.scSt n == scPAGE then s.scGo n else s
  | .ssr n =>
    match (s.sub n).ssr with
    | some (a, b) => s.hostPut (s.scOwner n) a b none
    | none => s
  | .chanData n =>
    if s.dcSt n == dcPAGE then ((s.put (BMV_DCSTAT_STATE n) dcACTIVE).dcKick n).dcProgress n else s
  | .chanFetch n => if s.dcSt n == dcPAGE then (s.put (BMV_DCSTAT_STATE n) dcACTIVE).dcKick n else s
  | .chanRec n =>
    let s := if s.dcSt n == dcPAGE then (s.put (BMV_DCSTAT_STATE n) dcACTIVE).dcKick n else s
    match (s.chan n).rec_ with
    | some (a, b) => s.hostPut (s.dcOwner n) a b none
    | none => s
  | .buf _ => s

/-- An SSR that cannot be written (R269): the subchannel stops, and the record carries the SSR's fields.
(Log: DEDUCED 142) -/
def State.ssrFail (s : State) (n : Nat) (b : List Byte) : State :=
  let ts := leAt b 16 8
  let s := (((s.portRelease n).admDrop n).scPriDrop n).put (CPE_SCSTAT0_SSR_FAIL n) 1
  let s := ((s.put (CPE_SCSTAT0_STATE n) scSTOPPED).put (CPE_SCSTAT0_HOLDS n) 0).modSub n fun u =>
    { u with ph := .off, got := none, head := none, forced := false, apert := [], ssr := none }
  s.logAt ts .sentinel 0x8002 n
    [some (leAt b 24 2 + 2 ^ 16 * leAt b 26 1 + 2 ^ 24 * leAt b 27 1), some (leAt b 28 2 + 2 ^ 16 * leAt b 30 2),
      some (s.ssrBase n % 2 ^ 32), some (leAt b 0 8), some (leAt b 8 8)]

/-- A record that cannot be written (R317). -/
def State.crqFail (s : State) (n a : Nat) (b : List Byte) : State :=
  let w := (s.chan n).waits
  let s := s.dcPriDrop n
  let s := (s.admDrop (32 + n)).put (BMV_DCSTAT_CRQ_FAIL n) 1
  let s := (s.put (BMV_DCSTAT_STATE n) dcSTOPPED).modChan n fun c =>
    { c with ph := .off, fetching := false, pre := none, preAsk := false, flight := [], resp := none, issued := c.conf
             written := c.conf, slots := 0, stop := none, waits := [] }
  let s := (s.put (BMV_DCSTAT_HOLDS n) 0).dcWaitEnd w
  s.logAt (leAt b 0 8) .sentinel 0x9003 n
    [some (leAt b 12 2 + 2 ^ 16 * leAt b 14 1 + 2 ^ 24 * leAt b 15 1), some (leAt b 8 4), none, some a]

/-- The move of a command's buffer fails with no byte moved: AUX is its length (R245). -/
def State.bufFail (s : State) (t : Tag) (status : Nat) : State :=
  match s.cmd t with
  | some c => s.complete t status 0 c.entry.len.toNat
  | none => s

/-- The page is refused (R213): the item fails with 0x54 and PAGE_REFUSED is recorded.
(Log: DEDUCED 115) -/
def State.pgRefuse (s : State) (g : PgFor) (addr : Nat) : State :=
  let s := s.log 0x7007 (match s.pgWho g with | some v => v.val | none => 0xFF) [none, none, none, some addr]
  match g with
  | .sub n => if s.scSt n == scIDLE then s else s.scFail n 0x54 addr
  | .ssr n =>
    match (s.sub n).ssr with
    | some (_, b) => s.ssrFail n b
    | none => s
  | .chanData n =>
    if s.dcSt n == dcACTIVE || s.dcSt n == dcPAGE then
      let s := (s.put (BMV_DCSTAT_STATE n) dcACTIVE).modChan n fun c => { c with flight := [], issued := c.written }
      s.dcBegin n (.bad 0x54 0 addr)
    else s
  | .chanFetch n =>
    if s.dcSt n == dcACTIVE || s.dcSt n == dcPAGE then
      let s := s.dcRecord n 0 0xFFFF 0x54 4 false
      (s.put (BMV_DCSTAT_STATE n) dcSTOPPED).modChan n fun c =>
        { c with ph := .off, fetching := false, desc := none, conf := 0, pre := none, preAsk := false, slots := 0 }
    else s
  | .chanRec n =>
    match (s.chan n).rec_ with
    | some (a, b) => s.crqFail n a b
    | none => s
  | .buf t => s.bufFail t 0x54

/-- The translation cache holds no entry for the page whose translation failed (R210, R212). -/
def State.atcDrop (s : State) (w : Who) (addr : Nat) : State :=
  let p := s.portOf w
  let hit (e : Port × Nat × Nat × Nat × Bool) : Bool :=
    let (q, f, i, pg, _) := e
    q == p && f == fnOf w && i == (s.pasid w).getD 0 && pg == addr / 4096
  ({ s with hst := { s.hst with atc := s.hst.atc.filter fun e => !hit e } }).atcShow

/-- TRANSLATION_FAULT (R210, R212): a translation of a function with ATS enabled fails. With PRI enabled the item is suspended and one page
request is sent or waits its turn; with PRI disabled the item fails at once. A prefetch is dropped and fetched again
when it is due; a channel that is stopping drops its burst, which its stop has not moved.
(Log: DEDUCED 115) -/
def execTranslationFault (g : PgFor) (addr : Nat) (write : Bool) (s : State) : Res :=
  .next <|
    if !s.coreRuns || !s.pgBusy g || !s.atsOn (s.pgWho g) || s.hst.pri.any fun q => q.tgt == g then s
    else
      let s := s.atcDrop (s.pgWho g) addr
      let pre : Option Nat := match g with
        | .chanFetch n => if (s.chan n).fetching then none else some n.val
        | _ => none
      let stopping : Option Nat := match g with
        | .chanData n => if (s.chan n).stop.isSome then some n.val else none
        | _ => none
      match pre, stopping with
      | some n, _ => s.modChan n fun c => { c with preAsk := false, slots := c.slots - 1 }
      | none, some n => (s.modChan n fun c => { c with flight := [], issued := c.written }).dcProgress n
      | none, none =>
        let p := s.portOf (s.pgWho g)
        if (s.fnCfg p 0).pri.isSome then
          let q : PageReq := ⟨s.pgWho g, g, addr, write, 0, false⟩
          let s := ({ s with hst := { s.hst with pri := s.hst.pri ++ [q] } }).pgSuspend g
          s.atcShow.priSend
        else s.pgRefuse g addr

/-- The request of a target that is outstanding at the host. -/
def State.priOf (s : State) (g : PgFor) : Option PageReq := s.hst.pri.find? fun q => q.tgt == g && q.sent

/-- Ends a page request: its item goes on, and its access is translated again, or fails (R213). -/
def State.priEnd (s : State) (q : PageReq) (ok : Bool) : State :=
  let s := s.priDrop fun x => x = q
  if ok then s.pgResume q.tgt else s.pgRefuse q.tgt q.addr

/-- PAGE_REQUEST_RESPONSE (R213): Success, or Invalid Request or Response Failure. A response to a request that was dropped is
discarded.
(Log: DEDUCED 115) -/
def execPageRequestResponse (g : PgFor) (ok : Bool) (s : State) : Res :=
  .next <|
    match s.priOf g with
    | some q => s.priEnd q ok
    | none => s

/-- PRI_TIMEOUT (R213): no response within HST_PRICFG.TMO. -/
def execPriTimeout (g : PgFor) (s : State) : Res :=
  .next <|
    match s.priOf g with
    | some q => if s.due q.end_ then s.priEnd q false else s
    | none => s

/-- Does a read of the target stand outstanding? -/
def State.npOut (s : State) : PgFor → Bool
  | .sub n =>
    (match s.cch.miss with
      | some m => m.sub == n.val
      | none => false) || (s.scSt n == scACTIVE && decide ((s.sub n).ph = .op))
  | .chanData n => !(s.chan n).flight.isEmpty
  | .chanFetch n => (s.chan n).fetching || (s.chan n).preAsk
  | .ssr _ => false
  | .chanRec n => (s.chan n).resp.isSome
  | .buf t => (s.cmd t).isSome && s.cmdRuns

/-- A read of the target gets no completion: a bus error of its kind (R196, R214, R268, R313, R314); `addr` is the failing address of a
subchannel's list or data read.
(Log: DEDUCED 116) -/
def State.complTimeout (s : State) (addr : Nat) : PgFor → State
  | .sub n =>
    if !s.coreRuns then s
    else
      match s.cch.miss with
      | some m =>
        if m.sub == n.val then
          let s := s.modCch fun c => { c with miss := none }
          if s.scFetching n && s.scAddr n == m.addr then s.scStop n whyERROR 0x50 0 m.addr else s
        else s
      | none =>
        if s.scSt n == scACTIVE && decide ((s.sub n).ph = .op) then s.scFail n 0x50 addr else s
  | .chanData n =>
    match (s.chan n).desc, (s.chan n).flight with
    | some d, b :: _ => if d.srcX then s else s.dcDataError n 5 (d.srcAt b.off)
    | _, _ => s
  | .chanFetch n => s.engineStop n true
  | .ssr _ => s
  | .chanRec n =>
    match (s.chan n).resp, (s.chan n).desc with
    | some k, some d => (s.modChan n fun c => { c with resp := none }).dcDataError n 2 (d.dstAt (k - 1) / 4 * 4)
    | _, _ => s
  | .buf t => if s.cmdRuns then s.bufFail t 0x50 else s

/-- COMPLETION_TIMEOUT (R196, R214, R215, R268, R313, R314): the timeout of the function that made the request runs out, unless it is
disabled; the error is reported.
(Log: DEDUCED 116) -/
def execCompletionTimeout (g : PgFor) (addr : Nat) (s : State) : Res :=
  .next <|
    let w := s.pgWho g
    let p := s.portOf w
    if (s.fnCfg p (fnOf w)).cto.isNone || !s.npOut g then s
    else (s.aerReport p (fnOf w) .completionTimeout).complTimeout addr g

/-! ## Function level resets (R216, R217) -/

/-- The MSI-X table of an owner's function on a port reverts, and a VF mirror's captures end (R36). -/
def State.msixReset (s : State) (w : Who) (p : Port) : State :=
  let b := msixBase (whoNum w) p.num
  ({ s with regs := keepRegs (fun off _ => !(decide (b ≤ off) && decide (off < b + 0x4000))) s.regs }).capDrop
    fun r => match r with
      | .vf v => some v == w && s.portOf w == p
      | _ => false

/-- The VI reset of a VF's FLR, once no request of the VI is outstanding; then the reset is done and its record is written (R216). -/
def State.flrEnd (s : State) (v : Fin 16) : State :=
  let n := s.ownerItems (some v)
  (s.viReset v 15).log 0x7006 (fnOf (some v)) [some n]

/-- Ends the function level resets whose outstanding requests have all completed or timed out (R216). -/
def State.flrTry (s : State) : State :=
  s.hst.flr.foldl (fun t e =>
    if t.ownerBusy (some e.2) then t
    else ({ t with hst := { t.hst with flr := t.hst.flr.filter fun x => x != e } }).flrEnd e.2) s

/-- VF_FLR (R216): a VI reset of a VI bound to the port, after a failover that is still due, once its bursts have ended and its
outstanding requests have completed; else only the VF's configuration state on this port.
(Log: DEDUCED 112) -/
def execVfFlr (p : Port) (v : Fin 16) (s : State) : Res :=
  .next <|
    if s.linkUp p then
      let w : Who := some v
      let s := if (s.downOf p.other).isSome && s.portOf w == p.other && s.viEn w then s.failover p.other else s
      let k := fnOf w
      let s := (((s.setFn p k false).setCfg p k FnCfg.reset).msixReset w p).servedShow
      if s.viEn w && s.portOf w == p then
        if s.ownerBusy w then
          if s.hst.flr.contains (p, v) then s else { s with hst := { s.hst with flr := s.hst.flr ++ [(p, v)] } }
        else s.flrEnd v
      else s.log 0x7006 k [some 0]
    else s

/-- PF_FLR (R217): failover of what can move, then a Link reset of the port; the link itself stays up.
(Log: DEDUCED 112) -/
def execPfFlr (p : Port) (s : State) : Res :=
  .next <|
    if s.linkUp p then
      let keep := [(linkF p, s.get (linkF p)), (rateF p, s.get (rateF p)), (widthF p, s.get (widthF p))]
      let s := (s.log 0x7002 p.num [some (argCode 0x7002 2)]).rollback p
      let s := s.failoverMove p
      let n := ((s.boundTo p).map fun w => s.ownerItems w).sum
      let s := s.linkReset p 14
      let s := keep.foldl (fun (t : State) x => t.put x.1 x.2) s
      (s.log 0x7006 0 [some n]).servedShow
    else s

/-! ## The SMBus address -/

/-- SMBCFG_WRITE (R454): the new address serves from the next START; the change is journalled with the writing port's
origin. -/
def execSmbcfgWrite (p : Port) (v : Word) (s : State) : Res :=
  .next <|
    let t := (s.put HST_SMBCFG_ADDR v.toNat).touch
    if s.reg 0xA02C = t.reg 0xA02C then s
    else
      t.journal ⟨Origin.code (.owner p), .commit, false, false, 0, [jItem 0xA02C (s.reg 0xA02C) (t.reg 0xA02C)], t.now,
        .change⟩

end Sys2Proof.Machine
end

