-- ==== Sys2Proof/Machine/Sideband.lean ====
section
/-!
DEFINITION. The SMBus sideband and the SPDM responder (chapter 08): the status set, MCTP control messages, attestation.
-/

namespace Sys2Proof.Machine

/-! ## The status set (R218, R219) -/

/-- A read's reply: its bytes, then the PEC over the whole transaction (R218, R219). -/
def State.smbReply (s : State) (cmd : Nat) (bytes : List Byte) : State :=
  if s.smbRuns then
    let a := s.get HST_SMBCFG_ADDR
    let all := [BitVec.ofNat 8 (2 * a), BitVec.ofNat 8 cmd, BitVec.ofNat 8 (2 * a + 1)] ++ bytes
    s.emit (.smb (bytes ++ [BitVec.ofNat 8 (crc8 all)]))
  else s

/-- A block read's reply: the byte count leads. -/
def State.smbBlock (s : State) (cmd : Nat) (bytes : List Byte) : State :=
  s.smbReply cmd (BitVec.ofNat 8 bytes.length :: bytes)

/-- SMB_IDENTITY: command 0x01 (Table 8-6). -/
def execSmbIdentity (s : State) : Res :=
  .next (s.smbBlock 0x01 (leBytes 4 (s.reg 0x0).toNat ++ leBytes 4 (s.reg 0x4).toNat))

/-- SMB_POWER_STATE: command 0x02. -/
def execSmbPowerState (s : State) : Res :=
  .next (s.smbReply 0x02
    (leBytes 1 (s.get RST_PSTATE_STATE + 4 * s.get GLB_STATUS_AUTONOMOUS + 8 * s.get GLB_AUTOCAUSE_CAUSE)))

/-- SMB_SEQ_STATE: command 0x03. -/
def execSmbSeqState (s : State) : Res :=
  .next (s.smbReply 0x03 (leBytes 1 (s.get PSQ_SEQSTAT_STATE) ++ leBytes 1 (s.get PSQ_SWSTAT_STATE)))

/-- SMB_ENERGY: command 0x04. -/
def execSmbEnergy (s : State) : Res :=
  .next (s.smbBlock 0x04
    (leBytes 4 s.sup.busVs ++ leBytes 4 (s.get SUP_LDG_PDRAW_MW) ++ leBytes 4 (s.get SUP_GRANT_W)))

/-- SMB_THERMAL: command 0x05. -/
def execSmbThermal (s : State) : Res :=
  .next (s.smbBlock 0x05 (leBytes 2 (s.get THM_EFF_HEADROOM) ++ leBytes 2 (s.get THM_EFF_DUTYMAX)))

/-- SMB_TIMESTAMP: command 0x06, the timestamp at the command byte. -/
def execSmbTimestamp (s : State) : Res :=
  .next <| if s.smbRuns then let s := s.touch; s.smbBlock 0x06 (leBytes 8 s.now) else s

/-- Has rail `n` a latched fault?
(Log: DEDUCED 119) -/
def State.railLatched (s : State) (n : Nat) : Bool :=
  s.on (SUP_RAILSTAT_OV_FLT n) || s.on (SUP_RAILSTAT_UV_FLT n) || s.on (SUP_RAILSTAT_PG_FLT n) ||
    s.on (SUP_RAILSTAT_SENSE_OPEN n)

/-- SMB_FAULTS: command 0x07. -/
def execSmbFaults (s : State) : Res :=
  let rail := firstBad 24 s.railLatched
  let crit := firstBad 9 fun i => s.on (almBit true i)
  let b1 := b2n rail.isSome + 2 * b2n crit.isSome + 4 * s.get SUP_DISSTAT_FAIL +
    8 * b2n (s.get PSQ_SEQSTAT_STATE == seqLOCKOUT)
  .next (s.smbBlock 0x07
    (leBytes 1 (s.get SUP_HSSTAT_CAUSE % 16 + 16 * b2n (s.get SUP_HSSTAT_STATE == hsFAULT)) ++ leBytes 1 b1 ++
      leBytes 1 (rail.getD 0xFF) ++ leBytes 1 (crit.getD 0xFF)))

/-- SMB_LAST_EVENT: command 0x08, the newest record of the Event Log that is VALID.
(Log: DEDUCED 119) -/
def execSmbLastEvent (s : State) : Res :=
  .next (s.smbBlock 0x08 (
    match (s.st.validRecs .log).getLast? with
    | some r => leBytes 4 r.seq ++ ((s.st.recBytes .log r).drop 16).take 2
    | none => List.replicate 6 0xFF))

/-- SMB_UNSUPPORTED (R218, R219): an unlisted command byte, a write to a status command, or a PEC that fails. -/
def execSmbUnsupported (_cmd : Byte) (s : State) : Res := .next <| if s.smbRuns then s.emit .smbNack else s

/-! ## MCTP control (R220) -/

/-- An MCTP control request: NACKed in Autonomous mode (R23), while Service firmware does not run, and with a bad PEC; else
answered with its command code and completion.
(Log: PRESUMED 120; DEDUCED 121) -/
def State.mctp (s : State) (pec : Bool) (code : Nat) (body : List Byte) : State :=
  if !s.smbRuns then s
  else if !pec || s.on GLB_STATUS_AUTONOMOUS || !s.cmdRuns then s.emit .smbNack
  else s.mctpSend ([0, 0, BitVec.ofNat 8 code] ++ body)

/-- SET_ENDPOINT_ID (R220): 0x00 and 0xFF are no endpoint IDs and are answered as invalid data. -/
def execSetEndpointId (eid : Byte) (pec : Bool) (s : State) : Res :=
  .next <|
    if eid = 0 ∨ eid = 0xFF then s.mctp pec 1 [2]
    else
      let t := s.mctp pec 1 [0, 0, eid, 0]
      if s.smbRuns && pec && !s.on GLB_STATUS_AUTONOMOUS && s.cmdRuns then t.put HST_SPDMSTAT_EID eid.toNat else t

/-- GET_ENDPOINT_ID (R220): the ID, a simple endpoint with a dynamic ID, no medium-specific information. -/
def execGetEndpointId (pec : Bool) (s : State) : Res :=
  .next (s.mctp pec 2 [0, BitVec.ofNat 8 (s.get HST_SPDMSTAT_EID), 0, 0])

/-- GET_MCTP_VERSION_SUPPORT (R220): one version entry for the base specification and for the types supported. -/
def execGetMctpVersionSupport (ty : Byte) (pec : Bool) (s : State) : Res :=
  .next <|
    if ty = 0xFF ∨ ty = 0 ∨ ty = 5 then s.mctp pec 4 ([0, 1] ++ leBytes 4 (Config.mctpVersion ty).toNat)
    else s.mctp pec 4 [0x80]

/-- GET_MESSAGE_TYPE_SUPPORT (R220): control and SPDM. -/
def execGetMessageTypeSupport (pec : Bool) (s : State) : Res := .next (s.mctp pec 5 [0, 2, 0, 5])

/-! ## SPDM (R221, R222) -/

/-- Answers an SPDM request in its context (R221): DOE needs its link, MCTP is NACKed in Autonomous mode, HOLD and SLEEP; a message beyond
4 KiB is not reassembled; while Service firmware restarts the answer is Busy; a request of a version other than 1.2 is unsupported;
below the state the request needs, UnexpectedRequest.
(Log: PRESUMED 120; DEDUCED 121) -/
def State.spdm (s : State) (c : Fin 3) (req : List Byte) (need : Nat) (f : State → State) : State :=
  if !s.spdmThere c || decide (spdmMax c < req.length) then s
  else if c = 2 ∧ (s.on GLB_STATUS_AUTONOMOUS ∨ s.get RST_PSTATE_STATE ≠ 0) then s.emit .smbNack
  else if !s.on GLB_STATUS_SVC_RUN then s.spdmSend c (spdmError 3 0)
  else if leAt req 0 1 != 0x12 then s.spdmSend c (spdmError 7 (leAt req 1 1))
  else if s.get (spdmF c) < need then s.spdmSend c (spdmError 4 0)
  else f s

/-- GET_VERSION (R221): version 1.2 only; the context starts again. The request itself names version 1.0 in every version of SPDM.
(Log: PRESUMED 120) -/
def execGetVersion (c : Fin 3) (s : State) : Res :=
  .next (s.spdm c [0x12] 0 fun s => (s.put (spdmF c) 1).spdmSend c [0x10, 0x04, 0, 0, 0, 1, 0x00, 0x12])

/-- GET_CAPABILITIES (R221): CERT_CAP, CHAL_CAP and MEAS_CAP with signature. -/
def execGetCapabilities (c : Fin 3) (req : List Byte) (s : State) : Res :=
  .next (s.spdm c req 1 fun s => (s.put (spdmF c) 2).spdmSend c (
    [0x12, 0x61, 0, 0, 0] ++ leBytes 1 (Config.spdmCap 0).toNat ++ [0, 0] ++ leBytes 4 0x16 ++
      leBytes 4 (Config.spdmCap 1).toNat ++ leBytes 4 (Config.spdmCap 2).toNat))

/-- NEGOTIATE_ALGORITHMS (R221): P-384, SHA-384 and DMTF measurements, where the request offers them. -/
def execNegotiateAlgorithms (c : Fin 3) (req : List Byte) (s : State) : Res :=
  .next (s.spdm c req 2 fun s => (s.put (spdmF c) 3).spdmSend c (
    let spec := b2n (bitOf (leAt req 6 1) 0)
    let asym := if bitOf (leAt req 8 4) 7 then 0x80 else 0
    let hash := if bitOf (leAt req 12 4) 1 then 2 else 0
    [0x12, 0x63, 0, 0, 36, 0, BitVec.ofNat 8 spec, 0] ++ leBytes 4 (if spec = 1 then 4 else 0) ++ leBytes 4 asym ++
      leBytes 4 hash ++ zeros 16))

/-- GET_DIGESTS (R221): slot 0 alone is filled. -/
def execGetDigests (c : Fin 3) (req : List Byte) (s : State) : Res :=
  .next (s.spdm c req 3 fun s => s.spdmSend c ([0x12, 0x01, 0, 1] ++ chainDigest))

/-- GET_CERTIFICATE (R221): a portion of slot 0's chain, as much as the message holds; slots 1 to 7 are empty. -/
def execGetCertificate (c : Fin 3) (req : List Byte) (s : State) : Res :=
  .next (s.spdm c req 3 fun s => s.spdmSend c (
    let o := leAt req 4 2
    let n := min (leAt req 6 2) (spdmMax c - 8)
    if leAt req 2 1 % 16 != 0 || Config.certChain.length ≤ o then spdmError 1 0
    else
      let b := (Config.certChain.drop o).take n
      [0x12, 0x02, 0, 0] ++ leBytes 2 b.length ++ leBytes 2 (Config.certChain.length - o - b.length) ++ b))

/-- A signing request goes to Sentinel through the mailbox (R222); with every slot occupied the answer is Busy.
(Log: DEDUCED 121) -/
def State.signAsk (s : State) (c : Fin 3) (req : List Byte) : State :=
  if s.cmdRuns && decide (s.snt.mbx.length < 8) then s.mbxAsk (.sign c req) else s.spdmSend c (spdmError 3 0)

/-- CHALLENGE (R221, R222): Sentinel signs the response. -/
def execChallenge (c : Fin 3) (req : List Byte) (s : State) : Res :=
  .next (s.spdm c req 3 fun s =>
    if leAt req 2 1 % 16 != 0 then s.spdmSend c (spdmError 1 0) else s.signAsk c (0x12 :: 0x83 :: req.drop 2))

/-- GET_MEASUREMENTS (R222): Sentinel signs the response where the request asks. -/
def execGetMeasurements (c : Fin 3) (req : List Byte) (s : State) : Res :=
  .next (s.spdm c req 3 fun s =>
    let k := leAt req 3 1
    if 5 < k && k != 0xFF then s.spdmSend c (spdmError 1 0)
    else if bitOf (leAt req 2 1) 0 then s.signAsk c (0x12 :: 0xE0 :: req.drop 2)
    else
      let (t, b) := s.measurements req
      t.spdmSend c b)

/-- SPDM_UNSUPPORTED (R221): every other request is answered UnsupportedRequest. -/
def execSpdmUnsupported (c : Fin 3) (req : List Byte) (s : State) : Res :=
  .next (s.spdm c (0x12 :: req.drop 1) 0 fun s => s.spdmSend c (spdmError 7 (leAt req 1 1)))

end Sys2Proof.Machine
end

