-- ==== Sys2Proof/Machine/CmdCore.lean ====
section
/-!
DEFINITION. Commands of the rings, first part (Table 9-6): identity, time, abort, the event mask, staging, commits, power,
quiesce and states.
-/

namespace Sys2Proof.Machine

/-- Is an opcode of the entry held by a command? -/
def Cmd.isOp (c : Cmd) (op : Nat) : Bool := c.entry.op.toNat == op

/-- Parameter `i` of a command. -/
def Cmd.p (c : Cmd) (i : Nat) : Nat := SqEntry_param c.entry i

/-- The owner of a command's ring. -/
def Cmd.who (c : Cmd) : Who := whoOf c.ring

/-- NOP (Table 9-6): RESULT 0. -/
def execNop (t : Tag) (s : State) : Res := .next <| s.run t 0x00 fun s _ => s.done t 0 0

/-- ECHO (Table 9-6): RESULT PARAM0, AUX PARAM1. -/
def execEcho (t : Tag) (s : State) : Res := .next <| s.run t 0xF0 fun s c => s.done t (c.p 0) (c.p 1)

/-- GET_TIME (Table 9-6): the timestamp. -/
def execGetTime (t : Tag) (s : State) : Res :=
  .next <| s.run t 0x02 fun s _ =>
    let s := s.touch
    s.done t (s.now % 2 ^ 32) (s.now / 2 ^ 32)

/-- SET_EVMASK (Table 9-6): RESULT the previous RNG_EVMASK. -/
def execSetEvmask (t : Tag) (s : State) : Res :=
  .next <| s.run t 0x04 fun s c =>
    let old := s.get RNG_EVMASK_MASK
    (s.put RNG_EVMASK_MASK (c.p 0)).done t old 0

/-- The mask of the indices below `n` that `p` accepts.
(Log: DEDUCED 127) -/
def maskOf (n : Nat) (p : Nat → Bool) : Nat := (upTo n).foldl (fun m i => if p i then m + 2 ^ i else m) 0

/-- The IDENTIFY structure (R242, Table 9-8).
(Log: DEDUCED 127) -/
def State.identity (s : State) (c : Cmd) : List Byte :=
  let word (o : Nat) := leBytes 4 (s.reg o).toNat
  let w := c.who
  let mine (o : Who) : Bool := w.isNone || o == w
  let cards : Nat := match w with
    | none => 3
    | some v => b2n (bitOf (s.get CRD_VIPERM_VIS) v.val)
  word 0x0 ++ word 0x4 ++ word 0x10 ++ word 0x14 ++ word 0x18 ++ word 0x1C ++ word 0x20 ++ leBytes 4 1 ++
    word 0x3808 ++ word 0x380C ++ leBytes 1 (s.get SNT_BOOTSTAT0_SVN) ++ leBytes 1 (s.get SNT_BOOTSTAT0_SLOT) ++
    leBytes 2 (ringSlots c.ring) ++ leBytes 4 (maskOf 32 fun n => mine (s.scOwner n)) ++
    leBytes 2 (maskOf 16 fun n => mine (s.dcOwner n)) ++
    leBytes 1 (maskOf 8 fun n => mine (whoOfCode (s.get (LMP_CFG_OWNER n)))) ++ leBytes 1 cards ++
    leBytes 1 c.origin.code ++ leBytes 1 (s.portOf w).num ++ zeros 202

/-- IDENTIFY (R242): Table 9-8 written to BUF.
(Log: DEDUCED 127) -/
def execIdentify (t : Tag) (s : State) : Res :=
  .next <| s.run t 0x01 fun s c => s.doneBuf t (s.identity c) 0 0

/-! ## ABORT (R244) -/

/-- A running command that ABORT can stop: the state without what it waited for, and its residue; none if it is not
abortable, or past its safe points.
(Log: DEDUCED 108) -/
def State.abortRun (s : State) (d : Cmd) : Option (State × Nat) :=
  let wait := bitOf (d.p 0) 0
  let key := d.tag.toNat
  match d.entry.op.toNat with
  | 0x20 =>
    if wait || s.seq.powerOn then some (({ s with seq := { s.seq with powerOn := false } }).cmdResidue d) else none
  | 0x21 => if wait then some (s.cmdResidue d) else none
  | 0x24 => some (s.cmdResidue d)
  | 0x80 => some (s.cmdResidue d)
  | 0x90 => some (s.cmdResidue d)
  | 0x91 => some (s.cmdResidue d)
  | 0x52 =>
    let mine (x : ExWho × List Byte) : Bool := x.1.tag == some d.tag
    if (upTo 2).any fun p => (s.card p).queue.any mine then
      some (((upTo 2).foldl (fun u p => u.modCard p fun c => { c with queue := c.queue.filter fun x => !mine x }) s).cmdResidue d)
    else none
  | 0xF1 =>
    match s.sup.calReq with
    | some (_, k) => if k = key then some (({ s with sup := { s.sup with calReq := none } }).cmdResidue d) else none
    | none => none
  | _ => none

/-- The ring an ABORT names: its own ring set's SQID, if that exists. -/
def abortRing (r : RingId) (sqid : Nat) : Option RingId :=
  match r with
  | .vi v => if sqid = 0 then some (.vi v) else none
  | _ => some (if sqid = 1 then .adm else .sub)

/-- ABORT (R244).
(Log: DEDUCED 35, 108) -/
def execAbort (t : Tag) (s : State) : Res :=
  .next <| s.run t 0x03 fun s c =>
    let target := (abortRing c.ring (c.p 0)).bind fun r =>
      s.rng.cmds.find? fun (d : Cmd) => d.ring == r && d.entry.cid.toNat == c.p 1
    match target with
    | none => s.complete t 0x27 0 0
    | some d =>
      if d.tag == t then s.complete t 0x28 0 0
      else if d.st = .running then
        match s.abortRun d with
        | some (s, n) => (s.complete d.tag 0x60 0 n).freeSP0.done t 0 0
        | none => s.complete t 0x28 0 0
      else (s.complete d.tag 0x61 0 0).done t 0 0

/-! ## Staging (R166 to R169, R241) -/

/-- Stages triples in order, up to the first that is refused: answers how many were staged, and its status. -/
def State.stageRun (s : State) (o : Origin) (w : Who) : List (Nat × Word × Word) → State × Nat × Nat
  | [] => (s, 0, 0)
  | (off, m, v) :: l =>
    if !namesReg off then (s, 0, 0x14)
    else if m != 0 && (m &&& fieldsMask off fun f => f.acc.staged) == 0 then (s.mbxRefuse o 0x30, 0, 0x30)
    else
      let (s, st) := s.stageWrite o w off m v
      if st != 0 then (if st == 0x32 then s.mbxRefuse o st else s, 0, st)
      else
        let (s, n, st) := s.stageRun o w l
        (s, n + 1, st)

/-- STAGE_WRITE (R241): RESULT the triples staged. -/
def execStageWrite (t : Tag) (s : State) : Res :=
  .next <| s.run t 0x10 fun s c =>
    let (s, n, st) := s.stageRun c.origin c.who ((upTo (min 3 (c.p 9))).map fun i => stageTriple c.entry i)
    s.complete t st n 0

/-- The triples of a bulk buffer: 12 bytes each; the bytes after the last whole triple are not read.
(Log: DEDUCED 78) -/
def bulkTriples (data : List Byte) (k : Nat) : List (Nat × Word × Word) :=
  (upTo k).map fun i =>
    (leAt data (12 * i) 4, BitVec.ofNat 32 (leAt data (12 * i + 4) 4), BitVec.ofNat 32 (leAt data (12 * i + 8) 4))

/-- STAGE_BULK (R241): AUX the index of the first triple not staged.
(Log: DEDUCED 78) -/
def execStageBulk (t : Tag) (data : List Byte) (s : State) : Res :=
  .next <| s.run t 0x11 fun s c =>
    let k := c.entry.len.toNat / 12
    if 256 < k then s.complete t 0x13 0 0
    else
      let s := s.hostRd c.who c.entry.buf.toNat (12 * k)
      let (s, n, st) := s.stageRun c.origin c.who (bulkTriples data k)
      s.complete t st n n

/-- STAGE_LIST (Table 9-6): the slots, 12 bytes each. -/
def execStageList (t : Tag) (s : State) : Res :=
  .next <| s.run t 0x12 fun s c =>
    let l := (s.stage c.who).slots
    s.doneBuf t (l.map fun x => leBytes 4 x.off ++ leBytes 4 x.mask.toNat ++ leBytes 4 x.value.toNat).flatten l.length 0

/-- CHECK (R169). -/
def execCheck (t : Tag) (s : State) : Res :=
  .next <| s.run t 0x13 fun s c =>
    let v := s.checkStage c.who
    let s := s.checkShow c.who v
    match v with
    | none => s.done t 0 0
    | some r => s.complete t 0x15 (ruleWord r) 0

/-- COMMIT (R171, R172): it waits for Sentinel to take it and completes with its journal entry. -/
def execCommit (t : Tag) (s : State) : Res :=
  .next <| s.run t 0x14 fun s c => s.commitAsk ⟨c.who, c.origin, .cmd t.toNat, none, 0⟩

/-- DISCARD (R167, R174): RESULT the slots discarded.
(Log: DEDUCED 72) -/
def execDiscard (t : Tag) (s : State) : Res :=
  .next <| s.run t 0x15 fun s c =>
    let (s, st, n) := s.discardStage c.who
    s.complete t st n 0

/-- The slot of one field: what a command that commits a single field carries. -/
def fieldSlot (f : FRef) (v : Nat) : Slot := ⟨f.off, fieldMask f.lo f.w, withField 0 f.lo f.w v⟩

/-- GRANT_SET (R171, R172, R322): a commit of SUP_GRANT alone. -/
def execGrantSet (t : Tag) (s : State) : Res :=
  .next <| s.run t 0x16 fun s c =>
    s.commitAsk ⟨none, c.origin, .cmd t.toNat, some [fieldSlot SUP_GRANT_W (c.p 0)], 0⟩

/-! ## Power -/

/-- The end of a POWER_ON whose condition holds (Table 9-6): without WAIT at the common start, with WAIT at ON or LOCKOUT. -/
def State.pollPowerOn (s : State) (c : Cmd) : State :=
  let st := s.get PSQ_SEQSTAT_STATE
  if s.seq.powerOn then s
  else if !bitOf (c.p 0) 0 then s.done c.tag 0 0
  else if st == seqON then
    let f := s.railMask fun x => x == rlFLAGGED
    s.complete c.tag (if f = 0 then 0x00 else 0x02) f 0
  else if st == seqLOCKOUT then s.complete c.tag 0x2A 0 0
  else s

/-- POWER_ON (R55, R63, R69, R70, Table 4-4): refused in DOWN and COOL; it ends LOCKOUT and HELD, clears the retry count, and
is pending in OFF.
(Log: DEDUCED 33) -/
def execPowerOn (t : Tag) (s : State) : Res :=
  .next <| s.run t 0x20 fun s c =>
    let st := s.get PSQ_SEQSTAT_STATE
    if st == seqDOWN || st == seqCOOL then s.complete t 0x21 0 0
    else
      let s := s.put PSQ_SEQSTAT_RETRY 0
      let s := if s.get SUP_HSSTAT_STATE == hsHELD then s.put SUP_HSSTAT_STATE hsOPEN else s
      let s := if st == seqLOCKOUT then s.put PSQ_SEQSTAT_STATE seqOFF else s
      if (st == seqOFF || st == seqLOCKOUT) && !s.on PSQ_SEQCFG_SRC then
        { s with seq := { s.seq with powerOn := true } }
      else s.pollPowerOn c

/-- The end of a POWER_OFF (Table 9-6): without WAIT once the shutdown has begun, with WAIT at OFF. -/
def State.pollPowerOff (s : State) (c : Cmd) : State :=
  let st := s.get PSQ_SEQSTAT_STATE
  if !bitOf (c.p 0) 0 || st == seqOFF || st == seqLOCKOUT then s.done c.tag 0 0 else s

/-- A power-off that falls due with a local start (chapter 03, Edges): the shutdown wins, and the power-on command is
SEQ_BUSY. -/
def State.powerOnLoses (s : State) : State :=
  if s.seq.powerOn && s.startReady then
    let s := { s with seq := { s.seq with powerOn := false } }
    (s.rng.cmds.filter fun d => d.isOp 0x20 && decide (d.st = .running)).foldl
      (fun u d => u.complete d.tag 0x21 0 0) s
  else s

/-- POWER_OFF (R67, R70, R108): a shutdown of every rail; one that already runs, or a cool-down, ends in OFF.
(Log: DEDUCED 32, 34) -/
def execPowerOff (t : Tag) (s : State) : Res :=
  .next <| s.run t 0x21 fun s c =>
    let st := s.get PSQ_SEQSTAT_STATE
    let s :=
      if st == seqOFF || st == seqLOCKOUT then s.powerOnLoses
      else
        let s := { s with seq := { s.seq with byCommand := true, teardown := false } }
        if st == seqDOWN && !s.stoppable then s else s.shutdown (fun _ => true) 1
    s.pollPowerOff c

/-- RAIL_RETRY (R61). -/
def execRailRetry (t : Tag) (s : State) : Res :=
  .next <| s.run t 0x22 fun s c => (s.retryRail (c.p 0)).done t 0 0

/-- SWARM_CTL (R77, R84). -/
def execSwarmCtl (t : Tag) (s : State) : Res :=
  .next <| s.run t 0x23 fun s c => (if c.p 0 = 1 then s.swResyncReq else s.swRejoinReq).done t 0 0

/-- HS_CLEAR (R108). -/
def execHsClear (t : Tag) (s : State) : Res := .next <| s.run t 0x26 fun s _ => s.hsClear.done t 0 0

/-- SNAPSHOT (R128): the readings are captured in the next phase 3, if the trigger is enabled; RESULT is the slot's SEQ. A busy
buffer misses the trigger.
(Log: DEDUCED 55) -/
def execSnapshot (t : Tag) (s : State) : Res :=
  .next <| s.run t 0x27 fun s _ =>
    if !bitOf (s.get SUP_SNAPCFG_TRIG) 6 then s.complete t 0x22 0 0
    else if s.snapBusy then (s.count SUP_SNAPCFG_MISSED).complete t 0x20 0 0
    else { s with sup := { s.sup with snapReq := some (0, 0, some t.toNat) } }

/-! ## Quiesce (R332) -/

/-- Is an owner within a quiesce scope? -/
def State.scopeHas (s : State) (q : Nat × Nat) (w : Who) : Bool :=
  match q.1 with
  | 0 => true
  | 1 => whoNum w == some q.2
  | _ => (s.portOf w).num == q.2

/-- Is an owner within the scope of a quiesce in force? -/
def State.quieted (s : State) (w : Who) : Bool := s.rng.quiet.any fun q => s.scopeHas q w

/-- Has everything in a scope stopped: subchannels and channels SUSPENDED, IDLE or STOPPED, exchanges ended, and stores
drained? -/
def State.quiesced (s : State) (q : Nat × Nat) : Bool :=
  ((upTo 32).all fun n => !s.scopeHas q (s.scOwner n) || [scIDLE, scSUSPENDED, scSTOPPED].contains (s.scSt n)) &&
    ((upTo 16).all fun n => !s.scopeHas q (s.dcOwner n) || [dcIDLE, dcSUSPENDED, dcSTOPPED].contains (s.dcSt n)) &&
    ((upTo 2).all fun p => match (s.card p).exch with
      | some e => match e.who with
        | .apdu _ h => match s.session h with
          | some x => !s.scopeHas q x.owner
          | none => true
        | _ => true
      | none => true) &&
    s.cch.stores.all fun e => !s.scopeHas q (whoOfCode e.owner)

/-- The end of a QUIESCE: RESULT is the number of resources newly held. -/
def State.pollQuiesce (s : State) (c : Cmd) : State :=
  if s.quiesced (c.p 0, c.p 1) then s.done c.tag c.count 0 else s

/-- Would a hold be new on a subchannel or channel: it runs, or is SUSPENDED, without QUIESCE? -/
def newHold (st holds : Nat) : Bool := st != 0 && st != 7 && !bitOf holds 3

/-- Is subchannel `n`, or channel `n`, in a scope? -/
def State.scIn (s : State) (q : Nat × Nat) (n : Nat) : Bool := s.scopeHas q (s.scOwner n)
def State.dcIn (s : State) (q : Nat × Nat) (n : Nat) : Bool := s.scopeHas q (s.dcOwner n)

/-- How many subchannels and channels of a scope a QUIESCE holds anew. -/
def State.newHolds (s : State) (q : Nat × Nat) : Nat :=
  ((upTo 32).countP fun n => s.scIn q n && newHold (s.scSt n) (s.get (CPE_SCSTAT0_HOLDS n))) +
    (upTo 16).countP fun n => s.dcIn q n && newHold (s.dcSt n) (s.get (BMV_DCSTAT_HOLDS n))

/-- The command of a waiting APDU of a scope. -/
def State.apduIn (s : State) (q : Nat × Nat) (x : ExWho × List Byte) : Option Tag :=
  match x.1 with
  | .apdu a h => match s.session h with
    | some y => if s.scopeHas q y.owner then some a else none
    | none => none
  | _ => none

/-- The waiting APDUs of a scope complete with 0x20. -/
def State.apdusRefuse (s : State) (q : Nat × Nat) : State :=
  (upTo 2).foldl (fun u p =>
    let gone := (u.card p).queue.filterMap (s.apduIn q)
    let u := u.modCard p fun c => { c with queue := c.queue.filter fun x => (s.apduIn q x).isNone }
    gone.foldl (fun u a => u.complete a 0x20 0 0) u) s

/-- A scope becomes quiet. -/
def State.quietAdd (s : State) (q : Nat × Nat) : State := { s with rng := { s.rng with quiet := s.rng.quiet ++ [q] } }

/-- QUIESCE (R332): the hold on every subchannel and channel in scope; waiting APDUs complete with 0x20; stores drain.
(Log: DEDUCED 35) -/
def execQuiesce (t : Tag) (s : State) : Res :=
  .next <| s.run t 0x24 fun s c =>
    let q := (c.p 0, c.p 1)
    let k := s.newHolds q
    let s := (s.quietAdd q).modCmd t fun c => { c with count := k }
    ((s.holdAll 3 (some 0x55) (s.scIn q) (s.dcIn q)).apdusRefuse q).storeDrainAll.pollQuiesce { c with count := k }

/-- Does scope `a` cover scope `b`: the same, or wider? -/
def State.covers (s : State) (a b : Nat × Nat) : Bool := a.1 == 0 || a == b ||
  (a.1 == 2 && b.1 == 1 && (s.portOf (whoOfCode b.2)).num == a.2)

/-- Ends the quiesces within a scope. -/
def State.quietEnd (s : State) (q : Nat × Nat) : State :=
  { s with rng := { s.rng with quiet := s.rng.quiet.filter fun x => !s.covers q x } }

/-- Is subchannel `n`, or channel `n`, of a scope held by a quiesce that is no longer in force? -/
def State.scFree (s : State) (q : Nat × Nat) (n : Nat) : Bool :=
  s.scIn q n && bitOf (s.get (CPE_SCSTAT0_HOLDS n)) 3 && !s.quieted (s.scOwner n)
def State.dcFree (s : State) (q : Nat × Nat) (n : Nat) : Bool :=
  s.dcIn q n && bitOf (s.get (BMV_DCSTAT_HOLDS n)) 3 && !s.quieted (s.dcOwner n)

/-- RESUME (R332): the quiesces within its scope end; RESULT is the number of resources resumed.
(Log: DEDUCED 35) -/
def execResume (t : Tag) (s : State) : Res :=
  .next <| s.run t 0x25 fun s c =>
    let q := (c.p 0, c.p 1)
    let s := s.quietEnd q
    let k := (upTo 32).countP (s.scFree q) + (upTo 16).countP (s.dcFree q)
    (s.unholdAll 8 (s.scFree q) (s.dcFree q)).done t k 0

/-! ## States (R414, R415, R418) -/

/-- STATE_REQ (R415): a request for RUN changes nothing; HOLD and SLEEP are refused under R415's conditions, or a power-down
falls due.
(Log: DEDUCED 37) -/
def execStateReq (t : Tag) (s : State) : Res :=
  .next <| s.run t 0x28 fun s c =>
    let st := c.p 0
    let force := bitOf (c.p 1) 0
    let hs := s.get SUP_HSSTAT_STATE
    let sq := s.get PSQ_SEQSTAT_STATE
    if st = 0 then s.done t 0 0
    else if s.rst.downFor.isSome then s.complete t 0x23 0 0
    else if !force && (List.finRange 16).any fun v => s.viEn (some v) then s.complete t 0x29 0 0
    else if st = 2 && !((sq == seqOFF || sq == seqLOCKOUT) && (hs == hsOPEN || hs == hsFAULT || hs == hsHELD) &&
        !s.on SUP_DISSTAT_RUNNING) then s.complete t 0x23 0 0
    else { s with rst := { s.rst with downFor := some (.state st force 0 t) } }

/-- MRAM_BIST (R418): armed for the next HOLD.
(Log: DEDUCED 94) -/
def execMramBist (t : Tag) (s : State) : Res :=
  .next <| s.run t 0xF2 fun s _ => ({ s with snt := { s.snt with bistArmed := true } }).done t 0 0

/-! ## Long commands -/

/-- Ends the long commands whose conditions hold. -/
def State.pollCmds (s : State) : State :=
  s.rng.cmds.foldl (fun u c =>
    if c.st != .running then u
    else match c.entry.op.toNat with
      | 0x20 => u.pollPowerOn c
      | 0x21 => u.pollPowerOff c
      | 0x24 => u.pollQuiesce c
      | _ => u) s

end Sys2Proof.Machine
end

