-- ==== Sys2Proof/Machine/CmdChain.lean ====
section
/-!
DEFINITION. Commands of the rings, second part (Table 9-6): subchannels, the chain cache and Block Mover channels.
-/

namespace Sys2Proof.Machine

/-- The holds a resume command of a party clears (Table 14-1): the Owner SELF and PREEMPT, a VI its own SELF. -/
def resumeMask (w : Who) : Nat := if w.isNone then 3 else 1

/-- The hold a suspend command of a party sets on a resource, and its status: the Owner pre-empts a VI (R330). -/
def suspendHold (issuer owner : Who) : Nat × Option Nat :=
  if issuer.isNone && owner.isSome then (1, some 0x56) else (0, some 0x00)

/-- May a subchannel state be resumed or started over: it is not in progress? -/
def scBusy (st : Nat) : Bool := st == scACTIVE || st == scBUDGET || st == scWAITING || st == scPAGE
def dcBusy (st : Nat) : Bool := st == dcACTIVE || st == dcBUDGET || st == dcRECORD || st == dcPAGE

/-- The start that a halt by command `t` overrides in the same cycle (R243): a start command that may start, of one of the opcodes
`ops` for resource `n`, completes with 0x61; a doorbell has no effect but `head`'s, and the halt reports it. -/
def State.startLost (s : State) (t : Tag) (n : Nat) (ops : List Nat) (head : State → Word → State) : Option SameStart → State
  | none => s
  | some (.cmd u) =>
    match s.cmd u with
    | some d =>
      if ops.contains d.entry.op.toNat && d.p 0 == n && s.mayRun d && (s.cmdCheck d.ring d.entry).isNone then s.complete u 0x61 0 0
      else s
    | none => s
  | some (.doorbell v) => (head s v).modCmd t fun c => { c with lostDb := true }

/-- The starts of a subchannel and of a channel by command (Table 9-9). -/
def scStarts : List Nat := [0x30, 0x32, 0x34]
def dcStarts : List Nat := [0x40, 0x43]

/-- The override of a start of subchannel `n` (R243). -/
def State.scLost (s : State) (t : Tag) (n : Nat) (same : Option SameStart) : State :=
  s.startLost t n scStarts (fun s _ => s) same

/-- The override of a start of channel `n`: a doorbell's head update stands (R243, R306). -/
def State.dcLost (s : State) (t : Tag) (n : Nat) (same : Option SameStart) : State :=
  let w := s.dcOwner n
  let off := if w.isSome then 0x1100 + 4 * n else 0xE300 + 4 * n
  s.startLost t n dcStarts (fun s v => s.dcHead w off n (v.toNat % 65536)) same

/-! ## Subchannels (Table 10-6) -/

/-- A chain starts at the entry at `a` (R263). -/
def State.scBegin (s : State) (n a : Nat) : State :=
  let s := ((s.put (CPE_SCSTAT0_STATE n) scACTIVE).put (CPE_SCSTAT0_DB_PEND n) 0).put (CPE_SCSTAT0_HOLDS n) 0
  let s := s.modSub n fun u => { Sub.idle with flash := u.flash, ssr := u.ssr, jumps := u.jumps, jumpTick := u.jumpTick }
  (s.put (CPE_SCSTAT1_RESID n) 0).scNext n a

/-- The SSR area of SC_START (R263). -/
def State.scArea (s : State) (n : Nat) (c : Cmd) : State :=
  let a := paramAddr c.entry 3
  let s := (s.put (CPE_SCSSR_LO_BASE n) (a / 32)).put (CPE_SCSSR_HI_BASE n) (a / 2 ^ 32)
  let s := (s.put (CPE_SCSSRCFG_K n) (c.p 5)).put (CPE_SCSSRCFG_VEC n) (c.p 5 / 256)
  (s.put (CPE_SCSSRCFG_QUIET n) (c.p 5 / 65536)).put (CPE_SCSTAT0_SSR_FAIL n) 0

/-- SC_START (R263, R332): RESULT is the SEQ of its first SSR.
(Log: DEDUCED 128) -/
def execScStart (t : Tag) (s : State) : Res :=
  .next <| s.run t 0x30 fun s c =>
    let n := c.p 0
    if !s.on (CPE_SCCFG_EN n) then s.complete t 0x22 0 0
    else if s.quieted (s.scOwner n) then s.complete t 0x20 0 0
    else if s.scSt n != scIDLE && s.scSt n != scSTOPPED then s.complete t 0x23 0 0
    else (((s.scArea n c).scBegin n (paramAddr c.entry 1)).scClaimed n).done t (s.get (CPE_SCSEQ_SEQ n)) 0

/-- SC_HALT (R243, R264). -/
def execScHalt (t : Tag) (same : Option SameStart) (s : State) : Res :=
  .next <| s.run t 0x31 fun s c =>
    let s := s.scLost t (c.p 0) same
    ((s.scPriDrop (c.p 0)).scHalt (c.p 0)).done t 0 0

/-- The chain continues at another entry. -/
def State.scMove (s : State) (n a : Nat) : State :=
  let s := (s.put (CPE_SCSTAT0_STATE n) scACTIVE).modSub n fun u =>
    { u with head := none, apert := [], forced := false, joined := false, ended := false }
  (s.put (CPE_SCSTAT1_RESID n) 0).scNext n a

/-- SC_RESUME_AT (R246, R263, R269, R329). -/
def execScResumeAt (t : Tag) (s : State) : Res :=
  .next <| s.run t 0x32 fun s c =>
    let n := c.p 0
    let st := s.scSt n
    let h := s.get (CPE_SCSTAT0_HOLDS n) &&& (127 - resumeMask c.who)
    if !s.on (CPE_SCCFG_EN n) then s.complete t 0x22 0 0
    else if s.on (CPE_SCSTAT0_SSR_FAIL n) then s.complete t 0x20 0 0
    else if st == scIDLE then s.complete t 0x25 0 0
    else if scBusy st then s.complete t 0x23 0 0
    else
      let s := s.put (CPE_SCSTAT0_HOLDS n) h
      if h != 0 then s.complete t 0x20 0 0 else ((s.scMove n (paramAddr c.entry 1)).scClaimed n).done t 0 0

/-- SC_SUSPEND (R243, R264, R329, R330): on a chain already SUSPENDED it only sets its bit.
(Log: DEDUCED 128) -/
def execScSuspend (t : Tag) (same : Option SameStart) (s : State) : Res :=
  .next <| s.run t 0x33 fun s c =>
    let n := c.p 0
    let s := s.scLost t n same
    let (bit, st) := suspendHold c.who (s.scOwner n)
    (s.scHold n bit st).done t 0 0

/-- SC_RESUME (R246, R263, R269, R271, R329).
(Log: DEDUCED 129) -/
def execScResume (t : Tag) (s : State) : Res :=
  .next <| s.run t 0x34 fun s c =>
    let n := c.p 0
    let st := s.scSt n
    if !s.on (CPE_SCCFG_EN n) then s.complete t 0x22 0 0
    else if s.on (CPE_SCSTAT0_SSR_FAIL n) then s.complete t 0x20 0 0
    else if st == scIDLE || st == scSTOPPED then s.complete t 0x25 0 0
    else if scBusy st then s.complete t 0x23 0 0
    else if st == scTAIL then (s.scReread n).done t 0 0
    else
      let s := s.scUnhold n (resumeMask c.who)
      if s.scSt n == scSUSPENDED then s.complete t 0x20 0 0 else s.done t 0 0

/-- SC_STATUS (Table 9-6): the state; AUX the SEQ of the last SSR.
(Log: DEDUCED 128) -/
def execScStatus (t : Tag) (s : State) : Res :=
  .next <| s.run t 0x35 fun s c =>
    let n := c.p 0
    s.done t (s.scSt n) ((s.get (CPE_SCSEQ_SEQ n) + 65535) % 65536)

/-! ## The chain cache -/

/-- CCH_INVAL (R285): RESULT the lines invalidated. -/
def execCchInval (t : Tag) (s : State) : Res :=
  .next <| s.run t 0x36 fun s c =>
    let (s, k) := s.cchInval (c.p 0) (whoCode c.who) (paramAddr c.entry 1)
    s.done t k 0

/-- CCH_DRAIN (R283): RESULT the entries drained. -/
def execCchDrain (t : Tag) (s : State) : Res :=
  .next <| s.run t 0x37 fun s _ => s.storeDrainAll.done t s.cch.stores.length 0

/-! ## Channels (Table 12-5) -/

/-- The CRQ of DC_START, and its chain (R308). -/
def State.dcStart (s : State) (n : Nat) (c : Cmd) : State :=
  let a := paramAddr c.entry 3
  let d := paramAddr c.entry 1
  let s := (s.put (BMV_DCCRQ_LO_BASE n) (a / 4096)).put (BMV_DCCRQ_HI_BASE n) (a / 2 ^ 32)
  let s := (s.put (BMV_DCCRQCFG_K n) (c.p 5)).put (BMV_DCCRQCFG_VEC n) (c.p 5 / 256)
  let s := (s.put (BMV_DCCRQCFG_QUIET n) (c.p 5 / 65536)).put (BMV_DCSTAT_CRQ_FAIL n) 0
  let s := ((s.put (BMV_DCCRQPTR_WR n) 0).put (BMV_DCCRQPTR_HEAD n) 0).put (BMV_DCCRQPTR_PHASE n) 1
  let s := ((s.put (BMV_DCSTAT_STATE n) dcACTIVE).put (BMV_DCSTAT_DB_PEND n) 0).put (BMV_DCSTAT_HOLDS n) 0
  let s := (s.setDcAddr n d).put (BMV_DCRES_BYTES n) 0
  (s.modChan n fun c => { Chan.idle with ph := .fetch, lastTag := c.lastTag, rec_ := c.rec_ }).dcKick n

/-- DC_START (R308, R315, R332). -/
def execDcStart (t : Tag) (s : State) : Res :=
  .next <| s.run t 0x40 fun s c =>
    let n := c.p 0
    if !s.on (BMV_DCCFG_EN n) then s.complete t 0x22 0 0
    else if s.on BMV_STAT_ESTOP || s.quieted (s.dcOwner n) then s.complete t 0x20 0 0
    else if s.dcSt n != dcIDLE && s.dcSt n != dcSTOPPED then s.complete t 0x23 0 0
    else (s.dcStart n c).done t 0 0

/-- A command waits for the channel's stop. -/
def State.dcWait (s : State) (n : Nat) (t : Tag) : State := s.modChan n fun c => { c with waits := c.waits ++ [t] }

/-- DC_ABORT (R243, R311): it completes with the final record, AUX the residue. -/
def execDcAbort (t : Tag) (same : Option SameStart) (s : State) : Res :=
  .next <| s.run t 0x41 fun s c =>
    let n := c.p 0
    let s := s.dcLost t n same
    if s.dcSt n == dcIDLE then s.done t 0 0 else ((s.dcPriDrop n).dcWait n t).dcBegin n .abort

/-- DC_SUSPEND (R243, R309, R329, R330): it completes with the interim record.
(Log: DEDUCED 128) -/
def execDcSuspend (t : Tag) (same : Option SameStart) (s : State) : Res :=
  .next <| s.run t 0x42 fun s c =>
    let n := c.p 0
    let s := s.dcLost t n same
    let st := s.dcSt n
    let (bit, v) := suspendHold c.who (s.dcOwner n)
    if st == dcIDLE || st == dcSTOPPED then s.done t 0 0
    else if st == dcSUSPENDED then (s.dcHold n bit v).done t 0 0
    else (s.dcWait n t).dcHold n bit v

/-- DC_RESUME (R290, R308, R315, R317, R329).
(Log: DEDUCED 129) -/
def execDcResume (t : Tag) (s : State) : Res :=
  .next <| s.run t 0x43 fun s c =>
    let n := c.p 0
    let st := s.dcSt n
    if !s.on (BMV_DCCFG_EN n) then s.complete t 0x22 0 0
    else if s.on BMV_STAT_ESTOP || s.on (BMV_DCSTAT_CRQ_FAIL n) then s.complete t 0x20 0 0
    else if st == dcIDLE then s.complete t 0x25 0 0
    else if dcBusy st then s.complete t 0x23 0 0
    else if st == dcTAIL then (s.dcReread n).done t 0 0
    else if st == dcSTOPPED then ((s.modChan n fun c => { c with desc := none, tail := none, estop := false }).dcGo n).done t 0 0
    else
      let s := s.dcUnhold n (resumeMask c.who)
      if s.get (BMV_DCSTAT_HOLDS n) != 0 then s.complete t 0x20 0 0 else s.done t 0 0

/-- DC_STATUS (R309): the state; AUX the TAG of the last record. -/
def execDcStatus (t : Tag) (s : State) : Res :=
  .next <| s.run t 0x44 fun s c => s.done t (s.dcSt (c.p 0)) (s.chan (c.p 0)).lastTag

/-- BMV_RESTART (R315): ESTOP clears and the channels of the mask that the all-stop stopped resume; RESULT how many.
(Log: DEDUCED 129) -/
def execBmvRestart (t : Tag) (s : State) : Res :=
  .next <| s.run t 0x45 fun s c =>
    let hit (n : Nat) : Bool := bitOf (c.p 0) n && s.dcSt n == dcSTOPPED && (s.chan n).estop
    let l := (upTo 16).filter hit
    let s := (s.put BMV_STAT_ESTOP 0).log 0x9005 0xFF [some (c.p 0)]
    let s := l.foldl (fun u n => (u.modChan n fun c => { c with desc := none, tail := none, estop := false }).dcGo n) s
    ((upTo 16).foldl (fun u n => u.dcKick n) s).done t l.length 0

end Sys2Proof.Machine
end

