-- ==== Sys2Proof/Machine/CmdCard.lean ====
section
/-!
DEFINITION. Commands of the rings, third part (Table 9-6): card ports (chapter 16).
-/

namespace Sys2Proof.Machine

/-- A party already has, or is opening, a session on a port (R388). -/
def State.hasSession (s : State) (p : Nat) (w : Who) : Bool :=
  let opening (e : ExWho) : Bool := match e with
    | .open_ _ v => some v == w
    | _ => false
  (s.crd.sess.any fun x => x.port == p && x.owner == w) || ((s.card p).queue.any fun x => opening x.1) ||
    match (s.card p).exch with
    | some e => opening e.who && !e.discard
    | none => false

/-- CARD_OPEN (R388): RESULT the session handle.
(Log: DEDUCED 148) -/
def execCardOpen (t : Tag) (s : State) : Res :=
  .next <| s.run t 0x50 fun s c =>
    let p := c.p 0
    let w := c.who
    if !s.on (CRD_PCFG0_EN p) then s.complete t 0x22 0 0
    else if !s.cdUp p then s.complete t (if s.on (CRD_PSTAT_PRESENT p) then 0x25 else 0x80) 0 0
    else if s.hasSession p w then s.complete t 0x23 0 0
    else
      match w with
      | none =>
        let (s, h) := s.sessMake p 0 none
        s.done t h 0
      | some v =>
        let used := s.crd.sess.countP fun x => x.port == p && x.chan != 0
        if (s.card p).chans ≤ used + 1 then s.complete t 0x89 0 0
        else (s.modCard p fun c => { c with queue := c.queue ++ [(.open_ t v, [])] }).cdGo p

/-- The session a command names; none if it has ended, or waits for its close. -/
def State.sessOf (s : State) (h : Nat) : Option Sess :=
  let closing (x : ExWho × List Byte) : Bool := match x.1 with
    | .close (some (_, k)) _ => k == h
    | _ => false
  match s.session h with
  | some x => if (s.card x.port).queue.any closing then none else some x
  | none => none

/-- Runs `f` on the session of a command; 0x25 without one (R388). -/
def State.withSess (s : State) (t : Tag) (h : Nat) (f : State → Sess → State) : State :=
  match s.sessOf h with
  | some x => f s x
  | none => s.complete t 0x25 0 0

/-- The expiry of a session's hold is reported once (R391). -/
def State.sessReported (s : State) (h : Nat) : State :=
  { s with crd := { s.crd with sess := s.crd.sess.map fun (x : Sess) => if x.handle == h then { x with expired := false } else x } }

/-- CARD_CLOSE (R392): once the session's exchange has ended, a VI's channel is closed.
(Log: DEDUCED 148) -/
def execCardClose (t : Tag) (s : State) : Res :=
  .next <| s.run t 0x51 fun s c =>
    s.withSess t (c.p 0) fun s x =>
      (s.modCard x.port fun c => { c with queue := c.queue ++ [(.close (some (t, x.handle)) x.chan, [])] }).cdGo x.port

/-- Has the session a CARD_APDU outstanding (R390)? -/
def State.apduOut (s : State) (x : Sess) : Bool :=
  let mine (e : ExWho) : Bool := match e with
    | .apdu _ h => h == x.handle
    | _ => false
  ((s.card x.port).queue.any fun y => mine y.1) ||
    match (s.card x.port).exch with
    | some e => mine e.who
    | none => false

/-- The APDU as it is sent on a session's channel, or the status that refuses it (R379, R389). -/
def State.apduFor (s : State) (x : Sess) (a : List Byte) : Except Nat (List Byte) :=
  match claFor x.chan (a.getD 0 0).toNat with
  | .error st => .error st
  | .ok cla =>
    if a.getD 1 0 == 0x70 then .error 0x30
    else if s.get (CRD_PARAM0_PROTO x.port) != 1 && (t0Split a).isNone then .error 0x13
    else .ok (BitVec.ofNat 8 cla :: a.drop 1)

/-- CARD_APDU (R388 to R391, R332): the command waits its turn for the card. -/
def execCardApdu (t : Tag) (data : List Byte) (s : State) : Res :=
  .next <| s.run t 0x52 fun s c =>
    s.withSess t (c.p 0) fun s x =>
      if x.expired then (s.sessReported x.handle).complete t 0x8B 0 0
      else if s.apduOut x then s.complete t 0x23 0 0
      else if s.quieted c.who then s.complete t 0x20 0 0
      else
        let s := s.hostRd c.who c.entry.buf.toNat (c.p 1)
        match s.apduFor x (fitTo (c.p 1) data) with
        | .error st => s.complete t st 0 0
        | .ok a => (s.modCard x.port fun c => { c with queue := c.queue ++ [(.apdu t x.handle, a)] }).cdGo x.port

/-- CARD_EXCL (R391): begin waits for the card; end gives it back.
(Log: DEDUCED 148) -/
def execCardExcl (t : Tag) (s : State) : Res :=
  .next <| s.run t 0x53 fun s c =>
    s.withSess t (c.p 0) fun s x =>
      let p := x.port
      let holds := s.on (sessExcl p) && s.get (sessExHandle p) == x.handle
      if c.p 1 = 1 then
        if holds || (s.card p).exclQ.any fun y => y.1 == x.handle then s.complete t 0x23 0 0
        else (s.modCard p fun k => { k with exclQ := k.exclQ ++ [(x.handle, c.p 2, t)] }).cdGo p
      else if x.expired then (s.sessReported x.handle).complete t 0x8B 0 0
      else if holds then ((s.exclEnd p).done t 0 0).cdGo p
      else s.complete t 0x25 0 0

/-- CARD_ACTIVATE (R375): one E3 item; several commands wait for one activation.
(Log: DEDUCED 148) -/
def execCardActivate (t : Tag) (s : State) : Res :=
  .next <| s.run t 0x54 fun s c =>
    let p := c.p 0
    if !s.on (CRD_PCFG0_EN p) then s.complete t 0x22 0 0
    else if !s.on (CRD_PSTAT_PRESENT p) then s.complete t 0x80 0 0
    else if s.cdUp p then s.complete t 0x23 0 0
    else
      let s := s.modCard p fun c => { c with waits := c.waits ++ [t] }
      if s.cdSt p == cdACTIVATING then s else s.actAsk p c.origin

/-- CARD_DEACTIVATE (R383): a running exchange ends first; an activation that has not ended is given up.
(Log: DEDUCED 149) -/
def execCardDeactivate (t : Tag) (s : State) : Res :=
  .next <| s.run t 0x55 fun s c =>
    let p := c.p 0
    let st := s.cdSt p
    let wait (s : State) : State := s.modCard p fun c => { c with deact := c.deact ++ [t] }
    if st == cdACTIVATING then wait ((s.actDone p 0x60 0).cdDeactivate p)
    else if s.cdUp p then
      if (s.card p).exch.isSome || (s.card p).ph != .run then wait (s.modCard p fun c => { c with deactDue := true })
      else wait (s.cdDeactivate p)
    else if st == cdDEACTIVATING then wait s
    else
      let s := s.admDrop (48 + p)
      let s := if st == cdBUDGET then s.put (CRD_PSTAT_STATE p) cdINACTIVE else s
      (s.actDone p 0x61 0).done t 0 0

/-- CARD_GET_ATR (Table 9-6).
(Log: DEDUCED 148) -/
def execCardGetAtr (t : Tag) (s : State) : Res :=
  .next <| s.run t 0x56 fun s c =>
    let p := c.p 0
    if s.on (CRD_PSTAT_PRESENT p) then s.doneBuf t (s.card p).atr (s.card p).atr.length 0 else s.complete t 0x80 0 0

/-- CARD_SELFTEST (R394): `res` is what the test finds; a class that is not allowed is not tested.
(Log: DEDUCED 148) -/
def execCardSelftest (t : Tag) (res : BitVec 9) (s : State) : Res :=
  .next <| s.run t 0x57 fun s c =>
    let p := c.p 0
    let st := s.cdSt p
    if (s.crd.sess.any fun x => x.port == p) || !(st == cdINACTIVE || st == cdABSENT || st == cdFAULT) then
      s.complete t 0x24 0 0
    else
      let r := res.toNat &&& (0x110 + s.get (CRD_PCFG0_CLASSMASK p))
      ((s.put (CRD_TESTRES_RESULT p) r).put (CRD_TESTRES_RAN p) 1).done t r 0

end Sys2Proof.Machine
end

