-- ==== Sys2Proof/Machine/CmdMisc.lean ====
section
/-!
DEFINITION. Commands of the rings, last part (Table 9-6): lamps, temperature, readings, records, firmware, authorisation and
measurements; and the writes of plain registers.
-/

namespace Sys2Proof.Machine

/-! ## Lamps (R399, R400, R404) -/

/-- LAMP_SET (R399, R400): the level, with pattern STEADY; a raise of the peak waits for admission, anything else applies at the next
period start.
(Log: DEDUCED 63, 132) -/
def execLampSet (t : Tag) (s : State) : Res :=
  .next <| s.run t 0x60 fun s c =>
    let n := c.p 0
    let v := c.p 1
    if !s.on (LMP_CFG_EN n) then s.complete t 0x22 0 0
    else if v ≤ s.get (LMP_LEVEL_LEVEL n) then ((s.lampStore n v 0).modLamp n fun l => { l with wantPat := 0 }).done t 0 0
    else if (s.lamp n).waiting then s.complete t 0x23 0 0
    else
      (s.modLamp n fun l => { l with waiting := true, wantLevel := v, wantPat := 0, wantTag := some t.toNat }).present
        (50 + n) 1 c.origin

/-- LAMP_PATTERN (R399, R400): a pattern never raises the peak.
(Log: DEDUCED 63) -/
def execLampPattern (t : Tag) (s : State) : Res :=
  .next <| s.run t 0x61 fun s c =>
    let n := c.p 0
    if !s.on (LMP_CFG_EN n) then s.complete t 0x22 0 0
    else
      let v := c.p 1
      ((s.put (LMP_PATTERN_CODE n) v).modLamp n fun l => { l with wantPat := v }).done t 0 0

/-- LAMP_STATUS (R404). -/
def execLampStatus (t : Tag) (s : State) : Res :=
  .next <| s.run t 0x62 fun s c =>
    let d := s.get (LMP_STAT_DIAG (c.p 0))
    s.complete t (if d == diagUNVER then 0x04 else 0x00) d 0

/-! ## Temperature and readings -/

/-- THM_READ (R130): the value, and AUX THM_SRCSTAT.
(Log: DEDUCED 60) -/
def execThmRead (t : Tag) (s : State) : Res :=
  .next <| s.run t 0x70 fun s c =>
    s.done t (s.get (THM_SRCSTAT_VALUE (c.p 0))) (s.reg (THM_SRCSTAT_VALUE (c.p 0)).off).toNat

/-- REMOTE_POST (R137, R138). -/
def execRemotePost (t : Tag) (s : State) : Res :=
  .next <| s.run t 0x71 fun s c => (s.postRemote (c.p 0) (c.p 1)).done t 0 0

/-- ALARM_CLEAR (R142): RESULT THM_ALMSTAT after. -/
def execAlarmClear (t : Tag) (s : State) : Res :=
  .next <| s.run t 0x72 fun s c =>
    let s := s.almClear (c.p 0 + 65536 * c.p 1)
    s.done t (s.reg THM_ALMSTAT_WARN.off).toNat 0

/-- DIODE_CLEAR (R136). -/
def execDiodeClear (t : Tag) (s : State) : Res := .next <| s.run t 0x73 fun s _ => s.diodeClear.done t 0 0

/-- ADC_CONVERT (R89): the request takes the rotating position of a coming sweep.
(Log: DEDUCED 57) -/
def execAdcConvert (t : Tag) (s : State) : Res :=
  .next <| s.run t 0x74 fun s c =>
    { s with sup := { s.sup with adcReq := s.sup.adcReq ++ [(c.p 0, t.toNat)] } }

/-- ADC_CAL (R39): the converter is calibrated in the next calibration slot.
(Log: DEDUCED 57) -/
def execAdcCal (t : Tag) (s : State) : Res :=
  .next <| s.run t 0xF1 fun s c =>
    if s.sup.calReq.isSome then s.complete t 0x23 0 0
    else { s with sup := { s.sup with calReq := some (c.p 0, t.toNat) } }

/-- LEDGER_READ (Table 9-6): the ten words of the ledger. -/
def execLedgerRead (t : Tag) (s : State) : Res :=
  .next <| s.run t 0x75 fun s _ =>
    s.doneBuf t ((upTo 10).map fun i => leBytes 4 (s.reg (0x6040 + 4 * i)).toNat).flatten 0 0

/-! ## Records (R179, R188) -/

/-- What LOG_READ has gathered: the bytes, the whole records, whether one was skipped, and the SEQ that did not fit. -/
structure LogGot where
  bytes   : List Byte
  n       : Nat
  skipped : Bool
  full    : Option Nat

/-- One record of the requested range.
(Log: DEDUCED 131) -/
def Store.logTake (t : Store) (i : StreamId) (limit : Nat) (g : LogGot) (r : Rec) : LogGot :=
  if g.full.isSome then g
  else if t.recSt i r != .valid then { g with skipped := true }
  else if limit < g.bytes.length + r.len then { g with bytes := g.bytes ++ t.recBytes i r, full := some r.seq }
  else { g with bytes := g.bytes ++ t.recBytes i r, n := g.n + 1 }

/-- Is SEQ `q` one of the `k` from `first` on, modulo 2^32? -/
def seqIn (first k q : Nat) : Bool :=
  let d := (q + 2 ^ 32 - first) % 2 ^ 32
  decide (d < k) && decide (d < 2 ^ 31)

/-- LOG_READ (R179, R188): the VALID records among the SEQs requested, whole and in order; RESULT how many, AUX the next SEQ;
0x03 if some were not VALID or are overwritten, 0x05 if the buffer ends within a record.
While it runs on (`more`) it can be aborted (R244).
(Log: DEDUCED 108, 131) -/
def execLogRead (t : Tag) (more : Bool) (s : State) : Res :=
  .next <| s.runLong t 0x80 fun s c _ =>
    if more then s else
    let i := streamOf (c.p 0)
    let x := s.st.stream i
    let first := c.p 1
    let k := c.p 2
    let lost : Bool := match x.recs.head? with
      | some r => seqOlder first r.seq && decide (0 < k)
      | none => false
    let g := (x.recs.filter fun r => seqIn first k r.seq).foldl (s.st.logTake i c.entry.len.toNat) ⟨[], 0, lost, none⟩
    let left := (x.next.toNat + 2 ^ 32 - first) % 2 ^ 32
    let next := g.full.getD ((first + min k (if left < 2 ^ 31 then left else 0)) % 2 ^ 32)
    let s := s.hostPut c.who c.entry.buf.toNat (g.bytes.take c.entry.len.toNat) none
    s.complete t (if g.full.isSome then 0x05 else if g.skipped then 0x03 else 0x00) g.n next

/-- LOG_BOUNDS (R188): JNL_FIRST; AUX JNL_LAST. -/
def execLogBounds (t : Tag) (s : State) : Res :=
  .next <| s.run t 0x81 fun s c => s.done t (s.get (JNL_FIRST_SEQ (c.p 0))) (s.get (JNL_LAST_SEQ (c.p 0)))

/-! ## Firmware (R151 to R154, R331) -/

/-- The status of an error that a device port reports (Table 9-7). -/
def devErrStatus : DevErr → Nat
  | .nackAddr => 0x70
  | .nackData => 0x71
  | .arbLost => 0x72
  | .timeout => 0x73
  | .pec => 0x74
  | .i3c => 0x7B
  | .stuck _ => 0x75

/-- Is a slot that of the running Service image (R153)? -/
def State.slotRuns (s : State) (slot : Nat) : Bool := s.on GLB_STATUS_SVC_RUN && s.get SNT_BOOTSTAT0_SLOT == slot

/-- FW_WRITE (R153, R244, R331): the data go to the slot's flash, some of them and the command runs on (`more`), or all that are left;
`err` is what the port reports.
(Log: DEDUCED 102, 108) -/
def execFwWrite (t : Tag) (data : List Byte) (err : Option DevErr) (more : Bool) (s : State) : Res :=
  .next <| s.runLong t 0x90 fun s c first =>
    let n := c.entry.len.toNat
    if first && s.slotRuns (c.p 0) then s.complete t 0x76 0 n
    else
      let s := if first then s.claimSP0.hostRd c.who c.entry.buf.toNat n else s
      let left := n - c.count
      let k := if more then min left data.length else left
      let s := s.emit (.flash portSP0 0 .program (c.p 0 * 0x100000 + c.p 1 + c.count) (fitTo k data))
      (match err with
        | some e => s.complete t (devErrStatus e) 0 left
        | none => if more then s.modCmd t fun d => { d with count := c.count + k } else s.done t 0 0).freeSP0

/-- FW_ERASE (R153, R244, R331): the slot's flash is erased, in part while the command runs on (`more`).
(Log: DEDUCED 102, 108) -/
def execFwErase (t : Tag) (err : Option DevErr) (more : Bool) (s : State) : Res :=
  .next <| s.runLong t 0x91 fun s c first =>
    if first && s.slotRuns (c.p 0) then s.complete t 0x76 0 0x100000
    else
      let s := if first then s.claimSP0 else s
      let s := s.emit (.flash portSP0 0 (.erase none) (c.p 0 * 0x100000) [])
      (match err with
        | some e => s.complete t (devErrStatus e) 0 0x100000
        | none => if more then s else s.done t 0 0).freeSP0

/-- FW_VERIFY (R151, R331, R439): the slot's image as it lies in flash (none: a read error); RESULT its SVN.
(Log: DEDUCED 101, 102) -/
def execFwVerify (t : Tag) (img : Option (List Byte)) (s : State) : Res :=
  .next <| s.run t 0x92 fun s _ =>
    let s := s.claimSP0
    (match img with
      | none => s.complete t 0x19 0 10
      | some b =>
        let i := imageOf b
        let k := s.serviceCode i
        if k = 0 then s.done t (leAt i.hdr 12 4) 0 else s.complete t 0x19 0 k).freeSP0

/-- FW_PREFER (Table 9-6): a commit of SNT_BOOTCFG.PREF alone. -/
def execFwPrefer (t : Tag) (s : State) : Res :=
  .next <| s.run t 0x93 fun s c =>
    s.commitAsk ⟨none, c.origin, .cmd t.toNat, some [fieldSlot SNT_BOOTCFG_PREF (c.p 0)], 0⟩

/-- FW_ACTIVATE (Table 9-6, R408): it completes, and a Core reset follows a domain power-down.
(Log: DEDUCED 37) -/
def execFwActivate (t : Tag) (s : State) : Res :=
  .next <| s.run t 0x94 fun s _ =>
    if s.rst.downFor.isSome then s.complete t 0x23 0 0
    else
      let s := s.done t 0 0
      { s with rst := { s.rst with downFor := some .activate } }

/-- Raises one rollback counter, with its journal entry (R154): `k` 0 Service, 1 patch. -/
def State.rollRaise (s : State) (o : Origin) (k svn : Nat) : State :=
  let old := s.reg SNT_ROLLBACK_SVC.off
  let now := if k = 0 then s.snt.rollSvc else s.snt.rollPatch
  if svn ≤ now then s
  else
    let s := { s with snt := if k = 0 then { s.snt with rollSvc := svn } else { s.snt with rollPatch := svn } }
    let s := (s.put (if k = 0 then SNT_ROLLBACK_SVC else SNT_ROLLBACK_PATCH) svn).touch
    s.journal ⟨o.code, .rollbackRaise, false, false, k,
      [jItem SNT_ROLLBACK_SVC.off old (s.reg SNT_ROLLBACK_SVC.off)], s.now, .none⟩

/-- FW_COMMIT (R154): the counters rise to the SVNs of the running image and patch. -/
def execFwCommit (t : Tag) (s : State) : Res :=
  .next <| s.run t 0x95 fun s c =>
    let svn (i : Option Image) : Nat := match i with
      | some x => min 63 (leAt x.hdr 12 4)
      | none => 0
    let s := s.rollRaise c.origin 0 (svn s.snt.svc)
    (s.rollRaise c.origin 1 (svn s.snt.runPatch)).done t 0 0

/-- PATCH_LOAD (R151): a valid patch is stored and runs after the next Warm reset.
(Log: DEDUCED 101, 102, 103) -/
def execPatchLoad (t : Tag) (img : List Byte) (s : State) : Res :=
  .next <| s.run t 0x96 fun s c =>
    let i := imageOf img
    let k := s.patchCode i
    let s := s.hostRd c.who c.entry.buf.toNat c.entry.len.toNat
    if k != 0 then s.complete t 0x19 0 k
    else if c.entry.len.toNat < 256 + leAt i.hdr 8 4 then s.complete t 0x16 0 0
    else ({ s with snt := { s.snt with nextPatch := some i }, st := s.st.mend patchBase patchSize }).done t 0 0

/-! ## The service authorisation (R161 to R164, R393, R419) -/

/-- The service card in CP1 is asked: at once if the port is up, or after an activation (R393).
(Log: DEDUCED 99) -/
def State.authCard (s : State) : State :=
  let st := s.cdSt 1
  if s.cdUp 1 then (s.modCard 1 fun c => { c with queue := c.queue ++ [(.auth false, [])] }).cdGo 1
  else if s.on (CRD_PSTAT_PRESENT 1) && s.on (CRD_PCFG0_EN 1) && st != cdFAULT then
    let s := s.modCard 1 fun c => { c with forAuth := true }
    if st == cdACTIVATING then s else s.actAsk 1 .sentinel
  else s

/-- AUTH_OPEN (R162, R164, R419): a nonce is drawn and the attempt runs; the command completes with its outcome.
(Log: DEDUCED 99) -/
def execAuthOpen (t : Tag) (s : State) : Res :=
  .next <| s.run t 0xA0 fun s c =>
    if s.on SNT_AUTHSTAT0_LOCKED || s.on RST_VAULTSTAT0_TAMPER then s.complete t 0x33 0 0
    else if s.on SNT_AUTHSTAT0_OPEN || s.snt.nonce.isSome then s.complete t 0x23 0 0
    else
      let n := s.snt.nonces
      let s := { s with snt := { s.snt with nonce := some (n, c.p 0, s.after 4000, t), nonces := n + 1, sig := none } }
      s.authCard

/-- AUTH_CLOSE (R163).
(Log: DEDUCED 99) -/
def execAuthClose (t : Tag) (s : State) : Res :=
  .next <| s.run t 0xA1 fun s _ =>
    if s.on SNT_AUTHSTAT0_OPEN then (s.authClose 2).done t 0 0 else s.complete t 0x25 0 0

/-- AUTH_STATUS (Table 9-6): both words of SNT_AUTHSTAT.
(Log: DEDUCED 99) -/
def execAuthStatus (t : Tag) (s : State) : Res :=
  .next <| s.run t 0xA2 fun s _ =>
    s.done t (s.reg SNT_AUTHSTAT0_OPEN.off).toNat (s.reg SNT_AUTHSTAT1_END.off).toNat

/-- A change of SNT_SVCKEY[k], journalled as an item of that word, also where another key leaves the word as it was (R161, R438).
(Log: DEDUCED 71, 79) -/
def State.keyChange (s : State) (o : Origin) (k : Nat) (w : Word) (key : List Byte) : State :=
  let off := (SNT_SVCKEY_VALID k).off
  let old := s.reg off
  let prot := (upTo 4).any fun i => s.on (SNT_SVCKEY_VALID i)
  let s := (s.setReg off w).touch
  let s := { s with snt := { s.snt with keys := modAt s.snt.keys k fun _ => key } }
  s.journal ⟨o.code, .commit, prot, false, 0, [jItem off old w], s.now, .change⟩

/-- KEY_SET (R161, R438): the key is VALID and shows its KEYID.
(Log: DEDUCED 79) -/
def execKeySet (t : Tag) (data : List Byte) (s : State) : Res :=
  .next <| s.run t 0xA3 fun s c =>
    let key := fitTo 64 data
    let s := s.hostRd c.who c.entry.buf.toNat 64
    (s.keyChange c.origin (c.p 0) (BitVec.ofNat 32 (1 + 65536 * leAt (sha256 key) 0 2)) key).done t 0 0

/-- KEY_REVOKE (R161, R438). -/
def execKeyRevoke (t : Tag) (s : State) : Res :=
  .next <| s.run t 0xA4 fun s c =>
    let w := s.reg (SNT_SVCKEY_VALID (c.p 0)).off
    (s.keyChange c.origin (c.p 0) (withField (withField w 0 1 0) 1 1 1) []).done t 0 0

/-- MEASURE (Table 8-8). -/
def execMeasure (t : Tag) (s : State) : Res :=
  .next <| s.run t 0xA5 fun s c => s.doneBuf t (s.measurement (c.p 0)) 0 0

end Sys2Proof.Machine
end

