-- ==== Sys2Proof/Machine/Cold.lean ====
section
/-!
DEFINITION. Cold resets, VAULT, the real-time clock and the tamper latch (chapters 02, 07 and 18).
-/

namespace Sys2Proof.Machine

/-! ## VAULT (R419) and VBAT (R34) -/

/-- The real-time clock's count at this moment: derived from the timestamp while frames are counted (R32), open in VAULT.
(Log: DEDUCED 22) -/
def State.rtcNow (s : State) : Nat × State :=
  if s.rst.vault then ((Config.rtcCount s.free).toNat, { s with free := s.free + 1 })
  else
    let s := s.touch
    (s.now / 250 % 2 ^ 48, s)

/-- Latches the real-time clock's count in words `k` and `k + 1` of RST_VAULTSTAT[1] to [4].
(Log: DEDUCED 22; DESIGN CHOICE 23) -/
def State.latchRtc (s : State) (k : Nat) : State :=
  let (n, s) := s.rtcNow
  (s.put (RST_VAULTSTATC_COUNT k) n).put (RST_VAULTSTATC_COUNT (k + 1)) (n / 2 ^ 32)

/-- VAULT_ENTER (R419, R471): VSTBY falls below its threshold while VBAT is present: every output is released, and the
real-time clock's entry record saves the frame.
(Log: DEDUCED 106) -/
def execVaultEnter (s : State) : Res :=
  .next <|
    if s.rst.vault || !s.rst.vbat then s
    else
      let s := s.releaseOutputs
      { s with
        tb := { s.tb with rtcSaved := s.tb.frame, rtcStopped := false }
        rst := { s.rst with vault := true, core := false, downEnd := none, downFor := none }
        pins := { s.pins with coreEn := false } }

/-- TAMPER (R419): a change of TAMPER_N sets the latch; its first occurrence latches the real-time clock's count. -/
def execTamper (high : Bool) (s : State) : Res :=
  .next <|
    if s.rst.tamper == high then s
    else
      let s := { s with rst := { s.rst with tamper := high } }
      let s := if s.on RST_VAULTSTAT0_TAMPER then s else s.latchRtc 0
      (s.put RST_VAULTSTAT0_TAMPER 1).put SNT_AUTHSTAT0_TAMPER 1

/-- VAULT_WAKE (R419): WAKE_N low in VAULT. -/
def execVaultWake (s : State) : Res :=
  .next <|
    if s.rst.vault then
      (if s.on RST_VAULTSTAT0_WAKE then s else s.latchRtc 2).put RST_VAULTSTAT0_WAKE 1
    else s

/-- The VBAT domain's fields take their Reset values. -/
def State.batLost (s : State) : State := { s with regs := keepRegs (fun _ f => f.held != .bat) s.regs }

/-- VBAT_LOSS (R34, R423): VBAT falls below 2.0 V: VALID clears; without VSTBY the BAT fields go too. -/
def execVbatLoss (s : State) : Res :=
  .next <|
    if s.rst.vbat then
      let s := { s with rst := { s.rst with vbat := false } }
      (if s.rst.vault then s.batLost else s).put RST_VAULTSTAT0_RTC_VALID 0
    else s

/-- VBAT_FITTED (R34): the VBAT domain powers up with VALID clear. -/
def execVbatFitted (s : State) : Res :=
  .next <|
    if s.rst.vbat then s
    else ({ s with rst := { s.rst with vbat := true } }).put RST_VAULTSTAT0_RTC_VALID 0

/-- RTC_CRYSTAL_STOP (R33): crystal edges stop while in VAULT. -/
def execRtcCrystalStop (s : State) : Res :=
  .next <| if s.rst.vault then { s with tb := { s.tb with rtcStopped := true } } else s

/-! ## Cold reset -/

/-- The fields that a Cold reset leaves (Table 18-5): factory settings, the VBAT domain while VBAT is present, what MRAM keeps
as private state, and the level of the GPIO inputs. -/
def keepCold (vbat format : Bool) (off : Nat) (f : RField) : Bool :=
  f.acc == .fix || (vbat && f.held == .bat) || (!format && f.held == .nv && f.acc == .ro && !f.inImageAt off) || off == 0x102A0

/-- Is a copy of the directory good (R424): it is written, without an uncorrectable error, and has layout version 1? -/
def Store.dirGood (t : Store) (d : Option Dir) (a : Nat) : Bool :=
  match d with
  | some x => x.version == 1 && !t.eccIn a (a + 0x800)
  | none => false

/-- The directory that a Cold reset finds; none where the store is unformatted (R424). -/
def Store.dir (t : Store) : Option Dir :=
  if t.dirGood t.dirA 0 then t.dirA else if t.dirGood t.dirB 0x800 then t.dirB else none

/-- Writes both copies of the directory. -/
def Store.setDir (t : Store) (d : Dir) : Store := { (t.mend 0 0x1000) with dirA := some d, dirB := some d }

/-- The store as a Cold reset finds it: what waited is lost, and errors may have appeared (R176, R186).
(Log: DESIGN CHOICE 167) -/
def State.storeFound (s : State) (i : ColdIn) : Store :=
  let t : Store := { s.st with ecc := s.st.ecc ++ i.ecc.map (·.toNat) }
  { State.blank.st with
    mem := t.mem, ecc := t.ecc, dirA := t.dirA, dirB := t.dirB, journal := t.journal, log := t.log, snaps := t.snaps
    nvA := t.nvA, nvB := t.nvB, lastB := t.nvPick.elim t.lastB fun c => c.1 }

/-- Formats the store (R424): directory, NV copies and rings; the calibration and patch areas keep their words. -/
def Store.format (t : Store) : Store :=
  let e := (((t.mend 0 0x1000).mend nvBaseA (2 * nvSize)).mend 0x4E000 0x2000).ecc
  { State.blank.st with mem := t.mem, ecc := e }

/-- The store after a Cold reset, formatted where it was found unformatted (R424). -/
def State.coldStore (s : State) (i : ColdIn) : Store :=
  let t := s.storeFound i
  if t.dir.isSome then t else t.format

/-- The failing calibration block, if the calibration area fails its check (R426).
(Log: DESIGN CHOICE 168) -/
def Store.calBad (t : Store) : Option Nat :=
  (t.ecc.find? fun w => decide (0x1000 ≤ 8 * w) && decide (8 * w < 0x2000)).map fun w => (Config.calBlock w).toNat

/-- Sentinel's state after a Cold reset: OTP stays, the private state unless the store is formatted, and the patch area. -/
def State.coldSnt (s : State) (ok : Bool) : Snt :=
  { State.blank.snt with
    keys := if ok then s.snt.keys else State.blank.snt.keys
    lockEnd := if ok then s.snt.lockEnd else 0
    nonces := s.snt.nonces, otpKeys := s.snt.otpKeys, otpRevoked := s.snt.otpRevoked, rollSvc := s.snt.rollSvc, rollPatch := s.snt.rollPatch
    debugEn := s.snt.debugEn, nextPatch := s.snt.nextPatch }

/-- The timebase after a Cold reset (R32 to R34), and the record due: none, TIME_GAP or TIME_ORIGIN. -/
def State.coldTime (s : State) (n : Nat) : Timebase × Option Nat :=
  let t := { State.blank.tb with ticks := s.tb.ticks, rtc := BitVec.ofNat 48 n }
  if !s.on RST_VAULTSTAT0_RTC_VALID then ({ t with rtc := 0 }, some 0x1001)
  else if s.tb.rtcStopped then ({ t with frame := s.tb.rtcSaved + 1 }, some 0x1002)
  else ({ t with frame := BitVec.ofNat 40 (n * 125 / 512), sub := BitVec.ofNat 10 (n * 125 % 512 * 1024 / 512) }, none)

/-- The checkpoint of a stream. -/
def Dir.check (d : Dir) : StreamId → Nat
  | .journal => d.journal
  | .log => d.log
  | .snaps => d.snaps

/-- The records of a stream that the scan from the checkpoint finds not VALID (R187). -/
def Store.badRecs (t : Store) (d : Dir) (i : StreamId) : List Rec :=
  (t.stream i).recs.filter fun r => !seqOlder r.seq (d.check i) && t.recSt i r != .valid

/-- How many of them are ABANDONED (R127). -/
def Store.abandoned (t : Store) (d : Dir) : Nat :=
  ([StreamId.journal, StreamId.log, StreamId.snaps].map fun i =>
    (t.badRecs d i).countP fun r => t.recSt i r = .abandoned).sum

/-- The records of the scan of the rings (R187): one for each stream that holds records that are not VALID.
(Log: DEDUCED 80) -/
def State.scan (s : State) (d : Dir) : State :=
  [StreamId.journal, StreamId.log, StreamId.snaps].foldl (fun t i =>
    let bad := t.st.badRecs d i
    match bad.head? with
    | some r => t.log 0x6002 (match i with | .journal => 0 | .log => 1 | .snaps => 2) [some bad.length, some r.seq]
    | none => t) s

/-- The scan is over: each checkpoint moves to the next record of its ring, in both copies of the directory.
(Log: DESIGN CHOICE 171) -/
def State.scanEnd (s : State) : State :=
  { s with st := s.st.setDir ⟨1, s.st.journal.next.toNat, s.st.log.next.toNat, s.st.snaps.next.toNat⟩ }

/-- What a Cold reset leaves: the retained registers, the storage, the backed-up state and the time; everything else at
Reset (R408).
(Log: DEDUCED 91, 106) -/
def State.coldBase (s : State) (i : ColdIn) (trig : Nat) : State :=
  let tb := (s.coldTime i.rtc.toNat).1
  let ok := (s.storeFound i).dir.isSome
  { State.blank with
    regs := keepRegs (keepCold s.rst.vbat (!ok)) s.regs
    tb := tb, st := s.coldStore i, snt := s.coldSnt ok
    sw := { State.blank.sw with since := tb.ticks, lastBeacon := tb.ticks, beaconAt := tb.ticks }
    rst := { State.blank.rst with vbat := s.rst.vbat, calBad := (s.storeFound i).calBad, tamper := s.rst.tamper, trig := trig, warmTick := tb.ticks }
    out := s.out, free := s.free, pending := s.pending }

/-- The NV image, where there is one to load, and the cause (R408, R409). -/
def State.coldLoad (t : State) (img : Option (List (Nat × Word))) (trig : Nat) : State :=
  let t := img.elim t fun l => t.nvLoad l fun _ => true
  let t := (t.put RST_VAULTSTAT0_RTC_VALID 1).putB SNT_AUTHSTAT0_TAMPER (t.on RST_VAULTSTAT0_TAMPER)
  (t.put RST_CAUSE_KIND kCold).put RST_CAUSE_TRIGGER trig

/-- The records of a wake from VAULT (R419). -/
def State.vaultRecords (t : State) (rtc : Nat) : State :=
  let tam := t.on RST_VAULTSTAT0_TAMPER
  let t := t.log 0xE005 0 [some (t.get RST_VAULTSTAT0_WAKE + 2 * b2n tam), none, none, some rtc]
  if tam then
    t.log 0xE006 0 [none, none, none, some (t.get (RST_VAULTSTATC_COUNT 0) + 2 ^ 32 * t.get (RST_VAULTSTATC_COUNT 1))]
  else t

/-- The records of a Cold reset, in order: that of the first tick (R32, R33), the cause, and those of the store (R408, R409).
`found` is the store as it was found.
(Log: DEDUCED 76, 98) -/
def State.coldRecords (t : State) (found : Store) (rtc trig : Nat) (closed : Option Nat) (items : List JItem)
    (timeRec : Option Nat) (collapsed : Bool) : State :=
  let t := if found.dir.isSome then t.journal ⟨Origin.sentinel.code, .revert, false, false, kCold, items, t.now, .none⟩
    else t.journal ⟨Origin.sentinel.code, .init, false, false, 0, [], t.now, .none⟩
  let t := match closed with
    | some key => t.journal ⟨Origin.card.code, .authClose, false, false, key + 256 * 4, [], t.now, .none⟩
    | none => t
  let t := match timeRec with
    | some c => t.logAt t.now .sentinel c 0 []
    | none => t
  let t := t.logAt t.now .sentinel 0xE001 kCold [some trig, none, none, some t.now]
  let d := found.dir.getD ⟨1, 0, 0, 0⟩
  let t := if found.dir.isSome then t.scan d
    else t.log 0xE007 0 [some (if found.dirA.isSome || found.dirB.isSome then 2 else 1)]
  let t := if collapsed then t.log 0x300F 0 [some (t.st.abandoned d)] else t
  let t := [StreamId.journal, StreamId.log, StreamId.snaps].foldl (fun t i => t.jnlBounds i) t.scanEnd
  let lost : Nat := t.get RST_LOSTSTORES_COUNT
  let t := if lost = 0 then t else (t.log 0x8005 0xFF [some lost, some 0]).put RST_LOSTSTORES_COUNT 0
  let t := if trig = 2 then t.vaultRecords rtc else t
  match t.rst.calBad with
  | some b => (t.put GLB_STATUS_CAL_FAIL 1).log 0xE00A 0 [some b]
  | none => t

/-- COLD_RESET (R408, R409, R424): VSTBY rises through its threshold. The device is carried through step 5 of Table 6-2. -/
def execColdReset (i : ColdIn) (s : State) : Res :=
  .next <|
    let trig : Nat := if s.rst.vault && s.rst.vbat then 2 else 1
    let s := if s.rst.vbat then s else s.batLost
    let found := s.storeFound i
    let closed := if s.on SNT_AUTHSTAT0_OPEN && found.dir.isSome then some (s.get SNT_AUTHSTAT0_KEY) else none
    let img := if found.dir.isSome then found.nvMram else none
    let t := (s.coldBase i trig).coldLoad img trig
    let t := t.coldRecords found i.rtc.toNat trig closed (s.revertItems t) (s.coldTime i.rtc.toNat).2 s.st.collapsed
    t.patchBoot.cocShow.linksIdle.coreStart

end Sys2Proof.Machine
end

