-- ==== Sys2Proof/Machine/RegWrite.lean ====
section
/-!
DEFINITION. Writes of registers that have no behaviour of their own: the access codes of R7 on every field.
-/

namespace Sys2Proof.Machine

/-- The first offset that stands for BAR2 of PF0 in a write by the Owner: its MSI-X table and PBA (R197). -/
abbrev bar2Base : Nat := 0x40000

/-- The register key a write names: an offset of Owner BAR0, also by JTAG while DEBUG_EN is set; of PF0's BAR2 on the writing port; or
of the VI's VF BAR0 (R157, R197, R198). -/
def State.writeKey (s : State) (who : Sender) (off : Nat) : Option Nat :=
  match who with
  | .owner p =>
    if off < 0x40000 then some off
    else if off < bar2Base + 0x4000 then some (msixBase none p.num + (off - bar2Base))
    else none
  | .debug => if s.snt.debugEn && off < 0x40000 then some off else none
  | .vi v =>
    if 0x3000 ≤ off && off < 0x3080 then some (msixBase (some v.val) (s.portOf (some v)).num + (off - 0x3000))
    else if off < 0x3000 then some (vfBase v.val + off)
    else none

/-- Registers whose RW fields act through a command of their own: the read-back selectors, SMBus addressing, the Event
ring's size, the ring enables and the temperature posts. -/
def ownCommand (k : Nat) : Bool :=
  k == 0x3000 || k == 0x3008 || k == 0xA02C || k == 0xB088 || k == 0xB02C || k == 0xB06C ||
    (decide (0x7100 ≤ k) && decide (k < 0x7120)) || (decide (vfBase 0 ≤ k) && decide (k < vfBase 16) && (k - vfBase 0) % 0x4000 == 0x2C)

/-- Is a BASE or SIZE register of a ring pair, or the Event ring's base, locked by its ring's enable (R226, R455)? -/
def State.ringLocked (s : State) (k : Nat) : Bool :=
  let pair (b : Nat) : Bool :=
    [0x00, 0x04, 0x08, 0x14, 0x18, 0x1C].contains (k - b) && decide (b ≤ k) && s.on (RNG_CTL_EN b)
  pair ownSubRing || pair ownAdmRing || ((k == 0xB080 || k == 0xB084) && s.evOn) ||
    (decide (vfBase 0 ≤ k) && decide (k < vfBase 16) && pair (k - (k - vfBase 0) % 0x4000))

/-- One field of a direct write (R7, R10): RW stores an encoding that is not reserved, RW1C clears the bits written as 1. -/
def writeField (old v w : Word) (f : RField) : Word :=
  let x := fieldOf v f.lo f.w
  match f.acc with
  | .rw => if notReserved f.chk x then withField w f.lo f.w x else w
  | .rw1c => w &&& ~~~ (v &&& fieldMask f.lo f.w)
  | _ => withField w f.lo f.w (fieldOf old f.lo f.w)

/-- The word a direct write leaves.
(Log: DEDUCED 133) -/
def writeWord (k : Nat) (old v : Word) : Word := (fieldsAt k).foldl (fun w f => writeField old v w f) old

/-- What a stored value brings with it: the slot read back (R168), the tamper mirror of the authorisation (R419), and a
vector that was pending behind its mask.
(Log: DEDUCED 133) -/
def State.afterWrite (s : State) (who : Sender) (k : Nat) : State :=
  if k = 0x2008 then s.stageShow none
  else if k = 0x30018 then s.putB SNT_AUTHSTAT0_TAMPER (s.on RST_VAULTSTAT0_TAMPER)
  else
    match who with
    | .debug => s
    | .vi v =>
      let p := s.portOf (some v)
      let b := msixBase (some v.val) p.num
      if k = vfBase v.val + 0x1808 then s.stageShow (some v)
      else if b ≤ k && k < b + 0x80 then
        let i := (k - b) / 16
        if !s.on (msixMask (some v) p i) && s.on (msixPend (some v) p i) then
          (s.put (msixPend (some v) p i) 0).emit (.msi p (some v) i)
        else s
      else s
    | .owner p =>
      let b := msixBase none p.num
      if b ≤ k && k < b + 0x400 then
        let i := (k - b) / 16
        if !s.on (msixMask none p i) && s.on (msixPend none p i) then
          (s.put (msixPend none p i) 0).emit (.msi p none i)
        else s
      else s

/-- Does the block of a register run: one of CORE only with CORE (R16)? -/
def State.keyRuns (s : State) (k : Nat) : Bool := s.rst.core || (fieldsAt k).all fun f => f.dom == .aon

/-- REGISTER_WRITE (R7 to R10, R226, R448): a direct write stores its fields under their access codes; staged and read-only
fields, reserved bits and reserved offsets ignore it.
(Log: DEDUCED 133; DESIGN CHOICE 134) -/
def execRegisterWrite (who : Sender) (off : Nat) (v : Word) (s : State) : Res :=
  .next <|
    match s.writeKey who off with
    | some k =>
      if s.rst.vault || s.rst.low || !s.reaches who || !s.keyRuns k || ownCommand k || s.ringLocked k || (findReg k).isNone then s
      else (s.setReg k (writeWord k (s.reg k) v)).afterWrite who k
    | none => s

end Sys2Proof.Machine
end

