-- ==== Sys2Proof/Machine/Frame.lean ====
section
/-!
DEFINITION. The frame tick and the six phases it runs (R37, Table 2-1): what the ends of durations, the sweep, the judgement,
the sequencer step, admission and the housekeeping slot do in one frame.
-/

namespace Sys2Proof.Machine

/-! ## The tick -/

/-- Has the frame that ends overrun: one of its phases 1 to 5 is unfinished (R42)? A frame in which no phase is due, in SLEEP or
in reset, has `done` 0.
(Log: DESIGN CHOICE 20) -/
def State.overran (s : State) : Bool := decide (0 < s.tb.done) && decide (s.tb.done < 5)

/-- The account of the frame that ends (R42, R44, R45): an overrun is counted with its frame and its lowest unfinished phase and
opens a run with a record; a good frame ends the run with a record of its length. -/
def State.frameAccount (s : State) : State :=
  let t := s.frameAt (s.tb.ticks + 1) * 1024
  if s.overran then
    let s := s.count FRM_OVRCNT_COUNT
    let f := s.tb.frame.toNat
    let s := (s.put FRM_OVRSTAT0_FRAME f).put FRM_OVRSTAT1_FRAMEHI (f / 2 ^ 32)
    let s := s.put FRM_OVRSTAT1_PHASE (s.tb.done + 1)
    let s := if s.tb.runLen = 0 then
        s.logAt t .sentinel 0x1004 0 [some (s.tb.done + 1), none, none, some f]
      else s
    { s with tb := { s.tb with runLen := s.tb.runLen + 1, wdRun := s.tb.wdRun + 1 } }
  else if s.tb.runLen ≠ 0 then
    let s := s.logAt t .sentinel 0x1005 0 [some s.tb.runLen]
    { s with tb := { s.tb with runLen := 0, wdRun := 0 } }
  else s

/-- The frame length's correction `d` for a frame whose crystal edges run `e` cycles over 4,096: what lies between the tick and
the crystal, within 4 cycles either way; 0 while the crystal has failed and in SLEEP (R28, R30, R414).
(Log: DEDUCED 18) -/
def State.tickD (s : State) (e : Int) : Int :=
  if s.on FRM_STATUS_XTAL_FAIL || s.asleep then 0 else max (-4) (min 4 (s.tb.resid + e))

/-- The frame number advances (R31), with the last timestamp before a wrap kept for its record (R35), the timestamp starts at
subframe 0, and the timer chooses the frame's `d`, what it cannot absorb staying for the next frames (R28).
(Log: DESIGN CHOICE 154; DEDUCED 18) -/
def State.tickAdvance (s : State) (done : Nat) (e : Int) : State :=
  let d := s.tickD e
  let seen := if s.on FRM_STATUS_XTAL_FAIL || s.asleep then 0 else e
  { s with tb := { s.tb with
    frame := s.tb.frame + 1
    ticks := s.tb.ticks + 1
    sub := 0
    early := false
    done := done
    d := d
    resid := s.tb.resid + seen - d
    win := s.tb.win + seen
    wrapFrom := if s.tb.frame = BitVec.allOnes 40 then some (s.tb.frame.toNat * 1024 + s.tb.sub.toNat) else s.tb.wrapFrom } }

/-- The commit whose tick comes applies in phase 1 (R38, R172).
(Log: DESIGN CHOICE 26) -/
def State.tickCommit (s : State) : State :=
  match s.chr.taken with
  | some c => if c.tick ≤ s.tb.ticks + 1 then s.commitApply c else s
  | none => s

/-- A common start at this tick ends PFW_N (R101), and with it a latched rail fault that no lead time and no shutdown still
answers.
(Log: DEDUCED 39) -/
def State.tickStart (s : State) : State :=
  if (upTo 24).any fun n => s.used n && s.railSt n == rlPENDING && (s.rail n).start == s.tb.ticks then
    let s := s.pfwRelease
    if s.sup.leadEnd.isNone && s.get PSQ_SEQSTAT_STATE != seqDOWN then
      { s with sup := { s.sup with latched := false } }
    else s
  else s

/-- The leader's pulse ends (R76 to R78); with a resync pulse its request ends, and after a beacon a deferred claim begins. -/
def State.tickPulse (s : State) : State :=
  match s.sw.pulse with
  | some (k, t) =>
    if s.due t then
      let s := { s with sw := { s.sw with pulse := none } }
      match k with
      | .resync => { s.put PSQ_SWCTL_RESYNC 0 with sw := { s.sw with resyncReq := false } }
      | .beacon =>
        if s.sw.claimDue then
          { s with sw := { s.sw with claimed := true, claimDue := false, claimTick := s.tb.ticks } }
        else s
      | .advance => s
    else s
  | none => s

/-- Bindings whose bursts in flight are complete switch, and their owners' work resumes (R205).
(Log: DEDUCED 111, 135) -/
def State.tickRebind (s : State) : State :=
  let l := s.hst.rebind.filter fun r => s.due r.2.2 && !s.ownerBusy r.1
  if l.isEmpty then s
  else
    let s := { s with hst := { s.hst with rebind := s.hst.rebind.filter fun r => !l.contains r } }
    let s := s.servedShow
    let s := l.foldl (fun t r => if t.served r.1 then t.flushOwner r.1 else t) s
    (upTo 16).foldl (fun t n => if l.any fun r => r.1 == t.dcOwner n then t.dcKick n else t) s

/-- Phase 1: the VI pointer, common starts, pulses, admitted work, card ports and bindings (R19, R37, R101, R205, R324).
(Log: DEDUCED 24) -/
def State.phase1 (s : State) : State :=
  let s := s.put FRM_VIPTR_PTR (s.get FRM_VIPTR_PTR + 1)
  let s := s.tickStart.tickPulse
  let s := (upTo 8).foldl (fun t c => t.lampAdmitted c) s
  let s := (upTo 2).foldl (fun t p => t.cardTick p) s
  let s := s.xSettle.tickRebind.flrTry
  (s.pmeTry .hpa).pmeTry .hpb

/-! ## Phase 3 -/

/-- Phase 3: rails, ledger, busbar, discharge, Cocoon, temperatures and the snapshots they ask for (R37, R43). -/
def State.phase3 (s : State) (f : FrameIn) : State :=
  let s := { s with sup := { s.sup with pg := f.pg % 2 ^ 24 } }
  let s := s.judgeRails s.sup.pg
  let s := s.forRails fun n t => t.superviseRail t.sup.pg (f.vs.getD n 0 % 4096) n
  let s := (s.busEvents.ledger).busCounts f
  let s := s.judgeBulk
  let s := if s.pins.held then s else s.predict.judgeLost
  let s := s.judgeDischarge.cocoon
  let s := if s.sup.rotItem == 0 && !bitOf s.sup.staleOther 12 then s.crossCheck f.xcheck f.xover else s
  s.thmPhase3.snapshots

/-! ## Phase 4 -/

/-- A rail flagged by a fault leaves the sequence (R97). -/
def State.flagRail (s : State) (n : Nat) : State :=
  if (s.rail n).flagDue then
    let s := (s.setRail n rlFLAGGED).modRail n fun r => { r with flagDue := false, part := false }
    (s.put (SUP_RAILSTAT_FLT_FLAGGED n) 1).log 0x3005 n []
  else s

/-- The Swarm sample (R37, R76 to R80). -/
def State.swSample (s : State) (high : Bool) : State :=
  if s.sw.high == high then s
  else { s with sw := { s.sw with
    high := high, since := s.tb.ticks, holdFrom := if high then none else s.sw.holdFrom, stuckDone := s.sw.stuckDone && !high } }

/-- Phase 4: flagged rails, rails that wait for a lower group, the completion of a sequence, the Swarm sample (R63, R64, R97). -/
def State.phase4 (s : State) (f : FrameIn) : State :=
  let s := s.forRails fun n t => t.flagRail n
  let s := s.forRails fun n t =>
    if t.used n && t.railSt n == rlOFFWAIT && t.due (t.rail n).offEnd && !t.gateOpen n then t.setRail n rlFALLGATE else t
  (s.shutdownEnd.seqComplete).swSample f.swarmHigh

/-! ## Phase 5 -/

/-- A refused descriptor (Table 13-4): its final record with BAD and STOP, and STOPPED with the descriptor as resume point. -/
def State.dcRefused (s : State) (n : Nat) : State :=
  let total := match (s.chan n).desc with
    | some d => d.total
    | none => 0
  let s := s.dcRecord n total (s.dcTag n) 0x42 6 false
  let s := s.modChan n fun c => { c with
    ph := .off, issued := 0, written := 0, conf := 0, pre := none, preAsk := false, fetching := false
    slots := min c.slots 1, stop := none, forced := false, estop := false }
  ((s.put (BMV_DCSTAT_STATE n) dcSTOPPED).put (BMV_DCSTAT_HOLDS n) 0).dcShow n

/-- A refused item is reported on its requester (R325, R327, Table 13-4). -/
def State.itemRefused (s : State) (r : Nat) : State :=
  if r < 32 then s.scFail r 0x42 0
  else if r < 48 then s.dcRefused (r - 32)
  else if r < 50 then s.cardRefused (r - 48)
  else s.lampRefused (r - 50)

/-- Phase 5: every pending item is judged, or is deferred once where the phase is abandoned (R43, R323, R325).
(Log: DEDUCED 19, 62, 64) -/
def State.phase5 (s : State) : State :=
  if s.phase 5 then
    let (s, l) := s.judge
    l.foldl (fun t r => t.itemRefused r) s
  else s.judgeAbandoned

/-! ## Phase 6 -/

/-- The MRAM test of R418 ends with its result.
(Log: DEDUCED 94) -/
def State.bistTick (s : State) : State :=
  match s.snt.bistEnd with
  | some t =>
    if s.due t then
      let r := match s.st.ecc with
        | w :: _ => some (BitVec.ofNat 24 (8 * w))
        | [] => Config.bist s.free
      let s := { s with free := s.free + 1 }
      match r with
      | none => s.bistEnd 0
      | some o => (s.put RST_BISTRES_OFFSET o.toNat).bistEnd 1
    else s
  | none => s

/-- Phase 6, which a frame without overrun reaches: the lamps of service states and the record of lost events (R37, R40, R184,
R407). -/
def State.phase6 (s : State) : State :=
  if s.phase 5 then ((upTo 8).foldl (fun t c => t.lampService c) s).evDropRecord else s

/-! ## The frame -/

/-- The longest duration of each phase is kept (R47). -/
def State.phaseMax (s : State) (cycles : List Nat) : State :=
  (upTo 6).foldl (fun t p =>
    t.put (FRM_PHASEMAX_CYCLES p) (max (t.get (FRM_PHASEMAX_CYCLES p)) (satTo 16 (cycles.getD p 0)))) s

/-- The phases of a frame that run: phase 1 always, each further one if the frame completes it; then the MRAM test and the commands
that wait for what the frame brought (R418, R231). -/
def State.framePhases (s : State) (f : FrameIn) : State :=
  let s := s.phase1.thmTick
  let s := (s.sweep f).fastPath f
  let s := if s.phase 3 then s.phase3 f else s
  let s := if s.phase 4 then s.phase4 f else s
  (s.phase5.phase6.bistTick.pollCmds.evWaiting).phaseMax f.cycles

/-- In SLEEP the frame timer runs on its last trim and the Swarm line is sampled; Sentinel gates its clock at the first tick
that finds its event buffer empty (R414, R415).
(Log: DEDUCED 24, 25) -/
def State.sleepFrame (s : State) (f : FrameIn) : State :=
  let s := (s.opened.frameAccount.tickAdvance 0 f.xtal).put FRM_VIPTR_PTR (s.get FRM_VIPTR_PTR + 1)
  let s := s.thmTick.swSample f.swarmHigh
  { s with rst := { s.rst with gated := s.rst.gated || s.st.evq.isEmpty } }

/-- FRAME_TICK (R37, R42 to R47): the old frame is accounted for, a due commit applies, the frame number advances and the phases
that `f` completes run. In reset the frame timer alone runs; without VSTBY there is no frame.
(Log: DESIGN CHOICE 4, 20; DEDUCED 19) -/
def execFrameTick (f : FrameIn) (s : State) : Res :=
  .next <|
    if s.rst.vault then s
    else if s.rst.low then s.tickAdvance 0 f.xtal
    else if s.asleep then s.sleepFrame f
    else (s.opened.frameAccount.tickCommit.tickAdvance (max 1 (min 6 f.done)) f.xtal).framePhases f

end Sys2Proof.Machine
end

