-- ==== Sys2Proof/Machine/Ports.lean ====
section
/-!
DEFINITION. Device ports (chapter 15) and the entries that reach a device (chapter 10): the start of an operation, its
bursts, its end, sense blocks, flash, serial and GPIO rules.
-/

namespace Sys2Proof.Machine

/-- A port as reset leaves it. -/
def DPort.idle : DPort := ⟨0, 31, 0, 0, 0, 0, false, false, [], 0, 0, false, false, 0, false⟩

/-- Device port `x`. -/
def State.dport (s : State) (x : Nat) : DPort := s.dpt.ports.getD x DPort.idle

/-- Changes device port `x`. -/
def State.modPort (s : State) (x : Nat) (f : DPort → DPort) : State :=
  { s with dpt := { s.dpt with ports := modAt s.dpt.ports x f } }

/-- The settings in force: those of the open operation, else the committed ones (R462). -/
def State.portCfg (s : State) (x : Nat) : Nat :=
  if s.on (DPT_PORTSTAT_OPEN x) then (s.dport x).cfg.toNat else (s.reg (0x10000 + 4 * x)).toNat

/-- The entry whose CODE, DEVPARAM and class govern the operation (R253). -/
def State.scLead (s : State) (n : Nat) : Cce := (s.sub n).head.getD (s.sub n).cce

/-! ## Refusals before the first byte -/

/-- The SFDP index of a port and chip select (R360). -/
def sfdpIdx (x d : Nat) : Nat := 2 * (x - 8) + d % 2

/-- The size, as log2, of SFDP erase type `k` (Table 20-8); 0 where the table gives none.
(Log: PRESUMED 144) -/
def State.eraseSize (s : State) (c k : Nat) : Nat :=
  match k with
  | 0 => s.get (DPT_SFDP2_SIZE1 c)
  | 1 => s.get (DPT_SFDP2_SIZE2 c)
  | 2 => s.get (DPT_SFDP3_SIZE3 c)
  | 3 => s.get (DPT_SFDP3_SIZE4 c)
  | _ => 0

/-- The running slot's flash range on SP0 chip select 0, while Service firmware runs (R152, R362). -/
def State.runningSlot (s : State) : Option (Nat × Nat) :=
  if s.on GLB_STATUS_SVC_RUN then
    some (if s.on SNT_BOOTSTAT0_SLOT then (0x100000, 0x200000) else (0, 0x100000))
  else none

/-- Does a write or erase of `n` bytes at flash address `a` touch the running slot? -/
def State.slotTouched (s : State) (a n : Nat) : Bool :=
  match s.runningSlot with
  | some (lo, hi) => overlap a n lo (hi - lo)
  | none => false

/-- Time on the bus of `n` raw SPI bytes, in ns (R358, R359). -/
def State.rawNs (s : State) (x d n : Nat) : Nat :=
  let lanes := if d / 4 % 4 == 2 then 4 else if d / 4 % 4 == 1 then 2 else 1
  n * 8 * (s.portCfg x / 256 % 512) * 2 / lanes

/-- Bytes that are owners of GPIO pins (R365, R459). -/
def State.pinOwner (s : State) (g : Nat) : Nat := (s.reg (0x10280 + 4 * (g / 4))).toNat / 2 ^ (8 * (g % 4)) % 256

/-- May the subchannel's owner drive pin `g` (R365)? -/
def State.mayDrive (s : State) (n g : Nat) : Bool := s.scCode n == 16 || s.pinOwner g == s.scCode n

/-- A refusal of the entry in hand before its device operation has any effect: its status and whether it is DP_PROTECTED
(R354, R359 to R362). -/
def State.dptRefuse (s : State) (n : Nat) : Option Nat :=
  let x := s.scPort n
  let u := s.sub n
  let c := u.cce
  let d := (s.scLead n).dev
  if x < 6 && s.on (DPT_PORTSTAT_STUCK x) && !(c.code == 0x22 && c.count == 0) then some 0x75
  else if x == 8 || x == 9 then
    let flash := bitOf d 1
    if flash then
      let k := sfdpIdx x d
      if !s.on (DPT_SFDP0_VALID k) && !(c.code == 0x22 && d / 16 % 16 == 3) then some 0x78
      else if c.code == 0x22 && d / 16 % 16 == 2 then
        let sz := s.eraseSize k c.count
        if sz == 0 then some 0x13
        else if u.flash % 2 ^ sz != 0 then some 0x12
        else if x == 8 && d % 2 == 0 && s.slotTouched u.flash (2 ^ sz) then some 0x76
        else none
      else if c.code == 0x20 && x == 8 && d % 2 == 0 && s.slotTouched u.flash (c.count - u.moved) then some 0x76
      else none
    else
      let tot := u.opBytes + c.count
      let run := u.head.isSome || u.joined
      let bytes := if run then tot else c.count
      let ns := (if run then u.opNs else 0) + s.rawNs x d c.count
      if 64 < bytes || 123000 < ns then some 0x13
      else if c.code == 0x20 && x == 8 && d % 2 == 0 && s.on GLB_STATUS_SVC_RUN then some 0x76
      else none
  else if x == 12 && c.code == 0x22 then
    if s.mayDrive n (c.count % 32) then none else some 0x31
  else none

/-- Starts the entry in hand (R260): refused at once where a rule of its port says so, else admitted if it is of class E1 to
E3; a continuation runs on under the admission of its first entry, unless its run was suspended (R253, R264). -/
def State.cceStart (s : State) (n : Nat) : State :=
  match s.dptRefuse n with
  | some st =>
    let s := if st == 0x76 then s.log 0xA004 (s.scPort n) [some n, some (s.sub n).flash] else s
    s.scFail n st 0
  | none =>
    let cls := s.scClass n
    if ((s.sub n).head.isSome && !(s.sub n).readmit) || cls == 0 then s.modSub n fun u => { u with ph := .op }
    else (s.modSub n fun u => { u with ph := .adm, readmit := false }).present n cls (s.originOf (s.scOwner n))

/-- CCE_WRITE (R250, R260). -/
def execCceWrite (n : Fin 32) (s : State) : Res := .next <| if s.scReady n 0x20 then s.cceStart n else s

/-- CCE_READ (R250, R260, R261). -/
def execCceRead (n : Fin 32) (s : State) : Res := .next <| if s.scReady n 0x21 then s.cceStart n else s

/-- CCE_CONTROL (R250, R260). -/
def execCceControl (n : Fin 32) (s : State) : Res := .next <| if s.scReady n 0x22 then s.cceStart n else s

/-! ## Where a burst's bytes lie in host memory -/

/-- The pieces of host memory that a transfer's next bytes fill or drain, and the position reached. -/
structure Walk where
  pieces : List (Nat × Nat)
  seg    : Option (Nat × Nat × Bool)
  off    : Nat
  idx    : Nat
  /-- a segment entry is invalid, or the list ends before COUNT (0x13, R254) -/
  bad    : Bool
  /-- what is bad is that the list, or the segment it names, runs into the posting aperture: the offset there (R261) -/
  apert  : Option Nat
  /-- the segment entries read from host memory; a read waits for the store buffer to drain (R281) -/
  loads  : List Nat
  waits  : Bool
  deriving DecidableEq, Repr

/-- A walk of nothing: SKIP and the aperture touch no host memory. -/
def Walk.idle : Walk := ⟨[], none, 0, 0, false, none, [], false⟩

/-- Is a segment entry valid, and what does it say (Table 10-12)? -/
def segOf (b : List Byte) : Option (Nat × Nat × Bool) :=
  let len := leAt b 8 4
  if len == 0 || 65535 < len || leAt b 0xC 1 / 2 != 0 || leAt b 0xD 3 != 0 then none
  else some (leAt b 0 8, len, leAt b 0xC 1 % 2 == 1)

/-- A segment entry reaches the walk (R254): its addresses never lie in the aperture (R261).
(Log: DEDUCED 141) -/
def Walk.take (w : Walk) (b : List Byte) : Walk :=
  match segOf b with
  | none => { w with bad := true }
  | some g =>
    if apertBase < g.1 + g.2.1 then { w with bad := true, apert := some (g.1 - apertBase) } else { w with seg := some g }

/-- Walks an indirect address list for `need` bytes, reading segment entries just before they are reached (R254); `look` is
what the store buffer says of each (R281). From entry `lim` on the list would lie in the aperture (R261). -/
def ialWalk (look : Nat → Fwd) (lim : Nat) : Nat → Nat → List (List Byte) → Walk → Walk
  | 0, _, _, w => w
  | fuel + 1, need, segs, w =>
    if need = 0 || w.bad then w
    else
      match w.seg with
      | none =>
        if 256 ≤ w.idx then { w with bad := true }
        else if lim ≤ w.idx then { w with bad := true, apert := some (16 * (w.idx - lim)) }
        else
          match look w.idx, segs with
          | .wait, _ => { w with waits := true }
          | .bytes b, _ => ialWalk look lim fuel need segs (w.take b)
          | .free, [] => w
          | .free, b :: l => ialWalk look lim fuel need l ({ w with loads := w.loads ++ [w.idx] }.take b)
      | some (a, len, last) =>
        let m := min need (len - w.off)
        if m = 0 then
          if last then { w with bad := true }
          else ialWalk look lim fuel need segs { w with seg := none, idx := w.idx + 1, off := 0 }
        else ialWalk look lim fuel (need - m) segs { w with pieces := w.pieces ++ [(a + w.off, m)], off := w.off + m }

/-- A host request is split at a 4 KiB boundary (R254). -/
def splitPage (p : Nat × Nat) : List (Nat × Nat) :=
  let m := 4096 - p.1 % 4096
  if p.2 ≤ m then [p] else [(p.1, m), (p.1 + m, p.2 - m)]

/-- The pieces of the next `k` bytes of the entry in hand; every read is checked against the store buffer (R281).
(Log: DEDUCED 138) -/
def State.scPieces (s : State) (n k : Nat) (segs : List (List Byte)) : Walk :=
  let u := s.sub n
  let w : Walk := ⟨[], u.seg, u.segOff, s.get (CPE_SCSTAT1_IALIDX n), false, none, [], false⟩
  let look (i : Nat) : Fwd := s.cch.forward (s.scCode n) (u.cce.addr + 16 * i) 16
  let w :=
    if u.cce.flag 5 || cceApert u.cce then Walk.idle
    else if k = 0 then w
    else if u.cce.flag 1 then ialWalk look ((apertBase - u.cce.addr) / 16) (2 * k + 2 * segs.length + 514) k segs w
    else { w with pieces := [(u.cce.addr + u.moved, k)] }
  let w := { w with pieces := (w.pieces.map splitPage).flatten }
  { w with waits := w.waits || (u.cce.code == 0x20 && w.pieces.any fun p =>
      decide (s.cch.forward (s.scCode n) p.1 p.2 = .wait)) }

/-- The list of the entry in hand ends it: 0x13, or the refusal of the aperture with its record (R254, R261). -/
def State.scListFail (s : State) (n : Nat) (w : Walk) : State :=
  match w.apert with
  | some o =>
    let st := apertRefuse (s.scOwner n).isSome
    (s.log 0x8004 n [some (o % 4096), some st, none, some (s.scAddr n)]).scFail n st 0
  | none => s.scFail n 0x13 0

/-- How many bytes the pieces hold. -/
def Walk.size (w : Walk) : Nat := (w.pieces.map fun p => p.2).sum

/-- Does the entry in hand move its bytes without host memory: SKIP, or the aperture (R256, R261)? -/
def Cce.aside (c : Cce) : Bool := c.flag 5 || cceApert c

/-- Reads the segment entries that a walk reached.
(Log: DEDUCED 138) -/
def State.readSegs (s : State) (n : Nat) (w : Walk) : State :=
  w.loads.foldl (fun s i => s.hostRd (s.scOwner n) ((s.sub n).cce.addr + 16 * i) 16) s

/-- Gathers a WRITE's bytes: a piece that the store buffer covers is forwarded, any other is read from host memory, which
returns the bytes of `l` in order (R281).
(Log: DEDUCED 138) -/
def State.gather (s : State) (n : Nat) : List (Nat × Nat) → List Byte → State × List Byte
  | [], _ => (s, [])
  | (a, k) :: ps, l =>
    match s.cch.forward (s.scCode n) a k with
    | .bytes b =>
      let (s, d) := s.gather n ps l
      (s, b ++ d)
    | _ =>
      let (s, d) := (s.hostRd (s.scOwner n) a k).gather n ps (l.drop k)
      (s, l.take k ++ d)

/-- Does the entry in hand carry a PEC: a protocol form on a PB port with PEC set (R353)? -/
def State.pecOn (s : State) (x n : Nat) : Bool :=
  let c := s.scLead n
  x < 6 && bitOf (s.portCfg x) 3 && (if c.code == 0x20 then c.dev / 256 % 4 == 0 else c.code == 0x21 && !bitOf c.dev 7)

/-- The parts that begin the transaction of an entry (R353, R355, Table 15-4): its address byte, and on a protocol-form READ the command
code and the repeated start's address byte. -/
def wireHead (x : Nat) (c : Cce) : List Wire :=
  let a := c.dev % 128
  if x < 6 then
    if c.code == 0x20 then [.start (2 * a)]
    else if bitOf c.dev 7 then [.start (2 * a + 1)]
    else [.start (2 * a), .lit [BitVec.ofNat 8 (c.dev / 256), BitVec.ofNat 8 (2 * a + 1)]]
  else [.start (2 * a + b2n (c.code == 0x21))]

/-- The parts of a WRITE's next bytes: a Block Write's byte count follows its command code (R353).
(Log: DEDUCED 153) -/
def State.wireBody (s : State) (x n : Nat) (ps : List (Nat × Nat)) : List Wire :=
  let u := s.sub n
  let c := s.scLead n
  let parts := ps.map fun p => Wire.mem p.1 p.2
  if x < 6 && c.dev / 256 % 4 == 0 && 4 ≤ c.count && u.head.isNone && u.moved = 0 then
    match ps with
    | (a, k) :: l => .block a k (c.count - 1) :: l.map fun p => Wire.mem p.1 p.2
    | [] => []
  else parts

/-- How many bytes a part puts on the bus. -/
def Wire.size : Wire → Nat
  | .lit b => b.length
  | .mem _ k => k
  | .block _ k _ => k + 1
  | _ => 1

/-- The parts that fill at most `k` bytes, and the rest. -/
def takeWire : Nat → List Wire → List Wire × List Wire
  | _, [] => ([], [])
  | k, w :: l =>
    if k = 0 then ([], w :: l)
    else if w.size ≤ k then
      let (a, b) := takeWire (k - w.size) l
      (w :: a, b)
    else
      match w with
      | .mem a m => ([.mem a k], .mem (a + k) (m - k) :: l)
      | .block a m c =>
        if k = 1 then ([.mem a 1], .lit [BitVec.ofNat 8 c] :: .mem (a + 1) (m - 1) :: l)
        else ([.block a (k - 1) c], .mem (a + k - 1) (m + 1 - k) :: l)
      | w => ([w], l)

/-- What is left of the bytes that host memory returns after a piece: a piece that the store buffer covers takes none (R281). -/
def State.hostRest (s : State) (n a k : Nat) (h : List Byte) : List Byte :=
  match s.cch.forward (s.scCode n) a k with
  | .bytes _ => h
  | _ => h.drop k

/-- The bytes of parts, and the PEC after them: those of host memory are forwarded from a store or come from `h` (R281, R353). -/
def State.wires (s : State) (n c : Nat) : List Wire → List Byte → State × List Byte × Nat
  | [], _ => (s, [], c)
  | .start b :: l, h =>
    let b := [BitVec.ofNat 8 b]
    let (s, d, c) := s.wires n (crc8 b) l h
    (s, b ++ d, c)
  | .lit b :: l, h =>
    let (s, d, c) := s.wires n (crc8On c b) l h
    (s, b ++ d, c)
  | .pec :: l, h =>
    let (s, d, c') := s.wires n c l h
    (s, BitVec.ofNat 8 c :: d, c')
  | .mem a k :: l, h =>
    let rest := s.hostRest n a k h
    let (s, b) := s.gather n [(a, k)] h
    let (s, d, c) := s.wires n (crc8On c b) l rest
    (s, b ++ d, c)
  | .block a k v :: l, h =>
    let rest := s.hostRest n a k h
    let (s, b) := s.gather n [(a, k)] h
    let b := b.take 1 ++ [BitVec.ofNat 8 v] ++ b.drop 1
    let (s, d, c) := s.wires n (crc8On c b) l rest
    (s, b ++ d, c)

/-- Puts parts on a port's bus; a PB or IT operation keeps what it sent, since it is issued again from its start (R348).
(Log: DEDUCED 153) -/
def State.send (s : State) (x n : Nat) (ws : List Wire) (h : List Byte) : State :=
  let (t, data, c) := s.wires n (s.sub n).opPec ws h
  let t := t.modSub n fun u => { u with opPec := c }
  if data.isEmpty then t else t.emit (.dev x data)

/-- The new bytes of an entry, with what begins and ends its transaction on a PB or IT port. -/
def State.sendNew (s : State) (x n : Nat) (ps : List (Nat × Nat)) (last : Bool) (h : List Byte) : State :=
  let u := s.sub n
  if x < 8 then
    let head := if u.begun then [] else wireHead x (s.scLead n)
    let body := if u.cce.code == 0x20 then s.wireBody x n ps ++ (if last && s.pecOn x n then [.pec] else []) else []
    let s := s.send x n (head ++ body) h
    s.modSub n fun u => { u with begun := true, opSent := u.opSent ++ head ++ body }
  else s.send x n (ps.map fun p => .mem p.1 p.2) h

/-- Writes a READ's bytes into their pieces, past the cache's touched sectors (R282). -/
def State.writePieces (s : State) (n : Nat) : List (Nat × Nat) → List Byte → State
  | [], _ => s
  | (a, k) :: l, b =>
    let o := s.scCode n
    ((s.cchTouch o a k).hostPut (s.scOwner n) a (b.take k) none).writePieces n l (b.drop k)

/-- Takes a READ's bytes: discarded with SKIP, kept for the aperture, or written to host memory (R256, R261, R282). -/
def State.deliver (s : State) (n : Nat) (ps : List (Nat × Nat)) (data : List Byte) : State :=
  let c := (s.sub n).cce
  if c.flag 5 then s
  else if cceApert c then s.modSub n fun u => { u with apert := u.apert ++ data }
  else s.writePieces n ps data

/-! ## The end of an entry -/

/-- Does the entry leave the operation open: NOSTOP (PB and IT writes, IT reads) or HOLD_CS (raw SPI), R345? -/
def leavesOpen (x : Nat) (c : Cce) : Bool :=
  if x < 6 then c.code == 0x20 && bitOf c.dev 7
  else if x < 8 then (c.code == 0x20 || c.code == 0x21) && bitOf c.dev 8
  else if x < 10 then !bitOf c.dev 1 && (c.code == 0x20 || c.code == 0x21) && bitOf c.dev 4
  else false

/-- Posts the values a READ brought to the aperture: those received whole, in ascending offset (R261).
(Log: DEDUCED 141) -/
def State.postApert (s : State) (n : Nat) : State :=
  let u := s.sub n
  let o := u.cce.addr - apertBase
  (upTo (u.apert.length / 2)).foldl (fun s k => s.postRemote (o / 2 + k) (leAt u.apert (2 * k) 2)) s

/-- The bytes of the entry in hand are done, with a completion status (R252, R253, R255, R350): inside a SCATTER run the
next entry continues the operation; else the operation ends, or stays open for the entry that follows.
(Log: DEDUCED 140) -/
def State.opDone (s : State) (n st : Nat) : State :=
  let u := s.sub n
  let x := s.scPort n
  let s := if cceApert u.cce then s.postApert n else s
  if u.cce.flag 6 then
    let s := s.modSub n fun v => { v with head := some (v.head.getD v.cce) }
    let s := if u.cce.flag 3 then s.ssr n whyNOTIFY st (s.scResid n) 0 else s
    let h := (s.sub n).head
    let s := s.scNext n (s.scFollow n)
    s.modSub n fun v => { v with head := h }
  else
    let keep := leavesOpen x (s.scLead n) && !u.ended
    let s := if keep then s.modSub n fun v => { v with joined := true } else s.portRelease n
    let s := s.modSub n fun v => { v with ended := false }
    let s := s.scEntryDone n st (s.scFollow n)
    if keep then s else s.scHoldTake n

/-- A short end (R255): LENIENT completes the entry with its residual, else it fails with 0x7C.
(Log: DEDUCED 140) -/
def State.opShort (s : State) (n : Nat) : State :=
  if (s.sub n).cce.flag 4 then (s.modSub n fun u => { u with ended := true }).opDone n 0x01
  else s.scFail n 0x7C 0

/-- All bytes of COUNT are done and the device offered `over` more (R350). -/
def State.opFull (s : State) (n extra : Nat) : State :=
  if extra = 0 then s.opDone n 0
  else
    let s := s.modSub n fun u => { u with opFlags := setBit u.opFlags 1 true }
    if (s.sub n).cce.flag 4 then s.opDone n 0x05 else s.scFail n 0x7C 0

/-! ## One burst -/

/-- May subchannel `n` take a burst on port `x`: its operation runs, or its admitted entry may start? -/
def State.burstReady (s : State) (x n : Nat) : Bool :=
  s.subRuns n && s.scPort n == x && (s.sub n).cce.code != 0x23 && s.scSt n == scACTIVE && s.served (s.scOwner n) && !s.rebinding (s.scOwner n) &&
    (decide ((s.sub n).ph = .op) || (decide ((s.sub n).ph = .adm) && s.mayStart n))

/-- The subchannel that port `x` grants (R248, R346): the holder of the open operation, else the best party's next in
round robin. -/
def State.burstPick (s : State) (x : Nat) : Option Nat :=
  if s.on (DPT_PORTSTAT_OPEN x) then
    let h := s.get (DPT_PORTSTAT_HOLDER x)
    if s.burstReady x h then some h else none
  else
    let last := (s.dport x).last
    let key (n : Nat) : Nat := s.rank (s.originOf (s.scOwner n)) * 64 + (n + 31 - last) % 32
    (upTo 32).foldl (fun b n =>
      if s.burstReady x n then
        match b with
        | some m => if key n < key m then some n else some m
        | none => some n
      else b) none

/-- The longest polling of a program or erase, in frames (R362): the SFDP maximum, else DPT_BUSYMAX.
(Log: PRESUMED 144) -/
def State.busyLimit (s : State) (x d : Nat) (erase : Bool) : Nat :=
  let c := sfdpIdx x d
  let us := if erase then s.get (DPT_SFDP4_ERASE_MAX c) * 1000 else s.get (DPT_SFDP4_PROG_MAX c)
  if us == 0 then s.get (DPT_BUSYMAX_FRAMES (x - 8)) else (us + 124) / 125

/-- Is the entry in hand a flash-form WRITE (R361)? -/
def State.flashWrite (s : State) (x n : Nat) : Bool :=
  (x == 8 || x == 9) && (s.sub n).cce.code == 0x20 && bitOf (s.scLead n).dev 1

/-- Is it a flash-form READ? -/
def State.flashRead (s : State) (x n : Nat) : Bool :=
  (x == 8 || x == 9) && (s.sub n).cce.code == 0x21 && bitOf (s.scLead n).dev 1

/-- Bytes of data that 123 us of bus time hold at the port's rate, at least one (R347, R358, R363, Tables 15-2 and 20-7): nine bit times a byte on PB
and IT, a character on AS, eight over the lanes on a flash; a raw SPI operation is one burst and was measured whole (R359).
(Log: DEDUCED 163) -/
def State.burstMax (s : State) (x n : Nat) : Nat :=
  let g := s.portCfg x
  let d := (s.scLead n).dev
  let ns : Nat :=
    if x < 6 then 9 * (match g / 2 % 4 with | 0 => 10000 | 1 => 2500 | _ => 1000)
    else if x < 8 then 18 * (if bitOf d 7 then g / 2 ^ 20 % 512 else g / 256 % 512)
    else if x < 10 then
      let rd := s.get (DPT_SFDP0_READ (sfdpIdx x d))
      let lanes := if s.flashRead x n then (if 3 ≤ rd then 4 else if 1 ≤ rd then 2 else 1) else 1
      16 * (g / 256 % 512) / lanes
    else (1 + (if bitOf g 1 then 7 else 8) + (if g / 4 % 4 = 0 then 0 else 1) + (if bitOf g 4 then 2 else 1)) * (g / 4096)
  if (x == 8 || x == 9) && !bitOf d 1 then 64 else max 1 (123000 / max 1 ns)

/-- The most bytes of the entry in hand that one burst moves (R347): a Page Program stays within its page (R361). -/
def State.burstWant (s : State) (x n : Nat) : Nat :=
  let u := s.sub n
  let k := min (min 64 (s.burstMax x n)) (u.cce.count - u.moved)
  if s.flashWrite x n then
    let pg := 2 ^ s.get (DPT_SFDP0_PAGE (sfdpIdx x (s.scLead n).dev))
    min k (pg - u.flash % pg)
  else k

/-- The device error of a burst, of those that the kind of port reports (R354, R355): a PEC is checked where there is one. -/
def State.burstErr (s : State) (x n : Nat) (b : BurstIn) : Option DevErr :=
  b.err.filter fun e => match e with
    | .i3c => decide (6 ≤ x) && decide (x < 8)
    | .nackAddr | .nackData => decide (x < 8)
    | .pec => s.pecOn x n || (decide (6 ≤ x) && decide (x < 8))
    | .arbLost | .timeout | .stuck _ => decide (x < 6)

/-- Opens or continues the operation for a granted subchannel (R346, R348).
(Log: DEDUCED 153) -/
def State.burstOpen (s : State) (x n : Nat) : State :=
  let s :=
    if (s.sub n).ph = .adm then
      let f := s.wasForced n
      (s.admDrop n).modSub n fun u => { u with ph := .op, forced := f }
    else s
  let s := s.modPort x fun p => { p with last := n }
  if s.on (DPT_PORTSTAT_OPEN x) then s
  else
    let u := s.sub n
    let again := decide (0 < u.moved + u.opBytes) || u.head.isSome
    let busy := again && s.flashWrite x n && u.busy.isNone && decide (0 < u.moved)
    let s := s.modSub n fun u => if again then { u with opFlags := setBit u.opFlags 0 true, seg := none, opAgain := u.opSent
                                                        begun := u.begun && decide (x < 8)
                                                        busy := if busy then some (s.after (s.busyLimit x (s.scLead n).dev false)) else u.busy }
      else { u with opBytes := 0, opFlags := 0, opNs := 0, opSent := [], opAgain := [], begun := false, busy := none }
    let s := s.modPort x fun p => { p with
      cfg := s.reg (0x10000 + 4 * x), count := if x < 6 then (p.count + 1) % 65536 else p.count, losses := 0
      lastDev := if again then p.lastDev else 0 }
    (s.put (DPT_PORTSTAT_OPEN x) 1).put (DPT_PORTSTAT_HOLDER x) n

/-- A device error ends the entry with its status (R354, R355). A lost arbitration is retried up to three times with MULTI
set, when the bus is next idle.
(Log: DEDUCED 143, 153) -/
def State.devFail (s : State) (x n : Nat) (e : DevErr) : State :=
  match e with
  | .nackAddr => s.scFail n 0x70 0
  | .nackData => s.scFail n 0x71 0
  | .timeout => s.scFail n 0x73 0
  | .pec => s.scFail n 0x74 0
  | .i3c => s.scFail n 0x7B 0
  | .arbLost =>
    if x < 6 && bitOf (s.portCfg x) 4 && (s.dport x).losses < 3 then
      (s.modPort x fun p => { p with losses := p.losses + 1, waitIdle := true }).modSub n fun u =>
        { u with opAgain := u.opSent }
    else s.scFail n 0x72 0
  | .stuck _ =>
    let s := (s.put (DPT_PORTSTAT_STUCK x) 1).log 0xA001 x [some n]
    s.scFail n 0x75 0

/-- The flash pointer advances by the bytes read or programmed (R361). -/
def State.flashMove (s : State) (x n k : Nat) : State :=
  if (x == 8 || x == 9) && bitOf (s.scLead n).dev 1 then
    s.modSub n fun u => { u with flash := (u.flash + k) % 2 ^ 32 }
  else s

/-- The next position of the entry in hand after `w` has been used. -/
def State.scAdvance (s : State) (x n : Nat) (w : Walk) (k : Nat) : State :=
  let s := (s.flashMove x n k).put (CPE_SCSTAT1_IALIDX n) w.idx
  let s := (s.modSub n fun u =>
    { u with moved := u.moved + k, opBytes := u.opBytes + k, seg := w.seg, segOff := w.off
             opNs := u.opNs + s.rawNs x (s.scLead n).dev k }).scShow n
  s.modPort x fun p => { p with lastDev := min 255 (s.sub n).opBytes }

/-- The characters that a READ on an asynchronous port may take: with OVR set, those that came before the loss (R364). -/
def State.asAvail (s : State) (x : Nat) : List (Byte × Bool) :=
  let p := s.dport x
  if s.on (DPT_PORTSTAT_OVR x) then p.rx.take p.pre else p.rx

/-- A READ's burst on an asynchronous port takes characters from the receive buffer (R364). -/
def State.asRead (s : State) (x n : Nat) (b : BurstIn) : State :=
  let c := (s.sub n).cce
  let avail := s.asAvail x
  let want := min 64 (c.count - (s.sub n).moved)
  let good := (avail.take want).takeWhile fun c => !c.2
  let w := s.scPieces n good.length b.segs
  let k := if c.aside then good.length else min good.length w.size
  let data := (good.take k).map fun c => c.1
  let bad := decide (good.length < want) && decide (good.length < avail.length) && k == good.length
  let s := s.readSegs n w
  match b.hostErr with
  | some a => s.scFail n 0x50 a
  | none =>
    let s := s.deliver n w.pieces data
    let s := s.modPort x fun p => { p with rx := p.rx.drop (k + b2n bad), pre := p.pre - (k + b2n bad) }
    let s := s.scAdvance x n w k
    let lost (s : State) : State := (s.put (DPT_PORTSTAT_OVR x) 0).scFail n 0x7A 0
    if w.bad then s.scListFail n w
    else if bad then s.scFail n 0x79 0
    else if !(s.asAvail x).isEmpty then (if (s.sub n).moved == c.count then s.opDone n 0 else s)
    else if s.on (DPT_PORTSTAT_OVR x) then lost s
    else if (s.sub n).moved == c.count then s.opDone n 0
    else if (s.scLead n).dev % 256 == 0 then s.opShort n
    else if data.isEmpty then s
    else s.modPort x fun p => { p with rxTick := s.tb.ticks }

/-- Sets the output latch bits of a mask (R365, R366). -/
def State.gpioDrive (s : State) (mask vals : Nat) : State :=
  let old := (s.reg 0x102A4).toNat
  s.put DPT_GPIOOUT_LEVELS ((old &&& (0xFFFFFFFF - mask)) ||| (vals &&& mask))

/-- A GPIO operation is one burst (R365). -/
def State.gpioOp (s : State) (n : Nat) (b : BurstIn) : State :=
  let c := (s.sub n).cce
  if c.code == 0x22 then
    let g := c.count % 32
    (s.gpioDrive (2 ^ g) (if bitOf c.count 8 then 2 ^ g else 0)).opDone n 0
  else
    let w := s.scPieces n c.count b.segs
    let s := s.readSegs n w
    match b.hostErr with
    | some a => s.scFail n 0x50 a
    | none =>
      if w.bad then s.scListFail n w
      else if !c.aside && w.size != c.count then s
      else if c.code == 0x20 then
        let (s, data) := s.gather n w.pieces b.host
        let mask := leAt data 0 4
        if (upTo 32).all fun g => !bitOf mask g || s.mayDrive n g then
          ((s.gpioDrive mask (leAt data 4 4)).scAdvance 12 n w 8).opDone n 0
        else s.scFail n 0x31 0
      else ((s.deliver n w.pieces (leBytes 4 (s.get DPT_GPIOIN_LEVELS))).scAdvance 12 n w 4).opDone n 0

/-- A flash erase or program is polled: `done` when the polled WIP bit is clear (R362). -/
def State.flashPoll (s : State) (x n : Nat) (b : BurstIn) (done : State → State) : State :=
  let s := s.modPort x fun p => { p with poll := b.poll }
  if b.ended then done (s.modSub n fun u => { u with busy := none }) else s

/-- An erase (R361, R362): the first burst issues it, and every burst polls it. -/
def State.flashErase (s : State) (x n k : Nat) (b : BurstIn) : State :=
  let c := sfdpIdx x (s.sub n).cce.dev
  let s :=
    if (s.sub n).busy.isSome then s
    else
      let code := s.get (match k with
        | 0 => DPT_SFDP2_OP1 c
        | 1 => DPT_SFDP2_OP2 c
        | 2 => DPT_SFDP3_OP3 c
        | _ => DPT_SFDP3_OP4 c)
      (s.emit (.flash x (c % 2) (.erase (some code)) (s.sub n).flash [])).modSub n fun u =>
        { u with busy := some (s.after (s.busyLimit x u.cce.dev true)) }
  s.flashPoll x n b fun s => (s.modSub n fun u => { u with flash := (u.flash + 2 ^ s.eraseSize c k) % 2 ^ 32 }).opDone n 0

/-- A CONTROL's burst on the ports other than GPIO (R353, R354, R356, R361, R363).
(Log: DEDUCED 143) -/
def State.controlOp (s : State) (x n : Nat) (b : BurstIn) : State :=
  let u := s.sub n
  let imm := u.cce.count
  let a := u.cce.dev % 128
  if x < 6 then
    if imm == 0 then
      let s := (s.emit (.devCtl x 0 0)).put (DPT_PORTSTAT_STUCK x) 0
      (s.log 0xA002 x [some b.pulses]).opDone n 0
    else (s.emit (.dev x [BitVec.ofNat 8 (2 * a + b2n (imm == 2))])).opDone n 0
  else if x < 8 then
    let s := s.emit (.devCtl x imm a)
    let s := if imm / 256 == 0x90 then s.modPort x fun p => { p with stat2 := leAt b.dev 0 2 } else s
    s.opDone n 0
  else if x < 10 then
    match u.cce.dev / 16 % 16 with
    | 0 => (s.modSub n fun u => { u with flash := u.flash / 65536 * 65536 + imm }).opDone n 0
    | 1 => (s.modSub n fun u => { u with flash := u.flash % 65536 + imm * 65536 }).opDone n 0
    | 2 => s.flashErase x n imm b
    | 4 => (s.emit (.flash x (u.cce.dev % 2) .reset 0 [])).opDone n 0
    | _ => s.opDone n 0
  else
    let s :=
      match imm / 4096 with
      | 1 => s.modPort x fun p => { p with rx := [], pre := 0 }
      | 2 => (s.emit (.devCtl x imm 0)).modPort x fun p => { p with rtsHigh := bitOf imm 0 }
      | _ => s.emit (.devCtl x imm 0)
    s.opDone n 0

/-- An operation that was reopened sends again what it had sent, and discards what comes again, as far as this burst carries (R348).
(Log: DEDUCED 153) -/
def State.sendAgain (s : State) (x n : Nat) (b : BurstIn) : State :=
  let (ws, rest) := takeWire (min 64 (s.burstMax x n)) (s.sub n).opAgain
  match b.hostErr with
  | some a => s.scFail n 0x50 a
  | none =>
    let s := (s.send x n ws b.host).modSub n fun u => { u with opAgain := rest }
    match s.burstErr x n b with
    | some e => s.devFail x n e
    | none => s

/-- A Page Program's burst (R361, R362): bytes up to the page's end, then polling; while it is polled the burst only polls. -/
def State.flashProgram (s : State) (x n : Nat) (b : BurstIn) : State :=
  let u := s.sub n
  let c := u.cce
  if u.busy.isSome then s.flashPoll x n b fun s => if (s.sub n).moved == c.count then s.opDone n 0 else s
  else
    let w := s.scPieces n (min (s.burstWant x n) b.n) b.segs
    let s := s.readSegs n w
    match b.hostErr with
    | some a => s.scFail n 0x50 a
    | none =>
      let k := if c.aside then min (s.burstWant x n) b.n else w.size
      let (s, data) := s.gather n w.pieces b.host
      let i := sfdpIdx x (s.scLead n).dev
      let s := if data.isEmpty then s else s.emit (.flash x (i % 2) .program u.flash data)
      let s := s.scAdvance x n w k
      if w.bad then s.scListFail n w
      else if (s.sub n).moved == c.count || (k != 0 && (s.sub n).flash % 2 ^ s.get (DPT_SFDP0_PAGE i) == 0) then
        s.modSub n fun u => { u with busy := some (s.after (s.busyLimit x (s.scLead n).dev false)) }
      else s

/-- A data burst of a WRITE or READ on the ports other than GPIO, of all but flash programs and the receive side of AS (R253 to R255, R268,
R282, R347, R350): the pieces of host memory, the bytes, then the ends in order: bus error, device error, list error, all bytes done, short
end.
(Log: DEDUCED 153) -/
def State.dataOp (s : State) (x n : Nat) (b : BurstIn) : State :=
  let u := s.sub n
  let c := u.cce
  let want := s.burstWant x n
  let k := if c.code == 0x20 then min want b.n else min want b.dev.length
  let w := s.scPieces n k b.segs
  let k := if c.aside then k else min k w.size
  let s := s.readSegs n w
  match b.hostErr with
  | some a => s.scFail n 0x50 a
  | none =>
    let s := if s.flashRead x n && !u.begun then
        (s.emit (.flash x ((s.scLead n).dev % 2) .read u.flash [])).modSub n fun u => { u with begun := true } else s
    let s :=
      if c.code == 0x20 then s.sendNew x n w.pieces (u.moved + k == c.count && !c.flag 6) b.host
      else (s.sendNew x n [] false b.host).deliver n w.pieces (b.dev.take k)
    let s := s.scAdvance x n w k
    match s.burstErr x n b with
    | some e => s.devFail x n e
    | none =>
      if w.bad then s.scListFail n w
      else if (s.sub n).moved == c.count then s.opFull n b.extra
      else if b.ended then s.opShort n
      else s

/-- Would the burst's next read wait for the store buffer (R281)? Such a burst does not begin yet.
(Log: DEDUCED 138, 153) -/
def State.burstWaits (s : State) (x n : Nat) (b : BurstIn) : Bool :=
  let u := s.sub n
  let left := min 64 (u.cce.count - u.moved)
  let want := s.burstWant x n
  let k := if x == 12 then left else if u.cce.code == 0x20 then min want b.n else min want b.dev.length
  let k := if (x == 10 || x == 11) && u.cce.code == 0x21 then min left (s.asAvail x).length else k
  let back := (takeWire (min 64 (s.burstMax x n)) u.opAgain).1.any fun p => match p with
    | .mem a m | .block a m _ => decide (s.cch.forward (s.scCode n) a m = .wait)
    | _ => false
  u.cce.code != 0x22 && !u.ended && u.busy.isNone && (if u.opAgain.isEmpty then (s.scPieces n k b.segs).waits else back)

/-- The state a burst of subchannel `n` begins in: the port opened, a restarted clock logged, and the result flags of the
operation with the burst's alert and PEC error (R351, R354). -/
def State.burstBegin (s : State) (x n : Nat) (b : BurstIn) : State :=
  let t := s.burstOpen x n
  let t := if b.pulses != 0 && x < 6 && !s.on (DPT_PORTSTAT_OPEN x) && (t.sub n).cce.code != 0x22 then
      t.log 0xA002 x [some b.pulses] else t
  let p := t.dport x
  let alert := if x < 6 then b.alert else if x < 8 then p.ibiPend else (x == 10 || x == 11) && p.brk
  let f := (t.sub n).opFlags
  let pec := b.pec && (t.sub n).cce.code == 0x21 && t.pecOn x n
  t.modSub n fun u => { u with opFlags := setBit (setBit f 2 (bitOf f 2 || alert)) 3 (bitOf f 3 || pec) }

/-- PORT_BURST (R248, R347): port `x` grants one burst and runs it whole, with what the outside gives it.
(Log: DEDUCED 138, 143; DESIGN CHOICE 145) -/
def execPortBurst (x : Fin 13) (b : BurstIn) (s : State) : Res :=
  .next <|
    if (s.dport x).waitIdle then s
    else
      match s.burstPick x with
      | none => s
      | some n =>
        let t := s.burstBegin x n b
        let u := t.sub n
        if t.burstWaits x n b then s
        else if u.ended then t.opShort n
        else if x.val == 12 then t.gpioOp n b
        else if u.cce.code == 0x22 then
          match t.burstErr x n b with
          | some e => t.devFail x n e
          | none => t.controlOp x n b
        else if !u.opAgain.isEmpty then t.sendAgain x n b
        else if t.flashWrite x n then t.flashProgram x n b
        else if (x.val == 10 || x.val == 11) && u.cce.code == 0x21 then t.asRead x n b
        else if (x.val == 10 || x.val == 11) && bitOf (t.portCfg x) 5 && (t.dport x).ctsHigh then t
        else t.dataOp x n b

/-! ## Sense -/

/-- The sense block of a port (Table 15-3); `lv` gives the pin levels of byte 0 for PB, IT and AS ports. -/
def State.senseBlock (s : State) (x n lv : Nat) : List Byte :=
  let p := s.dport x
  if x < 6 then
    leBytes 1 (lv % 8 + 8 * s.get (DPT_PORTSTAT_STUCK x)) ++ leBytes 1 p.lastDev ++ leBytes 2 p.count ++ zeros 4
  else if x < 8 then
    let i := x - 6
    leBytes 1 (lv % 4 + 4 * b2n p.ibiPend + 8 * s.get (DPT_IBISTAT_HOTJOIN i)) ++ leBytes 1 (s.get (DPT_IBISTAT_ADDR i)) ++
      leBytes 1 (s.get (DPT_IBISTAT_PAYLOAD i)) ++ leBytes 1 (s.get (DPT_IBISTAT_COUNT i)) ++ leBytes 2 p.stat2 ++ zeros 2
  else if x < 10 then
    let c := 2 * (x - 8)
    leBytes 1 (s.get (DPT_SFDP0_VALID c) + 2 * s.get (DPT_SFDP0_VALID (c + 1))) ++ leBytes 1 p.poll ++
      leBytes 2 ((s.sub n).flash) ++ leBytes 2 ((s.sub n).flash / 65536) ++ zeros 2
  else if x < 12 then
    leBytes 1 (b2n p.ctsHigh + 2 * (lv / 2 % 2) + 4 * b2n p.brk + 8 * s.get (DPT_PORTSTAT_OVR x)) ++
      leBytes 1 p.rx.length ++ leBytes 2 p.count ++ zeros 4
  else
    let own := (upTo 32).foldl (fun m g => if s.mayDrive n g then m + 2 ^ g else m) 0
    leBytes 4 (s.get DPT_GPIOIN_LEVELS) ++ leBytes 4 (s.dpt.edges &&& own)

/-- A SENSE that may run: the block's first COUNT bytes go to host memory and the entry completes (R351). -/
def State.senseRun (s : State) (n lv : Nat) : State :=
  let x := s.scPort n
  let c := (s.sub n).cce
  let data := (s.senseBlock x n lv).take c.count
  let own := (upTo 32).foldl (fun m g => if s.mayDrive n g then m + 2 ^ g else m) 0
  let read := own &&& (2 ^ (8 * (c.count - 4)) - 1)
  let s := if x == 12 && 4 < c.count then { s with dpt := { s.dpt with edges := s.dpt.edges &&& (0xFFFFFFFF - read) } } else s
  let s := if x == 6 || x == 7 then s.modPort x fun p => { p with ibiPend := false } else s
  let s := s.writePieces n (splitPage (c.addr, data.length)) data
  let s := s.modSub n fun u => { u with moved := c.count, opBytes := 0, opFlags := 0 }
  s.scEntryDone n 0 (s.scFollow n)

/-- CCE_SENSE (R205, R351): no bus transaction; admitted by its class like any entry of chapter 10. Its write waits while the owner is not
served. -/
def execCceSense (n : Fin 32) (lv : Nat) (s : State) : Res :=
  .next <|
    if !s.served (s.scOwner n) || s.rebinding (s.scOwner n) then s
    else if s.scReady n 0x23 then
      if s.scClass n == 0 then s.senseRun n lv
      else (s.modSub n fun u => { u with ph := .adm }).present n (s.scClass n) (s.originOf (s.scOwner n))
    else if s.coreRuns && s.scSt n == scACTIVE && (s.sub n).cce.code == 0x23 && decide ((s.sub n).ph = .adm) &&
        s.mayStart n then
      let f := s.wasForced n
      ((s.admDrop n).modSub n fun u => { u with ph := .op, forced := f }).senseRun n lv
    else s

/-! ## Port events -/

/-- FLASH_BUSY_TIMEOUT (R362): polling beyond the limit fails the entry with 0x77. -/
def execFlashBusyTimeout (x : Fin 2) (s : State) : Res :=
  .next <|
    let x := 8 + x.val
    let n := s.get (DPT_PORTSTAT_HOLDER x)
    match (s.sub n).busy with
    | some t => if s.coreRuns && s.due t && s.on (DPT_PORTSTAT_OPEN x) then s.scFail n 0x77 0 else s
    | none => s

/-- AS_CHARACTER_RECEIVED (R364): a character, with or without an error, or a break; a full buffer loses it and sets OVR. -/
def execAsCharacterReceived (x : Fin 2) (c : Byte) (bad brk : Bool) (s : State) : Res :=
  .next <|
    let y := 10 + x.val
    if s.coreRuns && s.on (DPT_ASCFG_EN x) then
      let s := s.modPort y fun p =>
        { p with count := (p.count + 1) % 65536, rxTick := s.tb.ticks, brk := p.brk || brk }
      if (s.dport y).rx.length < 64 then s.modPort y fun p => { p with rx := p.rx ++ [(c, bad)] }
      else if s.on (DPT_PORTSTAT_OVR y) then s
      else (s.put (DPT_PORTSTAT_OVR y) 1).modPort y fun p => { p with pre := p.rx.length }
    else s

/-- AS_READ_IDLE_END (R364): DEVPARAM [7:0] frames with no new character end the READ. -/
def execAsReadIdleEnd (x : Fin 2) (s : State) : Res :=
  .next <|
    let y := 10 + x.val
    let n := s.get (DPT_PORTSTAT_HOLDER y)
    let u := s.sub n
    if s.coreRuns && s.on (DPT_PORTSTAT_OPEN y) && u.cce.code == 0x21 && decide (u.ph = .op) && s.scSt n == scACTIVE &&
        (s.dport y).rx.isEmpty && s.due ((s.dport y).rxTick + 1 + (s.scLead n).dev % 256) then
      s.opShort n
    else s

/-- IBI_RECEIVED (R357): the address, the payload and a count; a second IBI overwrites the first.
(Log: DEDUCED 146) -/
def execIbiReceived (x : Fin 2) (addr : BitVec 7) (payload : Byte) (s : State) : Res :=
  .next <|
    if s.coreRuns && s.on (DPT_ITCFG_EN x) then
      let s := (s.put (DPT_IBISTAT_ADDR x) addr.toNat).put (DPT_IBISTAT_PAYLOAD x) payload.toNat
      let s := s.count (DPT_IBISTAT_COUNT x)
      s.modPort (6 + x.val) fun p => { p with ibiPend := true }
    else s

/-- DP_HOTJOIN (R357): the request is NACKed, the flag set and the record written. -/
def execDpHotjoin (x : Fin 2) (addr : Nat) (s : State) : Res :=
  .next <|
    if s.coreRuns && s.on (DPT_ITCFG_EN x) then
      (s.put (DPT_IBISTAT_HOTJOIN x) 1).log 0xA005 (6 + x.val) [some addr]
    else s

/-- GPIO_EDGE (R16, R365): an input level changes; while CORE runs its edge is latched as EDGE selects. -/
def execGpioEdge (g : Fin 32) (high : Bool) (s : State) : Res :=
  .next <|
    let was := bitOf (s.get DPT_GPIOIN_LEVELS) g
    let s := s.put DPT_GPIOIN_LEVELS (setBit (s.get DPT_GPIOIN_LEVELS) g high)
    let e := s.get (DPT_GPIOCFG_EDGE g)
    if s.rst.core && was != high && ((high && bitOf e 0) || (!high && bitOf e 1)) then
      { s with dpt := { s.dpt with edges := setBit s.dpt.edges g true } }
    else s

/-- SFDP_DISCOVERY (R360, R463): the six words of a chip select change in one cycle; a failed one reads VALID 0 and every
other field 0, and is recorded.
(Log: PRESUMED 144) -/
def execSfdpDiscovery (c : Fin 4) (words : Option (List Word)) (badWord : Nat) (s : State) : Res :=
  .next <|
    let base := 0x10100 + 0x20 * c.val
    if s.coreRuns && s.on (DPT_SPCFG_EN (c.val / 2)) && bitOf (s.get (DPT_SPCFG_CSMASK (c.val / 2))) (c.val % 2) then
      match words with
      | some w =>
        let s := (upTo 6).foldl (fun s k =>
          (fieldsAt (base + 4 * k)).foldl (fun s f =>
            s.put ⟨base + 4 * k, f.lo, f.w⟩ (fieldOf (w.getD k 0) f.lo f.w)) s) s
        s.put (DPT_SFDP0_VALID c) 1
      | none =>
        let s := (upTo 6).foldl (fun s k => s.setReg (base + 4 * k) 0) s
        s.log 0xA003 (8 + c.val / 2) [some (c.val % 2), some badWord]
    else s

/-- PB_BUS_IDLE (R354): the bus is idle again and the port retries the transaction.
(Log: DEDUCED 143) -/
def execPbBusIdle (x : Fin 6) (s : State) : Res :=
  .next (s.modPort x fun p => { p with waitIdle := false })

/-- AS_CTS_CHANGE (R363): CTS_N pauses or resumes a WRITE with RTS/CTS enabled. -/
def execAsCtsChange (x : Fin 2) (high : Bool) (s : State) : Res :=
  .next (s.modPort (10 + x.val) fun p => { p with ctsHigh := high })

end Sys2Proof.Machine
end

