-- ==== Sys2Proof/Machine/Timebase.lean ====
section
/-!
DEFINITION. The timebase's commands (chapter 02): discipline windows, crystal loss, the wrap record, captures and the
FRM_CTL writes.
-/

namespace Sys2Proof.Machine

/-- One trim step in AON cycles over a window: about 0.05 % of 512,000 (R27). -/
abbrev trimStep : Int := 256

/-- The trim one step up or down from `step`; what a step past either end of its range leaves is open.
(Log: DESIGN CHOICE 17) -/
def trimMove (step : Nat) (up : Bool) : Nat :=
  if up then (if step < 255 then step + 1 else (Config.trimEnd true).toNat)
  else if 0 < step then step - 1 else (Config.trimEnd false).toNat

/-- The trim after a window: one step towards the target when the error exceeds half a step (R27). Whether a higher STEP makes
the clock faster is open.
(Log: DESIGN CHOICE 17) -/
def trimNext (step : Nat) (err : Int) : Nat :=
  if trimStep / 2 < err then trimMove step (!Config.trimFaster)
  else if err < -(trimStep / 2) then trimMove step Config.trimFaster
  else step

/-- The distance of the window's 125th tick from its closing crystal edge: what `d` has left, and what the count shows beyond
what the frames saw (R28).
(Log: DEDUCED 18) -/
def State.winRest (s : State) (count : Nat) : Int := s.tb.resid + ((count : Int) - 512000 - s.tb.win)

/-- DISCIPLINE_WINDOW_END (R27 to R29), in the housekeeping slot (R40): the count is compared with 512,000, the trim moves, what
`d` has not absorbed is carried, and LOCKED follows three consecutive windows that end within one cycle of their edge.
(Log: DEDUCED 18) -/
def execDisciplineWindowEnd (count : Nat) (s : State) : Res :=
  .next <|
    if s.on FRM_STATUS_XTAL_FAIL || s.asleep || s.rst.vault || s.rst.low || !s.slot then s
    else
      let err : Int := (count : Int) - 512000
      let rest := s.winRest count
      let good := if -1 ≤ rest ∧ rest ≤ 1 then s.tb.goodWins + 1 else 0
      let s := s.put FRM_TRIM_STEP (trimNext (s.get FRM_TRIM_STEP) err)
      let s := if -32768 ≤ err ∧ err < 32768 then s.putS FRM_TRIM_ERR err
        else { s.put FRM_TRIM_ERR (Config.freeWord s.free).toNat with free := s.free + 1 }
      let s := { s with tb := { s.tb with resid := rest, win := 0, goodWins := min good 3 } }
      s.putB FRM_STATUS_LOCKED (decide (3 ≤ good))

/-- XTAL_FAIL (R30): no crystal edge for two frames. -/
def execXtalFail (s : State) : Res :=
  .next <|
    if s.on FRM_STATUS_XTAL_FAIL then s
    else
      let s := (s.put FRM_STATUS_XTAL_FAIL 1).put FRM_STATUS_LOCKED 0
      let s := { s with tb := { s.tb with d := 0, goodWins := 0, resid := 0, win := 0 } }
      s.log 0x1006 0 []

/-- XTAL_RESTORED (R30): crystal edges return; lock is reacquired under R29. -/
def execXtalRestored (s : State) : Res :=
  .next <|
    if s.on FRM_STATUS_XTAL_FAIL then (s.put FRM_STATUS_XTAL_FAIL 0).log 0x1007 0 [] else s

/-- FRAME_WRAP (R35): the record with the last timestamp before the wrap, and the count. -/
def execFrameWrap (s : State) : Res :=
  .next <|
    match s.tb.wrapFrom with
    | some ts =>
      let s := { s with tb := { s.tb with wrapFrom := none } }
      (s.count FRM_WRAPCNT_COUNT).log 0x1003 0 [none, none, none, some ts]
    | none => s

/-- Replaces the value captured for a key.
(Log: DEDUCED 67) -/
def capPut {α : Type} [DecidableEq α] (k : α) (v : Nat) (l : List (α × Nat)) : List (α × Nat) :=
  l.filter (fun c => c.1 != k) ++ [(k, v)]

/-- FRM_TS_LO_READ (R36): the full timestamp is captured for the reading function, and its low word is returned.
(Log: DEDUCED 67) -/
def execFrmTsLoRead (fn : ReadFn) (s : State) : Res :=
  .next <|
    let s := s.touch
    let s := { s with tb := { s.tb with tsCaps := capPut fn (s.now / 2 ^ 32) s.tb.tsCaps } }
    s.emit (.value fn (s.now % 2 ^ 32))

/-- The value of FRM_TS_HI for a reading function: its capture, or the live upper half (R36). -/
def State.tsHi (s : State) (fn : ReadFn) : Nat :=
  match s.tb.tsCaps.find? (fun c => c.1 = fn) with
  | some c => c.2
  | none => s.now / 2 ^ 32

/-- The words of a pair of R433: the one read and the one captured. -/
def pairRegs : CapPair → Nat × Nat
  | .ovrstat => (0x1018, 0x101C)
  | .etot => (0x6060, 0x6064)
  | .vault0 => (0x3001C, 0x30020)
  | .vault1 => (0x30024, 0x30028)

/-- CAPTURE_READ (R433): the paired high word is captured for the reading function, and the low word is returned.
(Log: DEDUCED 67; DESIGN CHOICE 134) -/
def execCaptureRead (fn : ReadFn) (pr : CapPair) (s : State) : Res :=
  .next <|
    let (lo, hi) := pairRegs pr
    let caps := s.tb.pairCaps.filter (fun c => !(decide (c.1 = fn) && decide (c.2.1 = pr)))
    let s := { s with tb := { s.tb with pairCaps := caps ++ [(fn, pr, (s.reg hi).toNat)] } }
    s.emit (.value fn (s.reg lo).toNat)

/-- OVR_CLR (R44): the overrun counter becomes 0. -/
def execOvrClr (s : State) : Res := .next (s.put FRM_OVRCNT_COUNT 0)

/-- PHMAX_CLR (R47): every phase record becomes 0. -/
def execPhmaxClr (s : State) : Res :=
  .next ((upTo 6).foldl (fun s p => s.put (FRM_PHASEMAX_CYCLES p) 0) s)

end Sys2Proof.Machine
end

