-- ==== Sys2Proof/Machine/Dispatch.lean ====
section
/-!
DEFINITION. One arm per command: a direct call of its meaning, or a rejection by name.
-/

namespace Sys2Proof.Machine

/-- The effect of a command on everything but the queue. -/
def exec (i : Instr) (s : State) : Host.Outcome State Fault Refusal :=
  match i with
  | .frameTick f => Sys2Proof.Machine.execFrameTick f s
  | .sentinelWatchdogExpire => Sys2Proof.Machine.execSentinelWatchdogExpire s
  | .disciplineWindowEnd count => Sys2Proof.Machine.execDisciplineWindowEnd count s
  | .xtalFail => Sys2Proof.Machine.execXtalFail s
  | .xtalRestored => Sys2Proof.Machine.execXtalRestored s
  | .frameWrap => Sys2Proof.Machine.execFrameWrap s
  | .frmTsLoRead fn => Sys2Proof.Machine.execFrmTsLoRead fn s
  | .ovrClr => Sys2Proof.Machine.execOvrClr s
  | .phmaxClr => Sys2Proof.Machine.execPhmaxClr s
  | .sequenceStart => Sys2Proof.Machine.execSequenceStart s
  | .railEnable => Sys2Proof.Machine.execRailEnable s
  | .riseTimeout => Sys2Proof.Machine.execRiseTimeout s
  | .coolDownEnd => Sys2Proof.Machine.execCoolDownEnd s
  | .railDeassert => Sys2Proof.Machine.execRailDeassert s
  | .fallTimeout => Sys2Proof.Machine.execFallTimeout s
  | .swarmAdvance => Sys2Proof.Machine.execSwarmAdvance s
  | .swarmCatchup => Sys2Proof.Machine.execSwarmCatchup s
  | .swarmResync => Sys2Proof.Machine.execSwarmResync s
  | .swarmInvalidPulse => Sys2Proof.Machine.execSwarmInvalidPulse s
  | .swarmBeacon value own => Sys2Proof.Machine.execSwarmBeacon value own s
  | .joinTimeout => Sys2Proof.Machine.execJoinTimeout s
  | .nobeacon => Sys2Proof.Machine.execNobeacon s
  | .swarmRelease => Sys2Proof.Machine.execSwarmRelease s
  | .leaderAdvancePulse => Sys2Proof.Machine.execLeaderAdvancePulse s
  | .leaderResyncPulse => Sys2Proof.Machine.execLeaderResyncPulse s
  | .leaderBeaconSend => Sys2Proof.Machine.execLeaderBeaconSend s
  | .swarmStuck => Sys2Proof.Machine.execSwarmStuck s
  | .swctlResync => Sys2Proof.Machine.execSwctlResync s
  | .swctlRejoin => Sys2Proof.Machine.execSwctlRejoin s
  | .railctlRetry n => Sys2Proof.Machine.execRailctlRetry n s
  | .railFault n cause => Sys2Proof.Machine.execRailFault n cause s
  | .pfwLeadEnd => Sys2Proof.Machine.execPfwLeadEnd s
  | .busbarPresent => Sys2Proof.Machine.execBusbarPresent s
  | .busbarAbsent => Sys2Proof.Machine.execBusbarAbsent s
  | .hsChargeStart => Sys2Proof.Machine.execHsChargeStart s
  | .hsFullyEnhanced => Sys2Proof.Machine.execHsFullyEnhanced s
  | .inrushTmo => Sys2Proof.Machine.execInrushTmo s
  | .overcurrent => Sys2Proof.Machine.execOvercurrent s
  | .hsShort ma => Sys2Proof.Machine.execHsShort ma s
  | .soaTrip mj => Sys2Proof.Machine.execSoaTrip mj s
  | .reverseCurrent ma => Sys2Proof.Machine.execReverseCurrent ma s
  | .hsctlClr => Sys2Proof.Machine.execHsctlClr s
  | .interlockTrip mj => Sys2Proof.Machine.execInterlockTrip mj s
  | .shelfChange fail => Sys2Proof.Machine.execShelfChange fail s
  | .rideThroughEnd => Sys2Proof.Machine.execRideThroughEnd s
  | .dischargeStart => Sys2Proof.Machine.execDischargeStart s
  | .disFail => Sys2Proof.Machine.execDisFail s
  | .cocOvercap mv => Sys2Proof.Machine.execCocOvercap mv s
  | .onCocoon => Sys2Proof.Machine.execOnCocoon s
  | .collapse mv => Sys2Proof.Machine.execCollapse mv s
  | .snapshotWrite bad => Sys2Proof.Machine.execSnapshotWrite bad s
  | .diodeConversion uv temp tempCal => Sys2Proof.Machine.execDiodeConversion uv temp tempCal s
  | .thmFailClr => Sys2Proof.Machine.execThmFailClr s
  | .thmRemoteWrite p r v => Sys2Proof.Machine.execThmRemoteWrite p r v s
  | .srcStale r => Sys2Proof.Machine.execSrcStale r s
  | .almstatClear mask => Sys2Proof.Machine.execAlmstatClear mask s
  | .reservationLapse => Sys2Proof.Machine.execReservationLapse s
  | .lockstepMismatch => Sys2Proof.Machine.execLockstepMismatch s
  | .coreStartTimeout => Sys2Proof.Machine.execCoreStartTimeout s
  | .serviceSlotVerify img => Sys2Proof.Machine.execServiceSlotVerify img s
  | .slotTimeout => Sys2Proof.Machine.execSlotTimeout s
  | .mailboxRequest r => Sys2Proof.Machine.execMailboxRequest r s
  | .mailboxServe => Sys2Proof.Machine.execMailboxServe s
  | .heartbeatPost v => Sys2Proof.Machine.execHeartbeatPost v s
  | .heartbeatLost => Sys2Proof.Machine.execHeartbeatLost s
  | .hbRestartsClear => Sys2Proof.Machine.execHbRestartsClear s
  | .authVerify => Sys2Proof.Machine.execAuthVerify s
  | .authAttemptTimeout => Sys2Proof.Machine.execAuthAttemptTimeout s
  | .authExpire => Sys2Proof.Machine.execAuthExpire s
  | .authLockEnd => Sys2Proof.Machine.execAuthLockEnd s
  | .stagedRegisterWrite o off v => Sys2Proof.Machine.execStagedRegisterWrite o off v s
  | .chrCtlCheck who => Sys2Proof.Machine.execChrCtlCheck who s
  | .chrCtlCommit who => Sys2Proof.Machine.execChrCtlCommit who s
  | .chrCtlDiscard who => Sys2Proof.Machine.execChrCtlDiscard who s
  | .commitTake => Sys2Proof.Machine.execCommitTake s
  | .commitApply => Sys2Proof.Machine.execCommitApply s
  | .recordWrite stream bad => Sys2Proof.Machine.execRecordWrite stream bad s
  | .jnlReadSelect ofs v => Sys2Proof.Machine.execJnlReadSelect ofs v s
  | .linkUp p rate x2 => Sys2Proof.Machine.execLinkUp p rate x2 s
  | .hotReset p => Sys2Proof.Machine.execHotReset p s
  | .dlDown p => Sys2Proof.Machine.execDlDown p s
  | .failover p => Sys2Proof.Machine.execFailover p s
  | .perstAssert p => Sys2Proof.Machine.execPerstAssert p s
  | .pmeTurnOff p => Sys2Proof.Machine.execPmeTurnOff p s
  | .viOrphan p fn d3 => Sys2Proof.Machine.execViOrphan p fn d3 s
  | .viServed p fn cfg => Sys2Proof.Machine.execViServed p fn cfg s
  | .badAccess p fn bar2 off write => Sys2Proof.Machine.execBadAccess p fn bar2 off write s
  | .unboundAccess p v write => Sys2Proof.Machine.execUnboundAccess p v write s
  | .invalidationRequest p fn pasid lo hi => Sys2Proof.Machine.execInvalidationRequest p fn pasid lo hi s
  | .invalidationComplete p fn => Sys2Proof.Machine.execInvalidationComplete p fn s
  | .translationFault g addr write => Sys2Proof.Machine.execTranslationFault g addr write s
  | .pageRequestResponse g ok => Sys2Proof.Machine.execPageRequestResponse g ok s
  | .priTimeout g => Sys2Proof.Machine.execPriTimeout g s
  | .vfFlr p v => Sys2Proof.Machine.execVfFlr p v s
  | .pfFlr p => Sys2Proof.Machine.execPfFlr p s
  | .smbIdentity => Sys2Proof.Machine.execSmbIdentity s
  | .smbPowerState => Sys2Proof.Machine.execSmbPowerState s
  | .smbSeqState => Sys2Proof.Machine.execSmbSeqState s
  | .smbEnergy => Sys2Proof.Machine.execSmbEnergy s
  | .smbThermal => Sys2Proof.Machine.execSmbThermal s
  | .smbTimestamp => Sys2Proof.Machine.execSmbTimestamp s
  | .smbFaults => Sys2Proof.Machine.execSmbFaults s
  | .smbLastEvent => Sys2Proof.Machine.execSmbLastEvent s
  | .smbUnsupported cmd => Sys2Proof.Machine.execSmbUnsupported cmd s
  | .setEndpointId eid pec => Sys2Proof.Machine.execSetEndpointId eid pec s
  | .getEndpointId pec => Sys2Proof.Machine.execGetEndpointId pec s
  | .getMctpVersionSupport ty pec => Sys2Proof.Machine.execGetMctpVersionSupport ty pec s
  | .getMessageTypeSupport pec => Sys2Proof.Machine.execGetMessageTypeSupport pec s
  | .getVersion c => Sys2Proof.Machine.execGetVersion c s
  | .getCapabilities c req => Sys2Proof.Machine.execGetCapabilities c req s
  | .negotiateAlgorithms c req => Sys2Proof.Machine.execNegotiateAlgorithms c req s
  | .getDigests c req => Sys2Proof.Machine.execGetDigests c req s
  | .getCertificate c req => Sys2Proof.Machine.execGetCertificate c req s
  | .challenge c req => Sys2Proof.Machine.execChallenge c req s
  | .getMeasurements c req => Sys2Proof.Machine.execGetMeasurements c req s
  | .spdmUnsupported c req => Sys2Proof.Machine.execSpdmUnsupported c req s
  | .smbcfgWrite p v => Sys2Proof.Machine.execSmbcfgWrite p v s
  | .ringEnable r => Sys2Proof.Machine.execRingEnable r s
  | .ringDisable r => Sys2Proof.Machine.execRingDisable r s
  | .ringDrained r => Sys2Proof.Machine.execRingDrained r s
  | .sqDoorbell r v => Sys2Proof.Machine.execSqDoorbell r v s
  | .cqDoorbell r v => Sys2Proof.Machine.execCqDoorbell r v s
  | .entryFetch entries => Sys2Proof.Machine.execEntryFetch entries s
  | .fetchBusError => Sys2Proof.Machine.execFetchBusError s
  | .coalesceTimeout r => Sys2Proof.Machine.execCoalesceTimeout r s
  | .evDoorbell v => Sys2Proof.Machine.execEvDoorbell v s
  | .evsizeWrite v => Sys2Proof.Machine.execEvsizeWrite v s
  | .nop t => Sys2Proof.Machine.execNop t s
  | .identify t => Sys2Proof.Machine.execIdentify t s
  | .getTime t => Sys2Proof.Machine.execGetTime t s
  | .abort t => Sys2Proof.Machine.execAbort t s
  | .setEvmask t => Sys2Proof.Machine.execSetEvmask t s
  | .stageWrite t => Sys2Proof.Machine.execStageWrite t s
  | .stageBulk t data => Sys2Proof.Machine.execStageBulk t data s
  | .stageList t => Sys2Proof.Machine.execStageList t s
  | .check t => Sys2Proof.Machine.execCheck t s
  | .commit t => Sys2Proof.Machine.execCommit t s
  | .discard t => Sys2Proof.Machine.execDiscard t s
  | .grantSet t => Sys2Proof.Machine.execGrantSet t s
  | .powerOn t => Sys2Proof.Machine.execPowerOn t s
  | .powerOff t => Sys2Proof.Machine.execPowerOff t s
  | .railRetry t => Sys2Proof.Machine.execRailRetry t s
  | .swarmCtl t => Sys2Proof.Machine.execSwarmCtl t s
  | .quiesce t => Sys2Proof.Machine.execQuiesce t s
  | .resume t => Sys2Proof.Machine.execResume t s
  | .hsClear t => Sys2Proof.Machine.execHsClear t s
  | .snapshot t => Sys2Proof.Machine.execSnapshot t s
  | .stateReq t => Sys2Proof.Machine.execStateReq t s
  | .scStart t => Sys2Proof.Machine.execScStart t s
  | .scHalt t same => Sys2Proof.Machine.execScHalt t same s
  | .scResumeAt t => Sys2Proof.Machine.execScResumeAt t s
  | .scSuspend t same => Sys2Proof.Machine.execScSuspend t same s
  | .scResume t => Sys2Proof.Machine.execScResume t s
  | .scStatus t => Sys2Proof.Machine.execScStatus t s
  | .cchInval t => Sys2Proof.Machine.execCchInval t s
  | .cchDrain t => Sys2Proof.Machine.execCchDrain t s
  | .dcStart t => Sys2Proof.Machine.execDcStart t s
  | .dcAbort t same => Sys2Proof.Machine.execDcAbort t same s
  | .dcSuspend t same => Sys2Proof.Machine.execDcSuspend t same s
  | .dcResume t => Sys2Proof.Machine.execDcResume t s
  | .dcStatus t => Sys2Proof.Machine.execDcStatus t s
  | .bmvRestart t => Sys2Proof.Machine.execBmvRestart t s
  | .cardOpen t => Sys2Proof.Machine.execCardOpen t s
  | .cardClose t => Sys2Proof.Machine.execCardClose t s
  | .cardApdu t data => Sys2Proof.Machine.execCardApdu t data s
  | .cardExcl t => Sys2Proof.Machine.execCardExcl t s
  | .cardActivate t => Sys2Proof.Machine.execCardActivate t s
  | .cardDeactivate t => Sys2Proof.Machine.execCardDeactivate t s
  | .cardGetAtr t => Sys2Proof.Machine.execCardGetAtr t s
  | .cardSelftest t res => Sys2Proof.Machine.execCardSelftest t res s
  | .lampSet t => Sys2Proof.Machine.execLampSet t s
  | .lampPattern t => Sys2Proof.Machine.execLampPattern t s
  | .lampStatus t => Sys2Proof.Machine.execLampStatus t s
  | .thmRead t => Sys2Proof.Machine.execThmRead t s
  | .remotePost t => Sys2Proof.Machine.execRemotePost t s
  | .alarmClear t => Sys2Proof.Machine.execAlarmClear t s
  | .diodeClear t => Sys2Proof.Machine.execDiodeClear t s
  | .adcConvert t => Sys2Proof.Machine.execAdcConvert t s
  | .ledgerRead t => Sys2Proof.Machine.execLedgerRead t s
  | .logRead t more => Sys2Proof.Machine.execLogRead t more s
  | .logBounds t => Sys2Proof.Machine.execLogBounds t s
  | .fwWrite t data err more => Sys2Proof.Machine.execFwWrite t data err more s
  | .fwErase t err more => Sys2Proof.Machine.execFwErase t err more s
  | .fwVerify t img => Sys2Proof.Machine.execFwVerify t img s
  | .fwPrefer t => Sys2Proof.Machine.execFwPrefer t s
  | .fwActivate t => Sys2Proof.Machine.execFwActivate t s
  | .fwCommit t => Sys2Proof.Machine.execFwCommit t s
  | .patchLoad t img => Sys2Proof.Machine.execPatchLoad t img s
  | .authOpen t => Sys2Proof.Machine.execAuthOpen t s
  | .authClose t => Sys2Proof.Machine.execAuthClose t s
  | .authStatus t => Sys2Proof.Machine.execAuthStatus t s
  | .keySet t data => Sys2Proof.Machine.execKeySet t data s
  | .keyRevoke t => Sys2Proof.Machine.execKeyRevoke t s
  | .measure t => Sys2Proof.Machine.execMeasure t s
  | .echo t => Sys2Proof.Machine.execEcho t s
  | .adcCal t => Sys2Proof.Machine.execAdcCal t s
  | .mramBist t => Sys2Proof.Machine.execMramBist t s
  | .scDoorbell who n => Sys2Proof.Machine.execScDoorbell who n s
  | .cceFetch n => Sys2Proof.Machine.execCceFetch n s
  | .cceNop n => Sys2Proof.Machine.execCceNop n s
  | .cceWait n ph1 => Sys2Proof.Machine.execCceWait n ph1 s
  | .waitEnd n => Sys2Proof.Machine.execWaitEnd n s
  | .ccePost n => Sys2Proof.Machine.execCcePost n s
  | .cceJump n => Sys2Proof.Machine.execCceJump n s
  | .cceWrite n => Sys2Proof.Machine.execCceWrite n s
  | .cceRead n => Sys2Proof.Machine.execCceRead n s
  | .cceControl n => Sys2Proof.Machine.execCceControl n s
  | .cceSense n lv => Sys2Proof.Machine.execCceSense n lv s
  | .portBurst x b => Sys2Proof.Machine.execPortBurst x b s
  | .chainCacheFill bytes err => Sys2Proof.Machine.execChainCacheFill bytes err s
  | .storeDrain => Sys2Proof.Machine.execStoreDrain s
  | .cchInvalAll => Sys2Proof.Machine.execCchInvalAll s
  | .cchCtlDrain => Sys2Proof.Machine.execCchCtlDrain s
  | .cchCntClr => Sys2Proof.Machine.execCchCntClr s
  | .dcDoorbell who n v => Sys2Proof.Machine.execDcDoorbell who n v s
  | .descriptorFetch n bytes => Sys2Proof.Machine.execDescriptorFetch n bytes s
  | .bmvBurstGrant => Sys2Proof.Machine.execBmvBurstGrant s
  | .bmvBurstRead n data err => Sys2Proof.Machine.execBmvBurstRead n data err s
  | .writeResponse n ok => Sys2Proof.Machine.execWriteResponse n ok s
  | .bmvEngineStop n timeout => Sys2Proof.Machine.execBmvEngineStop n timeout s
  | .domainPowerDown => Sys2Proof.Machine.execDomainPowerDown s
  | .domainDeadline => Sys2Proof.Machine.execDomainDeadline s
  | .corePowerLoss => Sys2Proof.Machine.execCorePowerLoss s
  | .flashBusyTimeout x => Sys2Proof.Machine.execFlashBusyTimeout x s
  | .asCharacterReceived x c bad brk => Sys2Proof.Machine.execAsCharacterReceived x c bad brk s
  | .asReadIdleEnd x => Sys2Proof.Machine.execAsReadIdleEnd x s
  | .ibiReceived x addr payload => Sys2Proof.Machine.execIbiReceived x addr payload s
  | .dpHotjoin x addr => Sys2Proof.Machine.execDpHotjoin x addr s
  | .gpioEdge g high => Sys2Proof.Machine.execGpioEdge g high s
  | .sfdpDiscovery c words badWord => Sys2Proof.Machine.execSfdpDiscovery c words badWord s
  | .cardInsert p => Sys2Proof.Machine.execCardInsert p s
  | .cardEmergency p => Sys2Proof.Machine.execCardEmergency p s
  | .cardSupplyFault p short => Sys2Proof.Machine.execCardSupplyFault p short s
  | .cardAtr p chars parity gap => Sys2Proof.Machine.execCardAtr p chars parity gap s
  | .cardAtrWindowEnd p => Sys2Proof.Machine.execCardAtrWindowEnd p s
  | .cardClassNext p => Sys2Proof.Machine.execCardClassNext p s
  | .cardPpsResponse p resp => Sys2Proof.Machine.execCardPpsResponse p resp s
  | .cardWaitTimeout p => Sys2Proof.Machine.execCardWaitTimeout p s
  | .cardClockStop p => Sys2Proof.Machine.execCardClockStop p s
  | .cardExclExpired p => Sys2Proof.Machine.execCardExclExpired p s
  | .lampPeriodStart => Sys2Proof.Machine.execLampPeriodStart s
  | .lampDiagSample c ua mv => Sys2Proof.Machine.execLampDiagSample c ua mv s
  | .lampDiagStale c => Sys2Proof.Machine.execLampDiagStale c s
  | .lampClr c => Sys2Proof.Machine.execLampClr c s
  | .coldReset c => Sys2Proof.Machine.execColdReset c s
  | .resetNLow => Sys2Proof.Machine.execResetNLow s
  | .resetNLong => Sys2Proof.Machine.execResetNLong s
  | .rstCtlWarm => Sys2Proof.Machine.execRstCtlWarm s
  | .rstCtlCore => Sys2Proof.Machine.execRstCtlCore s
  | .warmAdopt => Sys2Proof.Machine.execWarmAdopt s
  | .wakeEvent src => Sys2Proof.Machine.execWakeEvent src s
  | .vaultEnter => Sys2Proof.Machine.execVaultEnter s
  | .tamper high => Sys2Proof.Machine.execTamper high s
  | .vaultWake => Sys2Proof.Machine.execVaultWake s
  | .registerWrite who off v => Sys2Proof.Machine.execRegisterWrite who off v s
  | .vbatLoss => Sys2Proof.Machine.execVbatLoss s
  | .vbatFitted => Sys2Proof.Machine.execVbatFitted s
  | .rtcCrystalStop => Sys2Proof.Machine.execRtcCrystalStop s
  | .swarmBeaconGap => Sys2Proof.Machine.execSwarmBeaconGap s
  | .coreStarted cfgOk itemOk vdd08 vio18 vio33 => Sys2Proof.Machine.execCoreStarted cfgOk itemOk vdd08 vio18 vio33 s
  | .completionTimeout g addr => Sys2Proof.Machine.execCompletionTimeout g addr s
  | .resetNRelease => Sys2Proof.Machine.execResetNRelease s
  | .cardSupplySettled p => Sys2Proof.Machine.execCardSupplySettled p s
  | .cardRstRelease p => Sys2Proof.Machine.execCardRstRelease p s
  | .cardResponseReceived p chars parity => Sys2Proof.Machine.execCardResponseReceived p chars parity s
  | .pbBusIdle x => Sys2Proof.Machine.execPbBusIdle x s
  | .asCtsChange x high => Sys2Proof.Machine.execAsCtsChange x high s
  | .captureRead fn pr => Sys2Proof.Machine.execCaptureRead fn pr s

end Sys2Proof.Machine
end

