-- ==== Sys2Proof/Machine/Step.lean ====
section
/-!
DEFINITION. The step: the command at the front of the queue runs on the state with the rest of the queue; on an empty queue the
block idles.
-/

namespace Sys2Proof.Machine

/-- `s` with command `c` at the front of its queue.
(Log: DESIGN CHOICE 1) -/
def State.push (s : State) (c : Instr) : State := { s with pending := c :: s.pending }

/-- One step of the block.
(Log: DESIGN CHOICE 1, 2) -/
def step (s : State) : Host.Outcome State Fault Refusal :=
  match s.pending with
  | c :: rest => exec c { s with pending := rest }
  | [] => .next s

/-- `s` with the command that a word spells in front; unchanged where it spells none.
(Log: DESIGN CHOICE 1) -/
def State.withFetchWord (s : State) (nbits w : Nat) : State :=
  match decodeTableWord nbits w with
  | some c => s.push c
  | none => s

end Sys2Proof.Machine
end

