-- ==== Sys2Proof/Safety.lean ====
section
/-!
DEFINITION. What counts as a sound state: the register file, exchange memory and the store's MRAM in their canonical form.
-/

namespace Sys2Proof

/-- The register file is in canonical form: keys rise strictly and no entry equals what an unlisted register holds. -/
def Machine.regsWf (s : Machine.State) : Bool := Machine.cellWf Machine.resetWord s.regs

/-- Exchange memory is in canonical form: keys rise strictly and no entry is 0. -/
def Machine.xmemWf (s : Machine.State) : Bool := Machine.cellWf (fun _ => (0 : Byte)) s.bmv.xmem

/-- The MRAM of the store is in canonical form: keys rise strictly and no entry is 0. -/
def Machine.mramWf (s : Machine.State) : Bool := Machine.cellWf (fun _ => (0 : Byte)) s.st.mem

/-- The canonical form of everything that is kept as sparse cells. -/
def Machine.Sound (s : Machine.State) : Prop :=
  Machine.regsWf s = true ∧ Machine.xmemWf s = true ∧ Machine.mramWf s = true

end Sys2Proof
end

