-- ==== Sys2Proof/Claims.lean ====
section
/-!
DEFINITION. The terms the statements use: a ring's command that starts, the answer it gets, and the units of the blocks.
-/

namespace Sys2Proof.Machine

/-- The command with tag `t` may start as opcode `op` and none of the opcode table's checks fails (R233, R239): `c` is the
command and `u` the state once it has started. -/
def Starts (s : State) (t : Tag) (op : Nat) (c : Cmd) (u : State) : Prop :=
  ∃ d, s.cmd t = some d ∧ d.entry.op.toNat = op ∧ s.mayRun d = true ∧ (s.hst.pri.any fun q => q.tgt == .buf t) = false ∧
    s.cmdCheck d.ring d.entry = none ∧ c = { d with st := .running } ∧ u = s.begin t op

/-- The command with tag `t` completes with a status, RESULT and AUX. -/
def answered (u : State) (t : Tag) (status result aux : Nat) : State := (u.complete t status result aux).mbxShow

/-- Every block has its units: 24 rail slots, 8 lamps, 32 subchannels, 13 device ports, 16 channels, 2 card ports and 18 ring
pairs. -/
def Whole (s : State) : Prop :=
  s.rails.length = 24 ∧ s.lamps.length = 8 ∧ s.cpe.length = 32 ∧ s.dpt.ports.length = 13 ∧ s.bmv.chans.length = 16 ∧
    s.crd.ports.length = 2 ∧ s.rng.rings.length = 18

/-- Is a cached line within a scope of Table 11-1 for an issuer of code `o` and an address `a`? -/
def InScope (scope o a : Nat) (l : Line) : Prop :=
  (scope = 0 ∧ (o = 16 ∨ l.owner = o)) ∨ (scope = 1 ∧ l.owner = o) ∨ (scope = 2 ∧ l.owner = o ∧ l.base / 64 = a / 64) ∨
    (scope = 3 ∧ l.owner = o ∧ l.base / 4096 = a / 4096)

/-- The command of the ring interface that a constructor runs, and its opcode in Table 9-6. -/
def ringCmd : Instr → Option (Tag × Nat)
  | .nop t => some (t, 0x00)
  | .identify t => some (t, 0x01)
  | .getTime t => some (t, 0x02)
  | .abort t => some (t, 0x03)
  | .setEvmask t => some (t, 0x04)
  | .stageWrite t => some (t, 0x10)
  | .stageBulk t _ => some (t, 0x11)
  | .stageList t => some (t, 0x12)
  | .check t => some (t, 0x13)
  | .commit t => some (t, 0x14)
  | .discard t => some (t, 0x15)
  | .grantSet t => some (t, 0x16)
  | .powerOn t => some (t, 0x20)
  | .powerOff t => some (t, 0x21)
  | .railRetry t => some (t, 0x22)
  | .swarmCtl t => some (t, 0x23)
  | .quiesce t => some (t, 0x24)
  | .resume t => some (t, 0x25)
  | .hsClear t => some (t, 0x26)
  | .snapshot t => some (t, 0x27)
  | .stateReq t => some (t, 0x28)
  | .scStart t => some (t, 0x30)
  | .scHalt t _ => some (t, 0x31)
  | .scResumeAt t => some (t, 0x32)
  | .scSuspend t _ => some (t, 0x33)
  | .scResume t => some (t, 0x34)
  | .scStatus t => some (t, 0x35)
  | .cchInval t => some (t, 0x36)
  | .cchDrain t => some (t, 0x37)
  | .dcStart t => some (t, 0x40)
  | .dcAbort t _ => some (t, 0x41)
  | .dcSuspend t _ => some (t, 0x42)
  | .dcResume t => some (t, 0x43)
  | .dcStatus t => some (t, 0x44)
  | .bmvRestart t => some (t, 0x45)
  | .cardOpen t => some (t, 0x50)
  | .cardClose t => some (t, 0x51)
  | .cardApdu t _ => some (t, 0x52)
  | .cardExcl t => some (t, 0x53)
  | .cardActivate t => some (t, 0x54)
  | .cardDeactivate t => some (t, 0x55)
  | .cardGetAtr t => some (t, 0x56)
  | .cardSelftest t _ => some (t, 0x57)
  | .lampSet t => some (t, 0x60)
  | .lampPattern t => some (t, 0x61)
  | .lampStatus t => some (t, 0x62)
  | .thmRead t => some (t, 0x70)
  | .remotePost t => some (t, 0x71)
  | .alarmClear t => some (t, 0x72)
  | .diodeClear t => some (t, 0x73)
  | .adcConvert t => some (t, 0x74)
  | .ledgerRead t => some (t, 0x75)
  | .logRead t _ => some (t, 0x80)
  | .logBounds t => some (t, 0x81)
  | .fwWrite t _ _ _ => some (t, 0x90)
  | .fwErase t _ _ => some (t, 0x91)
  | .fwVerify t _ => some (t, 0x92)
  | .fwPrefer t => some (t, 0x93)
  | .fwActivate t => some (t, 0x94)
  | .fwCommit t => some (t, 0x95)
  | .patchLoad t _ => some (t, 0x96)
  | .authOpen t => some (t, 0xA0)
  | .authClose t => some (t, 0xA1)
  | .authStatus t => some (t, 0xA2)
  | .keySet t _ => some (t, 0xA3)
  | .keyRevoke t => some (t, 0xA4)
  | .measure t => some (t, 0xA5)
  | .echo t => some (t, 0xF0)
  | .adcCal t => some (t, 0xF1)
  | .mramBist t => some (t, 0xF2)
  | _ => none

end Sys2Proof.Machine
end

