-- ==== Sys2Proof/Certificates/Slice0/Obligations.lean ====
section
/-!
DEFINITION. The statements for the provers, in the terms of the spec's rules.
A group statement says of each command, under conditions on state and operands alone, which next state it answers.
-/

open Sys2Proof Sys2Proof.Machine

/-- NOP, ECHO, GET_TIME and SET_EVMASK complete with status 0 and the RESULT and AUX of Table 9-6: NOP's are 0, ECHO's its
first two parameters, GET_TIME's the timestamp, SET_EVMASK's RESULT the mask before. -/
def Obligations.GeneralCommandsComplete : Prop :=
  (∀ s t c u, Starts s t 0x00 c u → exec (.nop t) s = .next (answered u t 0x00 0 0)) ∧
  (∀ s t c u, Starts s t 0xF0 c u → exec (.echo t) s = .next (answered u t 0x00 (c.p 0) (c.p 1))) ∧
  (∀ s t c u, Starts s t 0x02 c u →
    exec (.getTime t) s = .next (answered u.touch t 0x00 (u.touch.now % 2 ^ 32) (u.touch.now / 2 ^ 32))) ∧
  (∀ s t c u, Starts s t 0x04 c u →
    exec (.setEvmask t) s = .next (answered (u.put RNG_EVMASK_MASK (c.p 0)) t 0x00 (u.get RNG_EVMASK_MASK) 0))

/-- IDENTIFY and ABORT. IDENTIFY writes the 256 bytes of Table 9-8 to its buffer: among them GLB_DEVID at 0x00, the structure
version 1 at 0x1C, the card sessions permitted at 0x33 (bit p for CPp: both for the Owner, CP0 by permission for a VI), the
origin code at 0x34 and the bound port at 0x35. ABORT: a command that has not started completes with 0x61; a QUIESCE, LOG_READ,
FW_WRITE, FW_ERASE or waiting POWER_OFF that runs completes with 0x60 and its residue; one that is not abortable is left, and
the ABORT completes with 0x28; an ABORT that names no command completes with 0x27. Rules they follow: R242, R244. -/
def Obligations.IdentifyAndAbortComplete : Prop :=
  (∀ s t c u, Starts s t 0x01 c u →
    exec (.identify t) s = .next (u.doneBuf t (u.identity c) 0 0).mbxShow ∧ (u.identity c).length = 256 ∧
    leAt (u.identity c) 0x00 4 = (u.reg 0x0).toNat ∧ leAt (u.identity c) 0x1C 4 = 1 ∧
    leAt (u.identity c) 0x33 1 = (match c.who with
      | none => 3
      | some v => b2n (bitOf (u.get CRD_VIPERM_VIS) v.val)) ∧
    leAt (u.identity c) 0x34 1 = c.origin.code % 256 ∧ leAt (u.identity c) 0x35 1 = (u.portOf c.who).num) ∧
  (∀ s t c u, Starts s t 0x03 c u → (∀ r, abortRing c.ring (c.p 0) = some r →
      ∀ d ∈ u.rng.cmds, d.ring = r → d.entry.cid.toNat ≠ c.p 1) →
    exec (.abort t) s = .next (answered u t 0x27 0 0)) ∧
  (∀ s t c u r d, Starts s t 0x03 c u → abortRing c.ring (c.p 0) = some r →
      (u.rng.cmds.find? fun x => x.ring == r && x.entry.cid.toNat == c.p 1) = some d → d.tag ≠ t → d.st ≠ .running →
    exec (.abort t) s = .next (answered (u.complete d.tag 0x61 0 0) t 0x00 0 0)) ∧
  (∀ s t c u r d v k, Starts s t 0x03 c u → abortRing c.ring (c.p 0) = some r →
      (u.rng.cmds.find? fun x => x.ring == r && x.entry.cid.toNat == c.p 1) = some d → d.tag ≠ t → d.st = .running →
      (d.entry.op.toNat ∈ [0x24, 0x80, 0x90, 0x91] ∨ (d.entry.op.toNat = 0x21 ∧ bitOf (d.p 0) 0 = true)) →
      u.cmdResidue d = (v, k) →
    exec (.abort t) s = .next (answered (v.complete d.tag 0x60 0 k).freeSP0 t 0x00 0 0)) ∧
  (∀ s t c u r d, Starts s t 0x03 c u → abortRing c.ring (c.p 0) = some r →
      (u.rng.cmds.find? fun x => x.ring == r && x.entry.cid.toNat == c.p 1) = some d → d.tag ≠ t → d.st = .running →
      d.entry.op.toNat ∉ [0x20, 0x21, 0x24, 0x52, 0x80, 0x90, 0x91, 0xF1] →
    exec (.abort t) s = .next (answered u t 0x28 0 0))

/-- STAGE_WRITE, STAGE_BULK, STAGE_LIST, CHECK, COMMIT, DISCARD and GRANT_SET: the triples go to the issuing owner's stage
one by one, a check answers 0x15 with the failing rule, and a commit waits for Sentinel. Rules they follow: R167, R169,
R171, R172, R174, R241, R322. -/
def Obligations.StagingCommandsComplete : Prop :=
  (∀ s t c u v n st, Starts s t 0x10 c u →
      u.stageRun c.origin c.who ((upTo (min 3 (c.p 9))).map fun i => stageTriple c.entry i) = (v, n, st) →
    exec (.stageWrite t) s = .next (answered v t st n 0)) ∧
  (∀ s t data c u v n st, Starts s t 0x11 c u → c.entry.len.toNat / 12 ≤ 256 →
      (u.hostRd c.who c.entry.buf.toNat (12 * (c.entry.len.toNat / 12))).stageRun c.origin c.who
        (bulkTriples data (c.entry.len.toNat / 12)) = (v, n, st) →
    exec (.stageBulk t data) s = .next (answered v t st n n)) ∧
  (∀ s t c u, Starts s t 0x12 c u →
    exec (.stageList t) s = .next (u.doneBuf t (((u.stage c.who).slots.map fun x =>
      leBytes 4 x.off ++ leBytes 4 x.mask.toNat ++ leBytes 4 x.value.toNat).flatten) (u.stage c.who).slots.length 0).mbxShow) ∧
  (∀ s t c u, Starts s t 0x13 c u → u.checkStage c.who = none →
    exec (.check t) s = .next (answered (u.checkShow c.who none) t 0x00 0 0)) ∧
  (∀ s t c u r, Starts s t 0x13 c u → u.checkStage c.who = some r →
    exec (.check t) s = .next (answered (u.checkShow c.who (some r)) t 0x15 (ruleWord r) 0)) ∧
  (∀ s t c u, Starts s t 0x14 c u →
    exec (.commit t) s = .next (u.commitAsk ⟨c.who, c.origin, .cmd t.toNat, none, 0⟩).mbxShow) ∧
  (∀ s t c u v n st, Starts s t 0x15 c u → u.discardStage c.who = (v, st, n) →
    exec (.discard t) s = .next (answered v t st n 0)) ∧
  (∀ s t c u, Starts s t 0x16 c u →
    exec (.grantSet t) s =
      .next (u.commitAsk ⟨none, c.origin, .cmd t.toNat, some [fieldSlot SUP_GRANT_W (c.p 0)], 0⟩).mbxShow)

/-- POWER_ON, POWER_OFF, RAIL_RETRY, SWARM_CTL, HS_CLEAR, SNAPSHOT, STATE_REQ, QUIESCE, RESUME and MRAM_BIST. Rules they
follow: R55, R61, R63, R67, R69, R70, R77, R84, R108, R128, R332, R415, R418. -/
def Obligations.PowerCommandsComplete : Prop :=
  (∀ s t c u, Starts s t 0x20 c u → (u.get PSQ_SEQSTAT_STATE = seqDOWN ∨ u.get PSQ_SEQSTAT_STATE = seqCOOL) →
    exec (.powerOn t) s = .next (answered u t 0x21 0 0)) ∧
  (∀ s t c u, Starts s t 0x20 c u → Sound u → u.get PSQ_SEQSTAT_STATE = seqOFF →
      u.on PSQ_SEQCFG_SRC = false → u.get SUP_HSSTAT_STATE ≠ hsHELD →
    exec (.powerOn t) s = .next
      ({ u.put PSQ_SEQSTAT_RETRY 0 with seq := { u.seq with powerOn := true } } : State).mbxShow) ∧
  (∀ s t c u, Starts s t 0x21 c u → u.get PSQ_SEQSTAT_STATE = seqON →
    exec (.powerOff t) s = .next
      (((({ u with seq := { u.seq with byCommand := true, teardown := false } } : State).shutdown (fun _ => true) 1).pollPowerOff
        c).mbxShow)) ∧
  (∀ s t c u, Starts s t 0x22 c u → exec (.railRetry t) s = .next (answered (u.retryRail (c.p 0)) t 0x00 0 0)) ∧
  (∀ s t c u, Starts s t 0x23 c u → c.p 0 = 1 → exec (.swarmCtl t) s = .next (answered u.swResyncReq t 0x00 0 0)) ∧
  (∀ s t c u, Starts s t 0x23 c u → c.p 0 ≠ 1 → exec (.swarmCtl t) s = .next (answered u.swRejoinReq t 0x00 0 0)) ∧
  (∀ s t c u, Starts s t 0x26 c u → exec (.hsClear t) s = .next (answered u.hsClear t 0x00 0 0)) ∧
  (∀ s t c u, Starts s t 0x27 c u → bitOf (u.get SUP_SNAPCFG_TRIG) 6 = true → u.snapBusy = false →
    exec (.snapshot t) s = .next
      ({ u with sup := { u.sup with snapReq := some (0, 0, some t.toNat) } } : State).mbxShow) ∧
  (∀ s t c u, Starts s t 0x28 c u → c.p 0 = 0 → exec (.stateReq t) s = .next (answered u t 0x00 0 0)) ∧
  (∀ s t c u, Starts s t 0x28 c u → c.p 0 = 1 → u.rst.downFor = none → (∀ v, u.viEn (some v) = false) →
    exec (.stateReq t) s = .next
      ({ u with rst := { u.rst with downFor := some (.state 1 (bitOf (c.p 1) 0) 0 t) } } : State).mbxShow) ∧
  (∀ s t c u v, Starts s t 0x24 c u → v = (u.quietAdd (c.p 0, c.p 1)).modCmd t (fun x => { x with
      count := u.newHolds (c.p 0, c.p 1) }) →
    exec (.quiesce t) s = .next ((((v.holdAll 3 (some 0x55) (v.scIn (c.p 0, c.p 1)) (v.dcIn (c.p 0, c.p 1))).apdusRefuse
      (c.p 0, c.p 1)).storeDrainAll.pollQuiesce { c with count := u.newHolds (c.p 0, c.p 1) }).mbxShow)) ∧
  (∀ s t c u v, Starts s t 0x25 c u → v = u.quietEnd (c.p 0, c.p 1) →
    exec (.resume t) s = .next (answered (v.unholdAll 8 (v.scFree (c.p 0, c.p 1)) (v.dcFree (c.p 0, c.p 1))) t 0x00
      ((upTo 32).countP (v.scFree (c.p 0, c.p 1)) + (upTo 16).countP (v.dcFree (c.p 0, c.p 1))) 0)) ∧
  (∀ s t c u, Starts s t 0xF2 c u →
    exec (.mramBist t) s = .next (answered { u with snt := { u.snt with bistArmed := true } } t 0x00 0 0))

/-- SC_START, SC_HALT, SC_RESUME_AT, SC_SUSPEND, SC_RESUME, SC_STATUS, CCH_INVAL and CCH_DRAIN; a start of the subchannel
in the cycle of a halt or suspend completes with 0x61. Rules they follow: R243, R246, R263, R264, R269, R271, R283, R285, R329,
R330, R332. -/
def Obligations.ChainCommandsComplete : Prop :=
  (∀ s t c u, Starts s t 0x30 c u → u.on (CPE_SCCFG_EN (c.p 0)) = false →
    exec (.scStart t) s = .next (answered u t 0x22 0 0)) ∧
  (∀ s t c u, Starts s t 0x30 c u → u.on (CPE_SCCFG_EN (c.p 0)) = true → u.quieted (u.scOwner (c.p 0)) = false →
      (u.scSt (c.p 0) = scIDLE ∨ u.scSt (c.p 0) = scSTOPPED) →
    exec (.scStart t) s = .next (answered (((u.scArea (c.p 0) c).scBegin (c.p 0) (paramAddr c.entry 1)).scClaimed (c.p 0)) t
      0x00 (u.get (CPE_SCSEQ_SEQ (c.p 0))) 0)) ∧
  (∀ s t same c u v, Starts s t 0x31 c u → v = u.scLost t (c.p 0) same →
    exec (.scHalt t same) s = .next (answered ((v.scPriDrop (c.p 0)).scHalt (c.p 0)) t 0x00 0 0)) ∧
  (∀ (u : State) t n w d, u.cmd w = some d → d.entry.op.toNat ∈ scStarts → d.p 0 = n → u.mayRun d = true →
      u.cmdCheck d.ring d.entry = none → u.scLost t n (some (.cmd w)) = u.complete w 0x61 0 0) ∧
  (∀ s t c u, Starts s t 0x32 c u → u.on (CPE_SCCFG_EN (c.p 0)) = true →
      u.on (CPE_SCSTAT0_SSR_FAIL (c.p 0)) = false → u.scSt (c.p 0) ≠ scIDLE →
      scBusy (u.scSt (c.p 0)) = false →
      u.get (CPE_SCSTAT0_HOLDS (c.p 0)) &&& (127 - resumeMask c.who) = 0 →
    exec (.scResumeAt t) s = .next
      (answered (((u.put (CPE_SCSTAT0_HOLDS (c.p 0)) 0).scMove (c.p 0) (paramAddr c.entry 1)).scClaimed (c.p 0)) t 0x00 0 0)) ∧
  (∀ s t same c u v bit st, Starts s t 0x33 c u → v = u.scLost t (c.p 0) same →
      suspendHold c.who (v.scOwner (c.p 0)) = (bit, st) →
    exec (.scSuspend t same) s = .next (answered (v.scHold (c.p 0) bit st) t 0x00 0 0)) ∧
  (∀ s t c u, Starts s t 0x34 c u → u.on (CPE_SCCFG_EN (c.p 0)) = true → u.on (CPE_SCSTAT0_SSR_FAIL (c.p 0)) = false → u.scSt (c.p 0) = scSUSPENDED →
      (u.scUnhold (c.p 0) (resumeMask c.who)).scSt (c.p 0) ≠ scSUSPENDED →
    exec (.scResume t) s = .next (answered (u.scUnhold (c.p 0) (resumeMask c.who)) t 0x00 0 0)) ∧
  (∀ s t c u, Starts s t 0x35 c u →
    exec (.scStatus t) s = .next (answered u t 0x00 (u.scSt (c.p 0)) ((u.get (CPE_SCSEQ_SEQ (c.p 0)) + 65535) % 65536))) ∧
  (∀ s t c u v k, Starts s t 0x36 c u → u.cchInval (c.p 0) (whoCode c.who) (paramAddr c.entry 1) = (v, k) →
    exec (.cchInval t) s = .next (answered v t 0x00 k 0)) ∧
  (∀ s t c u, Starts s t 0x37 c u →
    exec (.cchDrain t) s = .next (answered u.storeDrainAll t 0x00 u.cch.stores.length 0))

/-- DC_START, DC_ABORT, DC_SUSPEND, DC_RESUME, DC_STATUS and BMV_RESTART. Rules they follow: R243, R290, R308, R309, R311,
R315, R317, R329, R330, R332. -/
def Obligations.MoverCommandsComplete : Prop :=
  (∀ s t c u, Starts s t 0x40 c u → u.on (BMV_DCCFG_EN (c.p 0)) = true → u.on BMV_STAT_ESTOP = false →
      u.quieted (u.dcOwner (c.p 0)) = false → (u.dcSt (c.p 0) = dcIDLE ∨ u.dcSt (c.p 0) = dcSTOPPED) →
    exec (.dcStart t) s = .next (answered (u.dcStart (c.p 0) c) t 0x00 0 0)) ∧
  (∀ s t c u, Starts s t 0x40 c u → u.on (BMV_DCCFG_EN (c.p 0)) = false →
    exec (.dcStart t) s = .next (answered u t 0x22 0 0)) ∧
  (∀ s t same c u w, Starts s t 0x41 c u → w = u.dcLost t (c.p 0) same → w.dcSt (c.p 0) = dcIDLE →
    exec (.dcAbort t same) s = .next (answered w t 0x00 0 0)) ∧
  (∀ s t same c u w, Starts s t 0x41 c u → w = u.dcLost t (c.p 0) same → w.dcSt (c.p 0) ≠ dcIDLE →
    exec (.dcAbort t same) s = .next (((w.dcPriDrop (c.p 0)).dcWait (c.p 0) t).dcBegin (c.p 0) .abort).mbxShow) ∧
  (∀ s t same c u w bit v, Starts s t 0x42 c u → w = u.dcLost t (c.p 0) same →
      suspendHold c.who (w.dcOwner (c.p 0)) = (bit, v) → w.dcSt (c.p 0) ≠ dcIDLE → w.dcSt (c.p 0) ≠ dcSTOPPED →
      w.dcSt (c.p 0) ≠ dcSUSPENDED →
    exec (.dcSuspend t same) s = .next ((w.dcWait (c.p 0) t).dcHold (c.p 0) bit v).mbxShow) ∧
  (∀ (u : State) t n w d, u.cmd w = some d → d.entry.op.toNat ∈ dcStarts → d.p 0 = n → u.mayRun d = true →
      u.cmdCheck d.ring d.entry = none → u.dcLost t n (some (.cmd w)) = u.complete w 0x61 0 0) ∧
  (∀ s t c u, Starts s t 0x43 c u → u.on (BMV_DCCFG_EN (c.p 0)) = true → u.on BMV_STAT_ESTOP = false →
      u.on (BMV_DCSTAT_CRQ_FAIL (c.p 0)) = false → u.dcSt (c.p 0) = dcTAIL →
    exec (.dcResume t) s = .next (answered (u.dcReread (c.p 0)) t 0x00 0 0)) ∧
  (∀ s t c u, Starts s t 0x43 c u → u.on (BMV_DCCFG_EN (c.p 0)) = true → u.on BMV_STAT_ESTOP = false →
      u.on (BMV_DCSTAT_CRQ_FAIL (c.p 0)) = false → u.dcSt (c.p 0) = dcSTOPPED →
    exec (.dcResume t) s = .next
      (answered ((u.modChan (c.p 0) fun x => { x with desc := none, tail := none, estop := false }).dcGo (c.p 0)) t 0x00 0
        0)) ∧
  (∀ s t c u, Starts s t 0x44 c u →
    exec (.dcStatus t) s = .next (answered u t 0x00 (u.dcSt (c.p 0)) (u.chan (c.p 0)).lastTag)) ∧
  (∀ s t c u l v, Starts s t 0x45 c u →
      l = ((upTo 16).filter fun n => bitOf (c.p 0) n && u.dcSt n == dcSTOPPED && (u.chan n).estop) →
      v = l.foldl (fun w n => (w.modChan n fun c => { c with desc := none, tail := none, estop := false }).dcGo n)
        ((u.put BMV_STAT_ESTOP 0).log 0x9005 0xFF [some (c.p 0)]) →
    exec (.bmvRestart t) s = .next (answered ((upTo 16).foldl (fun v n => v.dcKick n) v) t 0x00 l.length 0))

/-- CARD_OPEN, CARD_CLOSE, CARD_APDU, CARD_EXCL, CARD_ACTIVATE, CARD_DEACTIVATE, CARD_GET_ATR and CARD_SELFTEST. Rules they
follow: R332, R375, R383, R388 to R392, R394. -/
def Obligations.CardCommandsComplete : Prop :=
  (∀ s t c u v h, Starts s t 0x50 c u → u.on (CRD_PCFG0_EN (c.p 0)) = true → u.cdUp (c.p 0) = true →
      u.hasSession (c.p 0) c.who = false → c.who = none → u.sessMake (c.p 0) 0 none = (v, h) →
    exec (.cardOpen t) s = .next (answered v t 0x00 h 0)) ∧
  (∀ s t c u w, Starts s t 0x50 c u → u.on (CRD_PCFG0_EN (c.p 0)) = true → u.cdUp (c.p 0) = true →
      u.hasSession (c.p 0) c.who = false → c.who = some w →
      (u.crd.sess.countP fun x => x.port == c.p 0 && x.chan != 0) + 1 < (u.card (c.p 0)).chans →
    exec (.cardOpen t) s = .next
      ((u.modCard (c.p 0) fun x => { x with queue := x.queue ++ [(.open_ t w, [])] }).cdGo (c.p 0)).mbxShow) ∧
  (∀ s t c u x, Starts s t 0x51 c u → u.sessOf (c.p 0) = some x →
    exec (.cardClose t) s = .next
      ((u.modCard x.port fun y => { y with queue := y.queue ++ [(.close (some (t, x.handle)) x.chan, [])] }).cdGo
        x.port).mbxShow) ∧
  (∀ s t data c u x a, Starts s t 0x52 c u → u.sessOf (c.p 0) = some x → x.expired = false → u.apduOut x = false →
      u.quieted c.who = false →
      (u.hostRd c.who c.entry.buf.toNat (c.p 1)).apduFor x (fitTo (c.p 1) data) = .ok a →
    exec (.cardApdu t data) s = .next
      (((u.hostRd c.who c.entry.buf.toNat (c.p 1)).modCard x.port fun y =>
        { y with queue := y.queue ++ [(.apdu t x.handle, a)] }).cdGo x.port).mbxShow) ∧
  (∀ s t c u x, Starts s t 0x53 c u → u.sessOf (c.p 0) = some x → c.p 1 = 1 →
      (u.on (sessExcl x.port) && u.get (sessExHandle x.port) == x.handle) = false →
      ((u.card x.port).exclQ.any fun y => y.1 == x.handle) = false →
    exec (.cardExcl t) s = .next
      ((u.modCard x.port fun k => { k with exclQ := k.exclQ ++ [(x.handle, c.p 2, t)] }).cdGo x.port).mbxShow) ∧
  (∀ s t c u x, Starts s t 0x53 c u → u.sessOf (c.p 0) = some x → c.p 1 ≠ 1 → x.expired = false →
      u.on (sessExcl x.port) = true → u.get (sessExHandle x.port) = x.handle →
    exec (.cardExcl t) s = .next (((u.exclEnd x.port).complete t 0x00 0 0).cdGo x.port).mbxShow) ∧
  (∀ s t c u, Starts s t 0x54 c u → u.on (CRD_PCFG0_EN (c.p 0)) = true → u.on (CRD_PSTAT_PRESENT (c.p 0)) = true →
      u.cdUp (c.p 0) = false →
      (u.modCard (c.p 0) fun x => { x with waits := x.waits ++ [t] }).cdSt (c.p 0) ≠ cdACTIVATING →
    exec (.cardActivate t) s = .next
      ((u.modCard (c.p 0) fun x => { x with waits := x.waits ++ [t] }).actAsk (c.p 0) c.origin).mbxShow) ∧
  (∀ s t c u, Starts s t 0x55 c u → u.cdSt (c.p 0) ≠ cdACTIVATING → u.cdUp (c.p 0) = true →
      (u.card (c.p 0)).exch = none → (u.card (c.p 0)).ph = .run →
    exec (.cardDeactivate t) s = .next
      ((u.cdDeactivate (c.p 0)).modCard (c.p 0) fun x => { x with deact := x.deact ++ [t] }).mbxShow) ∧
  (∀ s t c u, Starts s t 0x56 c u → u.on (CRD_PSTAT_PRESENT (c.p 0)) = true →
    exec (.cardGetAtr t) s = .next
      (u.doneBuf t (u.card (c.p 0)).atr (u.card (c.p 0)).atr.length 0).mbxShow) ∧
  (∀ s t c u, Starts s t 0x56 c u → u.on (CRD_PSTAT_PRESENT (c.p 0)) = false →
    exec (.cardGetAtr t) s = .next (answered u t 0x80 0 0)) ∧
  (∀ s t res c u r, Starts s t 0x57 c u → (u.crd.sess.any fun x => x.port == c.p 0) = false → u.cdSt (c.p 0) = cdINACTIVE →
      r = res.toNat &&& (0x110 + u.get (CRD_PCFG0_CLASSMASK (c.p 0))) →
    exec (.cardSelftest t res) s = .next
      (answered ((u.put (CRD_TESTRES_RESULT (c.p 0)) r).put (CRD_TESTRES_RAN (c.p 0)) 1) t 0x00 r 0))

/-- LAMP_SET, LAMP_PATTERN, LAMP_STATUS, THM_READ, REMOTE_POST, ALARM_CLEAR, DIODE_CLEAR, ADC_CONVERT, ADC_CAL and
LEDGER_READ. Rules they follow: R39, R89, R130, R136 to R138, R142, R399, R400, R404. -/
def Obligations.SensorAndLampCommandsComplete : Prop :=
  (∀ s t c u, Starts s t 0x60 c u → u.on (LMP_CFG_EN (c.p 0)) = true → c.p 1 ≤ u.get (LMP_LEVEL_LEVEL (c.p 0)) →
    exec (.lampSet t) s = .next (answered ((u.lampStore (c.p 0) (c.p 1) 0).modLamp (c.p 0) fun l => { l with wantPat := 0 }) t
      0x00 0 0)) ∧
  (∀ s t c u, Starts s t 0x60 c u → u.on (LMP_CFG_EN (c.p 0)) = true → u.get (LMP_LEVEL_LEVEL (c.p 0)) < c.p 1 →
      (u.lamp (c.p 0)).waiting = false →
    exec (.lampSet t) s = .next ((u.modLamp (c.p 0) fun l => { l with
      waiting := true, wantLevel := c.p 1, wantPat := 0, wantTag := some t.toNat }).present
        (50 + c.p 0) 1 c.origin).mbxShow) ∧
  (∀ s t c u, Starts s t 0x61 c u → u.on (LMP_CFG_EN (c.p 0)) = true →
    exec (.lampPattern t) s = .next (answered ((u.put (LMP_PATTERN_CODE (c.p 0)) (c.p 1)).modLamp (c.p 0) fun l =>
      { l with wantPat := c.p 1 }) t 0x00 0 0)) ∧
  (∀ s t c u, Starts s t 0x62 c u → u.get (LMP_STAT_DIAG (c.p 0)) = diagUNVER →
    exec (.lampStatus t) s = .next (answered u t 0x04 diagUNVER 0)) ∧
  (∀ s t c u, Starts s t 0x62 c u → u.get (LMP_STAT_DIAG (c.p 0)) ≠ diagUNVER →
    exec (.lampStatus t) s = .next (answered u t 0x00 (u.get (LMP_STAT_DIAG (c.p 0))) 0)) ∧
  (∀ s t c u, Starts s t 0x70 c u →
    exec (.thmRead t) s = .next (answered u t 0x00 (u.get (THM_SRCSTAT_VALUE (c.p 0)))
      (u.reg (THM_SRCSTAT_VALUE (c.p 0)).off).toNat)) ∧
  (∀ s t c u, Starts s t 0x71 c u →
    exec (.remotePost t) s = .next (answered (u.postRemote (c.p 0) (c.p 1)) t 0x00 0 0)) ∧
  (∀ s t c u v, Starts s t 0x72 c u → v = u.almClear (c.p 0 + 65536 * c.p 1) →
    exec (.alarmClear t) s = .next (answered v t 0x00 (v.reg THM_ALMSTAT_WARN.off).toNat 0)) ∧
  (∀ s t c u, Starts s t 0x73 c u → exec (.diodeClear t) s = .next (answered u.diodeClear t 0x00 0 0)) ∧
  (∀ s t c u, Starts s t 0x74 c u → exec (.adcConvert t) s = .next
    ({ u with sup := { u.sup with adcReq := u.sup.adcReq ++ [(c.p 0, t.toNat)] } } : State).mbxShow) ∧
  (∀ s t c u, Starts s t 0xF1 c u → u.sup.calReq = none → exec (.adcCal t) s = .next
    ({ u with sup := { u.sup with calReq := some (c.p 0, t.toNat) } } : State).mbxShow) ∧
  (∀ s t c u, Starts s t 0xF1 c u → u.sup.calReq ≠ none → exec (.adcCal t) s = .next (answered u t 0x23 0 0)) ∧
  (∀ s t c u, Starts s t 0x75 c u → exec (.ledgerRead t) s = .next
    (u.doneBuf t ((upTo 10).map fun i => leBytes 4 (u.reg (0x6040 + 4 * i)).toNat).flatten 0 0).mbxShow)

/-- LOG_READ, LOG_BOUNDS, FW_WRITE, FW_ERASE, FW_VERIFY, FW_PREFER, FW_ACTIVATE, FW_COMMIT and PATCH_LOAD. Rules they
follow: R151, R153, R154, R179, R188, R331, R408, R439. -/
def Obligations.StoreAndFirmwareCommandsComplete : Prop :=
  (∀ s t c u x g, Starts s t 0x80 c u → x = u.st.stream (streamOf (c.p 0)) →
      (∀ r, x.recs.head? = some r → seqOlder (c.p 1) r.seq = false) →
      g = (x.recs.filter fun r => seqIn (c.p 1) (c.p 2) r.seq).foldl (u.st.logTake (streamOf (c.p 0)) c.entry.len.toNat)
        ⟨[], 0, false, none⟩ →
      g.full = none → g.skipped = false → c.p 1 + c.p 2 ≤ x.next.toNat → x.next.toNat < c.p 1 + 2 ^ 31 →
    exec (.logRead t false) s = .next (answered (u.hostPut c.who c.entry.buf.toNat (g.bytes.take c.entry.len.toNat) none) t 0x00
      g.n ((c.p 1 + c.p 2) % 2 ^ 32))) ∧
  (∀ s t c u, Starts s t 0x81 c u →
    exec (.logBounds t) s = .next
      (answered u t 0x00 (u.get (JNL_FIRST_SEQ (c.p 0))) (u.get (JNL_LAST_SEQ (c.p 0))))) ∧
  (∀ s t data c u, Starts s t 0x90 c u → u.slotRuns (c.p 0) = false → c.count = 0 →
    exec (.fwWrite t data none false) s = .next (((u.claimSP0.hostRd c.who c.entry.buf.toNat c.entry.len.toNat).emit (.flash
      portSP0 0 .program (c.p 0 * 0x100000 + c.p 1) (fitTo c.entry.len.toNat data))).complete t 0x00 0 0).freeSP0.mbxShow) ∧
  (∀ s t c u, Starts s t 0x91 c u → u.slotRuns (c.p 0) = false →
    exec (.fwErase t none false) s = .next ((u.claimSP0.emit (.flash portSP0 0 (.erase none) (c.p 0 * 0x100000)
      [])).complete t 0x00 0 0).freeSP0.mbxShow) ∧
  (∀ s t b c u, Starts s t 0x92 c u → u.claimSP0.serviceCode (imageOf b) = 0 →
    exec (.fwVerify t (some b)) s =
      .next (u.claimSP0.complete t 0x00 (leAt (imageOf b).hdr 12 4) 0).freeSP0.mbxShow) ∧
  (∀ s t c u, Starts s t 0x92 c u →
    exec (.fwVerify t none) s = .next (u.claimSP0.complete t 0x19 0 10).freeSP0.mbxShow) ∧
  (∀ s t c u, Starts s t 0x93 c u → exec (.fwPrefer t) s = .next
    (u.commitAsk ⟨none, c.origin, .cmd t.toNat, some [fieldSlot SNT_BOOTCFG_PREF (c.p 0)], 0⟩).mbxShow) ∧
  (∀ s t c u v, Starts s t 0x94 c u → u.rst.downFor = none → v = u.complete t 0x00 0 0 →
    exec (.fwActivate t) s = .next ({ v with rst := { v.rst with downFor := some .activate } } : State).mbxShow) ∧
  (∀ s t c u x, Starts s t 0x95 c u → u.snt.svc = some x → u.snt.runPatch = none →
      (u.rollRaise c.origin 0 (min 63 (leAt x.hdr 12 4))).snt.runPatch = none →
    exec (.fwCommit t) s = .next
      (answered ((u.rollRaise c.origin 0 (min 63 (leAt x.hdr 12 4))).rollRaise c.origin 1 0) t 0x00 0 0)) ∧
  (∀ s t img c u v, Starts s t 0x96 c u → u.patchCode (imageOf img) = 0 →
      256 + leAt (imageOf img).hdr 8 4 ≤ c.entry.len.toNat →
      v = u.hostRd c.who c.entry.buf.toNat c.entry.len.toNat →
    exec (.patchLoad t img) s = .next (answered { v with
      snt := { v.snt with nextPatch := some (imageOf img) }, st := v.st.mend patchBase patchSize } t 0x00 0 0))

/-- AUTH_OPEN, AUTH_CLOSE, AUTH_STATUS, KEY_SET, KEY_REVOKE and MEASURE. Rules they follow: R161 to R164, R419, R438. -/
def Obligations.TrustCommandsComplete : Prop :=
  (∀ s t c u, Starts s t 0xA0 c u → (u.on SNT_AUTHSTAT0_LOCKED = true ∨ u.on RST_VAULTSTAT0_TAMPER = true) →
    exec (.authOpen t) s = .next (answered u t 0x33 0 0)) ∧
  (∀ s t c u, Starts s t 0xA0 c u → u.on SNT_AUTHSTAT0_LOCKED = false → u.on RST_VAULTSTAT0_TAMPER = false →
      u.on SNT_AUTHSTAT0_OPEN = false → u.snt.nonce = none →
    exec (.authOpen t) s = .next ({ u with snt := { u.snt with
      nonce := some (u.snt.nonces, c.p 0, u.after 4000, t), nonces := u.snt.nonces + 1, sig := none } } :
        State).authCard.mbxShow) ∧
  (∀ s t c u, Starts s t 0xA1 c u → u.on SNT_AUTHSTAT0_OPEN = true →
    exec (.authClose t) s = .next (answered (u.authClose 2) t 0x00 0 0)) ∧
  (∀ s t c u, Starts s t 0xA1 c u → u.on SNT_AUTHSTAT0_OPEN = false →
    exec (.authClose t) s = .next (answered u t 0x25 0 0)) ∧
  (∀ s t c u, Starts s t 0xA2 c u →
    exec (.authStatus t) s = .next (answered u t 0x00 (u.reg SNT_AUTHSTAT0_OPEN.off).toNat
      (u.reg SNT_AUTHSTAT1_END.off).toNat)) ∧
  (∀ s t data c u, Starts s t 0xA3 c u →
    exec (.keySet t data) s = .next (answered ((u.hostRd c.who c.entry.buf.toNat 64).keyChange c.origin (c.p 0)
      (BitVec.ofNat 32 (1 + 65536 * leAt (sha256 (fitTo 64 data)) 0 2)) (fitTo 64 data)) t 0x00 0 0)) ∧
  (∀ s t c u, Starts s t 0xA4 c u →
    exec (.keyRevoke t) s = .next (answered (u.keyChange c.origin (c.p 0)
      (withField (withField (u.reg (SNT_SVCKEY_VALID (c.p 0)).off) 0 1 0) 1 1 1) []) t 0x00 0 0)) ∧
  (∀ s t c u, Starts s t 0xA5 c u →
    exec (.measure t) s = .next (u.doneBuf t (u.measurement (c.p 0)) 0 0).mbxShow)

/-- The timebase's commands outside the tick: DISCIPLINE_WINDOW_END, XTAL_FAIL, XTAL_RESTORED, FRAME_WRAP, FRM_TS_LO_READ,
CAPTURE_READ, OVR_CLR and PHMAX_CLR. Rules they follow: R27 to R30, R35, R36, R44, R47, R433. -/
def Obligations.TimebaseCommandsComplete : Prop :=
  (∀ s (n : Nat) u, s.on FRM_STATUS_XTAL_FAIL = false → s.asleep = false → s.rst.vault = false → s.rst.low = false →
      s.slot = true → -32768 ≤ (n : Int) - 512000 → (n : Int) - 512000 < 32768 → -1 ≤ s.winRest n → s.winRest n ≤ 1 →
      u = (s.put FRM_TRIM_STEP (trimNext (s.get FRM_TRIM_STEP) ((n : Int) - 512000))).putS FRM_TRIM_ERR ((n : Int) - 512000) →
    exec (.disciplineWindowEnd n) s = .next (({ u with tb := { u.tb with
      resid := s.winRest n, win := 0, goodWins := min (s.tb.goodWins + 1) 3 } } : State).putB FRM_STATUS_LOCKED
        (decide (3 ≤ s.tb.goodWins + 1)))) ∧
  (∀ s, s.on FRM_STATUS_XTAL_FAIL = false →
    exec .xtalFail s = .next (({ (s.put FRM_STATUS_XTAL_FAIL 1).put FRM_STATUS_LOCKED 0 with
      tb := { s.tb with d := 0, goodWins := 0, resid := 0, win := 0 } } : State).log 0x1006 0 [])) ∧
  (∀ s, s.on FRM_STATUS_XTAL_FAIL = true →
    exec .xtalRestored s = .next ((s.put FRM_STATUS_XTAL_FAIL 0).log 0x1007 0 [])) ∧
  (∀ s ts, s.tb.wrapFrom = some ts →
    exec .frameWrap s = .next ((({ s with tb := { s.tb with wrapFrom := none } } : State).count FRM_WRAPCNT_COUNT).log
      0x1003 0 [none, none, none, some ts])) ∧
  (∀ s fn, ∃ t, exec (.frmTsLoRead fn) s = .next t ∧ t.out = s.out ++ [.value fn (t.now % 2 ^ 32)] ∧
    t.tsHi fn = t.now / 2 ^ 32) ∧
  (∀ s fn pr, ∃ t, exec (.captureRead fn pr) s = .next t ∧
    t.out = s.out ++ [.value fn (s.reg (pairRegs pr).1).toNat] ∧ t.regs = s.regs ∧
    (fn, pr, (s.reg (pairRegs pr).2).toNat) ∈ t.tb.pairCaps) ∧
  (∀ s, exec .ovrClr s = .next (s.put FRM_OVRCNT_COUNT 0)) ∧
  (∀ s, regsWf s = true → ∃ t, exec .phmaxClr s = .next t ∧ ∀ p < 6, t.get (FRM_PHASEMAX_CYCLES p) = 0)

/-- The power sequence's commands: SEQUENCE_START, RAIL_ENABLE, RISE_TIMEOUT, COOL_DOWN_END, RAIL_DEASSERT, FALL_TIMEOUT and
RAILCTL_RETRY. Rules they follow: R55, R57, R59 to R64, R66. -/
def Obligations.SequenceCommandsComplete : Prop :=
  (∀ s, s.phase 4 = true → s.startReady = true →
    exec .sequenceStart s =
      .next (({ s with seq := { s.seq with powerOn := false } } : State).startRails fun _ => true)) ∧
  (∀ s, s.phase 4 = true →
    exec .railEnable s = .next (s.forRails fun n t => if s.enableDue n then
      (t.setRail n rlRISING).modRail n fun r =>
        { r with tmoEnd := s.after (s.get (PSQ_RAILTMO_RISE_TMO n)), enTick := s.tb.ticks + 1 } else t)) ∧
  (∀ s v, s.phase 4 = true → (∃ n < 24, s.riseFailed n = true ∧ s.tolerant n = false) →
      v = s.forRails (fun n t => if s.riseFailed n then t.riseFail n else t) →
    exec .riseTimeout s = .next (({ v with seq := { v.seq with teardown := true } } : State).shutdown (fun _ => true) 3)) ∧
  (∀ s v, s.phase 4 = true → (∃ n < 24, s.riseFailed n = true) → (∀ n < 24, s.riseFailed n = true → s.tolerant n = true) →
      v = s.forRails (fun n t => if s.riseFailed n then t.riseFail n else t) →
    exec .riseTimeout s =
      .next (v.forRails fun n t => if s.riseFailed n then t.setRail n rlFLAGGED else t).seqComplete) ∧
  (∀ s v, s.phase 4 = true → s.get PSQ_SEQSTAT_STATE = seqCOOL → s.due s.seq.coolEnd = true →
      v = (s.put PSQ_SEQSTAT_RETRY (s.get PSQ_SEQSTAT_RETRY + 1)).put PSQ_SEQSTAT_STATE seqUP →
    exec .coolDownEnd s = .next (v.startRails fun n => (v.rail n).started)) ∧
  (∀ s, s.phase 4 = true →
    exec .railDeassert s = .next (s.forRails fun n t => if s.deassertDue n then
      (t.setRail n rlFALLING).modRail n fun r => { r with tmoEnd := s.after (s.get (PSQ_RAILTMO_FALL_TMO n)) } else t)) ∧
  (∀ s, s.phase 3 = true → (∃ n < 24, s.fallLate n = true) →
    exec .fallTimeout s = .next (s.forRails fun n t => if s.fallLate n then
      ((t.put (PSQ_RAILSTAT_FALL_TIMEOUT n) 1).log 0x2002 n []).setRail n rlOFF else t).shutdownEnd) ∧
  (∀ s n, exec (.railctlRetry n) s = .next (s.retryRail n))

/-- The Swarm line at every device: SWARM_ADVANCE, SWARM_CATCHUP, SWARM_RESYNC, SWARM_INVALID_PULSE, SWARM_BEACON_GAP,
SWARM_BEACON, JOIN_TIMEOUT, NOBEACON and SWARM_RELEASE. Rules they follow: R72 to R75, R77 to R79, R81 to R85. -/
def Obligations.SwarmLineCommandsComplete : Prop :=
  (∀ s u, s.swCounts = true → s.get PSQ_SWSTAT_STATE = 255 →
      u = { s with sw := { s.sw with holdFrom := some (s.tb.ticks + 1), stuckDone := false } } →
    exec .swarmAdvance s = .next (u.log 0x2005 0 [])) ∧
  (∀ s k u, s.swCounts = true → s.get PSQ_SWSTAT_STATE = k → k ≠ 255 →
      u = { s with sw := { s.sw with holdFrom := some (s.tb.ticks + 1), stuckDone := false } } →
    exec .swarmAdvance s = .next ((u.put PSQ_SWSTAT_STATE (k + 1)).swEnter (k + 1))) ∧
  (∀ s, s.sw.missDue = true → s.swCounts = true → s.on SUP_BUSSTAT_PRESENT = true → s.get SUP_HSSTAT_STATE = hsON →
      s.on SUP_BUSSTAT_LOST = false → ¬ (s.get PSQ_SEQSTAT_STATE = seqDOWN ∧ s.get PSQ_SEQSTAT_CAUSE = 5) →
    exec .swarmCatchup s =
      .next (({ s with sw := { s.sw with missDue := false } } : State).swJoinStarts (s.get PSQ_SWSTAT_STATE))) ∧
  (∀ s u, s.swRole = true → u = ({ s with sw := { s.sw with receiving := false } } : State).put PSQ_SWSTAT_STATE 0 →
      s.sw.fellBack = false → (∀ e, s.sw.pulse ≠ some (.resync, e)) → exec .swarmResync s = .next u) ∧
  (∀ s u e, s.swRole = true → u = ({ s with sw := { s.sw with receiving := false } } : State).put PSQ_SWSTAT_STATE 0 →
      s.sw.fellBack = false → s.sw.pulse = some (.resync, e) →
    exec .swarmResync s = .next (u.put PSQ_SWSTAT_JOINED 1)) ∧
  (∀ s u, s.swRole = true → u = ({ s with sw := { s.sw with receiving := false } } : State).put PSQ_SWSTAT_STATE 0 →
      s.sw.fellBack = true → u.on PSQ_SWCFG_REJOIN = true → exec .swarmResync s = .next u.swRejoin) ∧
  (∀ s u, s.swRole = true → u = ({ s with sw := { s.sw with receiving := false } } : State).put PSQ_SWSTAT_STATE 0 →
      s.sw.fellBack = true → u.on PSQ_SWCFG_REJOIN = false → exec .swarmResync s = .next u) ∧
  (∀ s, s.swRole = true →
    exec .swarmInvalidPulse s =
      .next (({ s with sw := { s.sw with receiving := false } } : State).count PSQ_SWSTAT_GLITCHCNT)) ∧
  (∀ s, s.swRole = true → exec .swarmBeaconGap s = .next { s with sw := { s.sw with receiving := false } }) ∧
  (∀ s v u, s.swRole = true → s.swLeader = false → s.sw.fellBack = false → s.on PSQ_SWSTAT_JOINED = true →
      u = { s with sw := { s.sw with receiving := false, lastBeacon := s.tb.ticks, noBeaconDone := false } } →
    exec (.swarmBeacon v false) s = .next (u.swCompare v.toNat)) ∧
  (∀ s v u, s.swRole = true → s.swLeader = false → s.sw.fellBack = false → s.on PSQ_SWSTAT_JOINED = false →
      u = { s with sw := { s.sw with receiving := false, lastBeacon := s.tb.ticks, noBeaconDone := false } } →
    exec (.swarmBeacon v false) s =
      .next (((u.put PSQ_SWSTAT_STATE v.toNat).put PSQ_SWSTAT_JOINED 1).swJoinStarts v.toNat)) ∧
  (∀ s v, s.swRole = true → s.swLeader = true →
    exec (.swarmBeacon v true) s = .next { s with sw := { s.sw with receiving := false } }) ∧
  (∀ s, s.swRole = true → s.swLeader = false → s.on PSQ_SWSTAT_JOINED = false → s.sw.fellBack = false →
      s.beaconLate = true → exec .joinTimeout s = .next (s.swDesync none)) ∧
  (∀ s, s.swRole = true → s.on PSQ_SWSTAT_JOINED = true → s.sw.noBeaconDone = false → s.beaconLate = true →
    exec .nobeacon s = .next { s.put PSQ_SWSTAT_NOBEACON 1 with sw := { s.sw with noBeaconDone := true } }) ∧
  (∀ s, s.sw.claimed = true → s.phase 4 = true → s.due s.sw.claimTick = true → s.swSettled = true →
    exec .swarmRelease s = .next { s with sw := { s.sw with claimed := false } })

/-- The Swarm leader's commands and the two register commands: LEADER_ADVANCE_PULSE, LEADER_RESYNC_PULSE,
LEADER_BEACON_SEND, SWARM_STUCK, SWCTL_RESYNC and SWCTL_REJOIN. Rules they follow: R76 to R78, R80, R82, R84. -/
def Obligations.SwarmLeaderCommandsComplete : Prop :=
  (∀ s, s.swPaces = true → s.swHigh8 = true → s.get PSQ_SWSTAT_STATE < s.get PSQ_SWTARGET_STATE →
    exec .leaderAdvancePulse s = .next { s with sw := { s.sw with pulse := some (.advance, s.after 4) } }) ∧
  (∀ s, s.swLeader = true → s.on PSQ_SWSTAT_LEADER_CONFLICT = false → s.sw.resyncReq = true → s.sw.pulse = none →
      s.swHigh8 = true →
    exec .leaderResyncPulse s = .next { s with sw := { s.sw with pulse := some (.resync, s.after 32) } }) ∧
  (∀ s, s.swPaces = true → s.swHigh8 = true → s.due s.sw.beaconAt = true →
    exec .leaderBeaconSend s = .next (({ s with sw := { s.sw with
      beaconAt := s.after (s.get PSQ_SWCFG_BEACON)
      pulse := some (.beacon, s.after ((beaconUs (s.get PSQ_SWSTAT_STATE) + 124) / 125)) } } : State).emit
        (.beacon (BitVec.ofNat 8 (s.get PSQ_SWSTAT_STATE)) (popCount (s.get PSQ_SWSTAT_STATE) 8 % 2 == 0)))) ∧
  (∀ s u t, s.swLeader = true → s.sw.high = false → s.sw.stuckDone = false → s.sw.holdFrom = some t →
      s.due (t + s.get PSQ_SWHOLDMAX_FRAMES + 1) = true →
      u = { s with sw := { s.sw with stuckDone := true } } →
    exec .swarmStuck s = .next ((u.put PSQ_SWSTAT_STUCK 1).log 0x2008 0 [some (s.get PSQ_SWSTAT_STATE)])) ∧
  (∀ s, exec .swctlResync s = .next s.swResyncReq) ∧
  (∀ s, exec .swctlRejoin s = .next s.swRejoinReq)

/-- Faults of rails, the busbar, the shelf and the Cocoon: RAIL_FAULT, PFW_LEAD_END, BUSBAR_PRESENT, BUSBAR_ABSENT,
SHELF_CHANGE, RIDE_THROUGH_END, ON_COCOON, COLLAPSE and COC_OVERCAP. Rules they follow: R67, R92 to R99, R103, R113, R114,
R123, R125 to R127, R411, R412. -/
def Obligations.SupervisionCommandsComplete : Prop :=
  (∀ s n x, s.watched n x = true → s.pins.held = false → armed (s.railSt n) x = true →
    exec (.railFault n x) s = .next ((s.railFault n (crossNum x) true).hwLatch n x)) ∧
  (∀ s e, s.sup.leadEnd = some e → s.due e = true → s.phase 3 = true → s.stoppable = true →
    exec .pfwLeadEnd s = .next (({ s with sup := { s.sup with leadEnd := none } } : State).shutdown (fun _ => true)
      s.sup.leadCause)) ∧
  (∀ s, 8 ≤ s.sup.presRun → s.rst.low = false → s.rst.vault = false → s.on SUP_BUSSTAT_PRESENT = false →
      s.busbarPresent.rst.cocStop = false → exec .busbarPresent s = .next s.busbarPresent) ∧
  (∀ s, s.on SUP_BUSSTAT_PRESENT = true → 8 ≤ s.sup.absRun →
    exec .busbarAbsent s = .next { s.put SUP_BUSSTAT_PRESENT 0 with seq := { s.seq with absentSeen := true } }) ∧
  (∀ s, s.on SUP_BUSSTAT_SHELF_FAIL = false → 2 ≤ s.sup.failRun →
    exec (.shelfChange true) s = .next ((s.put SUP_BUSSTAT_SHELF_FAIL 1).log 0x3008 (argCode 0x3008 1 % 65536)
      [some (argCode 0x3008 3)])) ∧
  (∀ s, s.on SUP_BUSSTAT_RT = true → s.get SUP_HSSTAT_STATE = hsON → 8 ≤ s.sup.onRun → s.on SUP_BUSSTAT_SHELF_WARN = false →
    exec .rideThroughEnd s = .next (s.put SUP_BUSSTAT_RT 0)) ∧
  (∀ s, s.phase 3 = true → s.sup.busVs < s.sup.cocVs → s.on SUP_BUSSTAT_ON_COCOON = false → s.rst.low = false →
      s.rst.vault = false →
    exec .onCocoon s = .next ((s.put SUP_BUSSTAT_ON_COCOON 1).log 0x300E 0 [some s.sup.busVs]).cocoonDown) ∧
  (∀ s mv u, (s.on SUP_BUSSTAT_ON_COCOON = true ∨ s.sup.busVs < s.sup.cocVs) → mv < s.get SUP_COCCFG_COLLAPSE →
      s.st.collapsed = false → u = (if s.canWrite then s.cutWrite else s) →
    exec (.collapse mv) s = .next ({ u with st := { u.st with collapsed := true } } : State).releaseOutputs) ∧
  (∀ s mv, 2000000000 * s.get SUP_COCCFG_CAP ≤ s.get SUP_COCCAP_UF * mv * mv → s.sup.ovHold = true →
    exec (.cocOvercap mv) s = .next { s.put SUP_COCSTAT_CHARGING 0 with pins := { s.pins with cocChg := false } })

/-- The hot-swap front end: HS_CHARGE_START, HS_FULLY_ENHANCED, INRUSH_TMO, OVERCURRENT, HS_SHORT, SOA_TRIP,
REVERSE_CURRENT, HSCTL_CLR, INTERLOCK_TRIP, DISCHARGE_START and DIS_FAIL. Rules they follow: R104 to R108, R111, R114, R118,
R120. -/
def Obligations.FrontEndCommandsComplete : Prop :=
  (∀ s, s.phase 4 = true → s.chargeReady = true →
    exec .hsChargeStart s = .next { (s.put SUP_HSSTAT_STATE hsCHARGING).put SUP_DISSTAT_RUNNING 0 with
      pins := { s.pins with gate := .ramp, bleed := false }
      sup := { s.sup with
        chgEnd := ((s.put SUP_HSSTAT_STATE hsCHARGING).put SUP_DISSTAT_RUNNING 0).after
          (((s.put SUP_HSSTAT_STATE hsCHARGING).put SUP_DISSTAT_RUNNING 0).get SUP_HSCFG0_CHG_TMO)
        gateRun := 0, limRun := 0 } }) ∧
  (∀ s, s.get SUP_HSSTAT_STATE = hsCHARGING → 8 ≤ s.sup.gateRun → s.sup.busVs ≤ s.sup.bulkVs + 500 →
    exec .hsFullyEnhanced s = .next { s.put SUP_HSSTAT_STATE hsON with
      pins := { s.pins with gate := .full }
      sup := { s.sup with fast := { s.sup.fast with soa := 0, soaHit := none }, onRun := 0, limRun := 0 } }) ∧
  (∀ s, s.get SUP_HSSTAT_STATE = hsCHARGING → s.due s.sup.chgEnd = true →
    exec .inrushTmo s = .next (s.hsFault 2 none)) ∧
  (∀ s, s.get SUP_HSSTAT_STATE = hsON → s.get SUP_HSCFG0_ILIM_T ≤ s.sup.limRun →
    exec .overcurrent s = .next (s.hsFault 3 none)) ∧
  (∀ s uv, s.conducts = true → 2 * s.get SUP_HSILIM_LIMIT * 100 * s.get SUP_HSSHUNT_UOHM ≤ uv * 1000 →
    exec (.hsShort uv) s = .next (s.hsFault 4 (some (s.shuntMa uv)))) ∧
  (∀ s l u e v, u = s.fastRun l → u.sup.fast.soaHit = some e → u.conducts = true → u.get SUP_HSSTAT_STATE ≠ hsON →
      v = { u with sup := { u.sup with fast := { u.sup.fast with soaHit := none } } } →
    exec (.soaTrip l) s = .next (v.hsFault 5 (some (v.rawUj e / 1000).toNat))) ∧
  (∀ s uv, s.conducts = true → s.get SUP_HSSTAT_STATE = hsON →
      s.get SUP_HSCFG1_REV * 100 * s.get SUP_HSSHUNT_UOHM < uv * 1000 →
    exec (.reverseCurrent uv) s = .next ((s.gateOff.put SUP_HSSTAT_STATE hsBLOCKED).put SUP_BUSSTAT_RT 1)) ∧
  (∀ s uv, s.conducts = true → s.get SUP_HSSTAT_STATE ≠ hsON →
      s.get SUP_HSCFG1_REV * 100 * s.get SUP_HSSHUNT_UOHM < uv * 1000 →
    exec (.reverseCurrent uv) s = .next (s.gateOff.put SUP_HSSTAT_STATE hsBLOCKED)) ∧
  (∀ s, exec .hsctlClr s = .next s.hsClear) ∧
  (∀ s l u e v, u = s.fastRun l → u.sup.fast.ilkHit = some e → u.conducts = true →
      v = { u with sup := { u.sup with fast := { u.sup.fast with ilkHit := none } } } →
    exec (.interlockTrip l) s = .next ((v.snapAsk 1 0x3006 0).hsFault 1 (some (v.rawUj e / 1000).toNat))) ∧
  (∀ s, s.phase 4 = true → s.dischargeDue = true →
    exec .dischargeStart s = .next { s.setReg 0x6098 1 with
      pins := { s.pins with bleed := true }
      sup := { s.sup with disFrom := s.tb.ticks + 1, disRun := 0, disOk := false } }) ∧
  (∀ s u, s.on SUP_DISSTAT_RUNNING = true → s.due (s.sup.disFrom + s.get SUP_DISTIME_FRAMES) = true → s.sup.disOk = false →
      u = ((((s.put SUP_DISSTAT_RUNNING 0).put SUP_DISSTAT_ELAPSED (satTo 16 (s.tb.ticks - s.sup.disFrom))).put
        SUP_DISSTAT_FAIL 1).log 0x300C 0 []).snapAsk 5 0x300C 0 →
    exec .disFail s = .next (u.hsFault 7 none)) ∧
  (∀ s, s.on SUP_DISSTAT_RUNNING = true → s.due (s.sup.disFrom + s.get SUP_DISTIME_FRAMES) = true → s.sup.disOk = true →
    exec .disFail s = .next (((s.put SUP_DISSTAT_RUNNING 0).put SUP_DISSTAT_ELAPSED
      (satTo 16 (s.tb.ticks - s.sup.disFrom))).put SUP_DISSTAT_UNVERIFIED 1))

/-- The thermal block and admission: DIODE_CONVERSION, THM_FAIL_CLR, THM_REMOTE_WRITE, SRC_STALE, ALMSTAT_CLEAR and
RESERVATION_LAPSE. Rules they follow: R132 to R134, R136, R137, R139, R142, R321, R444. -/
def Obligations.ThermalCommandsComplete : Prop :=
  (∀ s uv temp cal, 150 ≤ uv → uv ≤ 1100 → (temp - cal).natAbs ≤ 320 →
    exec (.diodeConversion uv temp cal) s = .next
      { s with thm := { s.thm with sum := s.thm.sum + temp, cnt := s.thm.cnt + 1 } }) ∧
  (∀ s uv temp cal u, 1100 < uv → (temp - cal).natAbs ≤ 320 →
      (s.on THM_DIODESTAT_OPEN = true ∨ s.on THM_DIODESTAT_SHORT = true ∨ s.on THM_DIODESTAT_RATIO = true) →
      u = ((s.put THM_DIODESTAT_OPEN 1).hotNow 0).put (THM_SRCSTAT_DIODE 0) 1 →
    exec (.diodeConversion uv temp cal) s = .next { u with thm := { u.thm with bad := true } }) ∧
  (∀ s, exec .thmFailClr s = .next s.diodeClear) ∧
  (∀ s p r v, exec (.thmRemoteWrite p r v) s = .next (s.postRemote r v.toNat)) ∧
  (∀ s r, s.thm.staleRec.contains r.val = true →
    exec (.srcStale r) s = .next (({ s with thm := { s.thm with staleRec := s.thm.staleRec.erase r.val } } : State).log
      0x4003 (r.val + 1) [])) ∧
  (∀ s m, exec (.almstatClear m) s = .next (s.almClear m.toNat)) ∧
  (∀ s, exec .reservationLapse s = .next
    { s with adm := { s.adm with resv := s.adm.resv.filter fun r => !s.due r.1 } })

/-- Sentinel's mailbox and the heartbeat: MAILBOX_REQUEST, MAILBOX_SERVE, HEARTBEAT_POST, HEARTBEAT_LOST and
HB_RESTARTS_CLEAR. A ninth request is counted and refused; a forwarded command is granted or answered with the first failing
check's status; the heartbeat takes a slot, and its service accepts the next value only. Rules they follow: R21, R155 to R160. -/
def Obligations.SentinelCommandsComplete : Prop :=
  (∀ s r, s.cmdRuns = true → 8 ≤ s.snt.mbx.length →
    exec (.mailboxRequest r) s = .next (s.count SNT_MBXSTAT_REFUSED)) ∧
  (∀ s t c, s.cmdRuns = true → s.snt.mbx.length < 8 → s.cmd t = some c → (s.snt.mbx.any fun m => quotes t m.req) = false →
      c.st = .fetched →
    exec (.mailboxRequest (.cmd t c.entry)) s =
      .next ((s.modCmd t fun c => { c with st := .asked }).mbxPut (.cmd t c.entry))) ∧
  (∀ s t c e, s.sentinelRuns = true → s.slot = true → s.rst.core = true → s.mbxPick = some (.cmd t e) → s.cmd t = some c →
      s.cmdCheck c.ring e = none →
    exec .mailboxServe s = .next ((s.modCmd c.tag fun c => { c with
      st := .granted, entry := { e with cid := c.entry.cid, flags := c.entry.flags } }).mbxAnswered c.tag)) ∧
  (∀ s t c e st, s.sentinelRuns = true → s.slot = true → s.rst.core = true → s.mbxPick = some (.cmd t e) →
      s.cmd t = some c → s.cmdCheck c.ring e = some st → st ≠ 0x32 → c.st = .asked →
    exec .mailboxServe s = .next (answered ((s.mbxRefuse c.origin st).mbxFree (.cmd c.tag e)) c.tag st 0 0)) ∧
  (∀ s v, s.sentinelRuns = true → s.slot = true → s.rst.core = true → s.mbxPick = some (.heartbeat v) →
    exec .mailboxServe s = .next ((s.mbxFree (.heartbeat v)).heartbeat v)) ∧
  (∀ (s : State) v u, v = s.reg 0x3820 + 1 → u = s.setReg 0x3820 v →
    s.heartbeat v = { u with snt := { u.snt with hbEnd := some (u.after (u.get SNT_HBCFG_PERIOD)) } }) ∧
  (∀ (s : State) v, v ≠ s.reg 0x3820 + 1 → s.heartbeat v = s.count SNT_HBSTAT_BADCNT) ∧
  (∀ s v, s.cmdRuns = true → s.snt.mbx.length < 8 →
    exec (.heartbeatPost v) s = .next (s.mbxPut (.heartbeat v))) ∧
  (∀ s v, s.cmdRuns = true → 8 ≤ s.snt.mbx.length →
    exec (.heartbeatPost v) s = .next (s.count SNT_MBXSTAT_REFUSED)) ∧
  (∀ s e, s.snt.hbEnd = some e → s.due e = true → s.cmdRuns = true → s.rst.downFor = none →
    ∃ t, exec .heartbeatLost s = .next t ∧ t.rst = { s.rst with downFor := some .heartbeat } ∧ t.snt.mbx = [] ∧
      t.snt.hbEnd = none ∧ t.snt.hbClear = s.snt.hbClear) ∧
  (∀ s, s.on GLB_STATUS_SVC_RUN = true → s.due s.snt.hbClear = true → s.get SNT_HBSTAT_RESTARTS ≠ 0 →
    exec .hbRestartsClear s = .next { s.put SNT_HBSTAT_RESTARTS 0 with snt := { s.snt with hbClear := (s.put SNT_HBSTAT_RESTARTS 0).after 480000 } })

/-- The service authorisation: AUTH_VERIFY opens it on a signature that the key verifies over the nonce and the serial, and
counts any other as failed; AUTH_ATTEMPT_TIMEOUT ends the attempt with 0x34 and counts nothing; AUTH_EXPIRE closes the window;
AUTH_LOCK_END ends the lock-out and leaves the count of failures. Rules they follow: R161 to R164. -/
def Obligations.AuthorisationCommandsComplete : Prop :=
  (∀ s x a k e t, s.snt.sig = some x → s.snt.nonce = some (a, k, e, t) → s.sentinelRuns = true → s.slot = true →
      s.on (SNT_SVCKEY_VALID k) = true → s.due e = false →
    exec .authVerify s = .next (if p256.verify (s.snt.keys.getD k []) (s.authDigest a) x = true then s.authOpen
      else s.authFail)) ∧
  (∀ s x a k e t, s.snt.sig = some x → s.snt.nonce = some (a, k, e, t) → s.sentinelRuns = true → s.slot = true →
      s.on (SNT_SVCKEY_VALID k) = false →
    exec .authVerify s = .next (s.attemptEnd.complete t 0x30 0 0)) ∧
  (∀ s a k e t, s.snt.nonce = some (a, k, e, t) → s.due e = true → s.snt.sig = none →
    exec .authAttemptTimeout s = .next (s.attemptEnd.complete t 0x34 0 0)) ∧
  (∀ s, s.on SNT_AUTHSTAT0_OPEN = true → s.due s.snt.authEnd = true → exec .authExpire s = .next (s.authClose 1)) ∧
  (∀ s, s.on SNT_AUTHSTAT0_LOCKED = true → s.due s.snt.lockEnd = true →
    exec .authLockEnd s = .next ((s.put SNT_AUTHSTAT0_LOCKED 0).authShowEnd s.snt.authEnd))

/-- Chrysalis: STAGED_REGISTER_WRITE, CHR_CTL_CHECK, CHR_CTL_COMMIT, CHR_CTL_DISCARD, COMMIT_TAKE and COMMIT_APPLY. Rules
they follow: R157, R158, R167, R169, R171 to R173, R432, R436, R467. -/
def Obligations.ChrysalisCommandsComplete : Prop :=
  (∀ s p off v, off < 0x100000 →
    exec (.stagedRegisterWrite (.owner p) off v) s = .next (s.stageWrite (.owner p) none off 0xFFFFFFFF v).1) ∧
  (∀ s who, s.reaches who = true →
    exec (.chrCtlCheck who) s = .next (s.checkShow (senderWho who) (s.checkStage (senderWho who)))) ∧
  (∀ s who, s.reaches who = true → senderWho who = none → s.on CHR_CTL_COMMIT = false →
    exec (.chrCtlCommit who) s = .next ((s.put CHR_CTL_COMMIT 1).commitAsk ⟨none, who.origin, .reg, none, 0⟩)) ∧
  (∀ s who, s.reaches who = true → s.frozen (senderWho who) = false →
    exec (.chrCtlDiscard who) s = .next (s.stageClear (senderWho who))) ∧
  (∀ s c u, s.mayTake = true → s.commitPick = some c →
      u = { s with chr := { s.chr with waiting := s.chr.waiting.erase c, lastTake := s.tb.ticks + 1 } } →
      checkRules (c.own.isNone && (u.stage c.who).full) (u.commitSlots c) (u.propose (u.commitSlots c)) = none →
    exec .commitTake s = .next { u with chr := { u.chr with taken := some { c with tick := s.tb.ticks + 1 } } }) ∧
  (∀ s c u r, s.mayTake = true → s.commitPick = some c →
      u = { s with chr := { s.chr with waiting := s.chr.waiting.erase c, lastTake := s.tb.ticks + 1 } } →
      checkRules (c.own.isNone && (u.stage c.who).full) (u.commitSlots c) (u.propose (u.commitSlots c)) = some r →
    exec .commitTake s = .next (u.commitRefuse c 0x15 r)) ∧
  (∀ s c, s.chr.taken = some c → c.tick ≤ s.tb.ticks + 1 → exec .commitApply s = .next (s.opened.commitApply c))

/-- The persistent streams: RECORD_WRITE, SNAPSHOT_WRITE and JNL_READ_SELECT. Rules they follow: R128, R178, R185, R437. -/
def Obligations.StreamCommandsComplete : Prop :=
  (∀ s bad, s.canWrite = true → exec (.recordWrite .journal bad) s = .next (s.writeJournal (readBack bad))) ∧
  (∀ s bad, s.canWrite = true → exec (.recordWrite .log bad) s = .next (s.writeLog (readBack bad))) ∧
  (∀ s sn v q k, s.canWrite = true → s.st.snap = some sn → sn.tag = none →
      (s.writeRec .snaps 1024 (readBack none) fun q => recHeader 3 0x20 1024 q sn.ts ++ sn.bytes) = (v, q, k) →
    exec (.snapshotWrite none) s = .next { v with st := { v.st with snap := none } }) ∧
  (∀ s sn bits v q k, s.canWrite = true → s.st.snap = some sn →
      (s.writeRec .snaps 1024 (readBack (some bits)) fun q => recHeader 3 0x20 1024 q sn.ts ++ sn.bytes) = (v, q, k) →
    exec (.snapshotWrite (some bits)) s = .next v) ∧
  (∀ s v, v.toNat % 128 ≤ 64 → exec (.jnlReadSelect true v) s = .next (s.put JNL_RDOFS_WINDOW v.toNat).jnlLoad) ∧
  (∀ s v, 64 < v.toNat % 128 → exec (.jnlReadSelect true v) s = .next s.jnlLoad) ∧
  (∀ s v, exec (.jnlReadSelect false v) s = .next (s.put JNL_RDSEL0_SEQ v.toNat).jnlLoad)

/-- A state's answer to a block read of the management bus: the byte count, the bytes and the PEC over the whole
transaction. Rules they follow: R218, R219. -/
def Obligations.ManagementBusCommandsComplete : Prop :=
  ∀ (s : State) (reply block : Nat → List Byte → State), s.smbRuns = true →
    (∀ cmd b, reply cmd b = s.emit (.smb (b ++ [BitVec.ofNat 8 (crc8 ([BitVec.ofNat 8 (2 * s.get HST_SMBCFG_ADDR),
      BitVec.ofNat 8 cmd, BitVec.ofNat 8 (2 * s.get HST_SMBCFG_ADDR + 1)] ++ b))]))) →
    (∀ cmd b, block cmd b = reply cmd (BitVec.ofNat 8 b.length :: b)) →
    exec .smbIdentity s = .next (block 1 (leBytes 4 (s.reg 0x0).toNat ++ leBytes 4 (s.reg 0x4).toNat)) ∧
    exec .smbPowerState s = .next (reply 2
      (leBytes 1 (s.get RST_PSTATE_STATE + 4 * s.get GLB_STATUS_AUTONOMOUS + 8 * s.get GLB_AUTOCAUSE_CAUSE))) ∧
    exec .smbSeqState s = .next (reply 3 (leBytes 1 (s.get PSQ_SEQSTAT_STATE) ++ leBytes 1 (s.get PSQ_SWSTAT_STATE))) ∧
    exec .smbEnergy s = .next
      (block 4 (leBytes 4 s.sup.busVs ++ leBytes 4 (s.get SUP_LDG_PDRAW_MW) ++ leBytes 4 (s.get SUP_GRANT_W))) ∧
    exec .smbThermal s = .next (block 5 (leBytes 2 (s.get THM_EFF_HEADROOM) ++ leBytes 2 (s.get THM_EFF_DUTYMAX))) ∧
    (∃ t, exec .smbTimestamp s = .next t ∧ t.regs = s.regs ∧ t.sup = s.sup ∧ ∃ b, t.out = s.out ++ [.smb (8 :: b)]) ∧
    exec .smbFaults s = .next (block 7
      (leBytes 1 (s.get SUP_HSSTAT_CAUSE % 16 + 16 * b2n (s.get SUP_HSSTAT_STATE == hsFAULT)) ++
        leBytes 1 (b2n (firstBad 24 s.railLatched).isSome + 2 * b2n (firstBad 9 fun i => s.on (almBit true i)).isSome +
          4 * s.get SUP_DISSTAT_FAIL + 8 * b2n (s.get PSQ_SEQSTAT_STATE == seqLOCKOUT)) ++
        leBytes 1 ((firstBad 24 s.railLatched).getD 0xFF) ++
        leBytes 1 ((firstBad 9 fun i => s.on (almBit true i)).getD 0xFF))) ∧
    (s.st.validRecs .log = [] → exec .smbLastEvent s = .next (block 8 (List.replicate 6 0xFF))) ∧
    (∀ r, (s.st.validRecs .log).getLast? = some r →
      exec .smbLastEvent s = .next (block 8 (leBytes 4 r.seq ++ ((s.st.recBytes .log r).drop 16).take 2))) ∧
    (∀ c, exec (.smbUnsupported c) s = .next (s.emit .smbNack))

/-- The MCTP control commands over SMBus: SET_ENDPOINT_ID, GET_ENDPOINT_ID, GET_MCTP_VERSION_SUPPORT and
GET_MESSAGE_TYPE_SUPPORT, with a right PEC; each answer is one
transmission unit. The byte layouts are presumed from DSP0236 (log entry 120). Rules they follow:
R220. -/
def Obligations.MctpCommandsComplete : Prop :=
  ∀ s, s.smbRuns = true → s.on GLB_STATUS_AUTONOMOUS = false → s.cmdRuns = true →
    (∀ eid, eid ≠ 0 → eid ≠ 0xFF → exec (.setEndpointId eid true) s =
      .next ((s.emit (.mctp true true [0, 0, 1, 0, 0, eid, 0])).put HST_SPDMSTAT_EID eid.toNat)) ∧
    (∀ eid, eid = 0 ∨ eid = 0xFF → exec (.setEndpointId eid true) s = .next (s.emit (.mctp true true [0, 0, 1, 2]))) ∧
    exec (.getEndpointId true) s =
      .next (s.emit (.mctp true true [0, 0, 2, 0, BitVec.ofNat 8 (s.get HST_SPDMSTAT_EID), 0, 0])) ∧
    (∀ ty, ty ≠ 0 → ty ≠ 5 → ty ≠ 0xFF →
      exec (.getMctpVersionSupport ty true) s = .next (s.emit (.mctp true true [0, 0, 4, 0x80]))) ∧
    (∀ ty, ty = 0 ∨ ty = 5 ∨ ty = 0xFF → exec (.getMctpVersionSupport ty true) s =
      .next (s.emit (.mctp true true ([0, 0, 4, 0, 1] ++ leBytes 4 (Config.mctpVersion ty).toNat)))) ∧
    exec (.getMessageTypeSupport true) s = .next (s.emit (.mctp true true [0, 0, 5, 0, 2, 0, 5]))

/-- The SPDM requests over a port's DOE mailbox: GET_VERSION, GET_CAPABILITIES, NEGOTIATE_ALGORITHMS, GET_DIGESTS,
GET_CERTIFICATE, CHALLENGE, GET_MEASUREMENTS and any other. A request of another version than 1.2 is answered with an ERROR;
one whose answer is signed takes a mailbox slot, and its service sends the answer. The byte layouts are presumed from DSP0274
(log entry 120). Rules they follow: R221, R222. -/
def Obligations.SpdmCommandsComplete : Prop :=
  ∀ (s : State) (c : Fin 3) (req : List Byte), c ≠ 2 → s.spdmThere c = true → s.on GLB_STATUS_SVC_RUN = true →
    req.length ≤ spdmMax c →
    exec (.getVersion c) s =
      .next ((s.put (spdmF c) 1).emit (.reply c.val [0x10, 0x04, 0, 0, 0, 1, 0x00, 0x12])) ∧
    exec (.spdmUnsupported c req) s = .next (s.emit (.reply c.val (spdmError 7 (leAt req 1 1)))) ∧
    (leAt req 0 1 ≠ 0x12 → ∀ i ∈ [Instr.getCapabilities c req, .negotiateAlgorithms c req, .getDigests c req,
        .getCertificate c req, .challenge c req, .getMeasurements c req],
      exec i s = .next (s.emit (.reply c.val (spdmError 7 (leAt req 1 1))))) ∧
    (leAt req 0 1 = 0x12 →
      (1 ≤ s.get (spdmF c) → exec (.getCapabilities c req) s = .next ((s.put (spdmF c) 2).emit (.reply c.val
        ([0x12, 0x61, 0, 0, 0] ++ leBytes 1 (Config.spdmCap 0).toNat ++ [0, 0] ++ leBytes 4 0x16 ++
          leBytes 4 (Config.spdmCap 1).toNat ++ leBytes 4 (Config.spdmCap 2).toNat)))) ∧
      (2 ≤ s.get (spdmF c) → bitOf (leAt req 6 1) 0 = true → bitOf (leAt req 8 4) 7 = true →
          bitOf (leAt req 12 4) 1 = true →
        exec (.negotiateAlgorithms c req) s = .next ((s.put (spdmF c) 3).emit (.reply c.val
          ([0x12, 0x63, 0, 0, 36, 0, 1, 0] ++ leBytes 4 4 ++ leBytes 4 0x80 ++ leBytes 4 2 ++ zeros 16)))) ∧
      (3 ≤ s.get (spdmF c) →
        exec (.getDigests c req) s = .next (s.emit (.reply c.val ([0x12, 0x01, 0, 1] ++ chainDigest))) ∧
        (∀ b, leAt req 2 1 % 16 = 0 →
            b = (Config.certChain.drop (leAt req 4 2)).take (min (leAt req 6 2) (spdmMax c - 8)) →
          exec (.getCertificate c req) s = .next (s.emit (.reply c.val (if leAt req 4 2 < Config.certChain.length then
            [0x12, 0x02, 0, 0] ++ leBytes 2 b.length ++ leBytes 2 (Config.certChain.length - leAt req 4 2 - b.length) ++ b
            else spdmError 1 0)))) ∧
        (s.cmdRuns = true → s.snt.mbx.length < 8 →
          (leAt req 2 1 % 16 = 0 →
            exec (.challenge c req) s = .next (s.mbxPut (.sign c (0x12 :: 0x83 :: req.drop 2)))) ∧
          (leAt req 3 1 ≤ 5 ∨ leAt req 3 1 = 0xFF → bitOf (leAt req 2 1) 0 = true →
            exec (.getMeasurements c req) s = .next (s.mbxPut (.sign c (0x12 :: 0xE0 :: req.drop 2))))) ∧
        (∀ u b, leAt req 3 1 ≤ 5 ∨ leAt req 3 1 = 0xFF → bitOf (leAt req 2 1) 0 = false → s.measurements req = (u, b) →
          exec (.getMeasurements c req) s = .next (u.emit (.reply c.val b))))) ∧
    (∀ q u b, s.sentinelRuns = true → s.slot = true → s.rst.core = true → s.mbxPick = some (.sign c q) →
        (if leAt q 1 1 = 0x83 then (s.mbxFree (.sign c q)).challengeAuth q else (s.mbxFree (.sign c q)).measurements q) =
          (u, b) →
        (s.mbxFree (.sign c q)).spdmThere c = true →
      exec .mailboxServe s = .next (u.emit (.reply c.val b)))

/-- The rings: RING_ENABLE, RING_DISABLE, RING_DRAINED, SQ_DOORBELL, CQ_DOORBELL, ENTRY_FETCH, FETCH_BUS_ERROR,
COALESCE_TIMEOUT, EV_DOORBELL and EVSIZE_WRITE. Rules they follow: R10, R214, R226 to R230, R232, R234, R235, R239, R455. -/
def Obligations.RingInterfaceCommandsComplete : Prop :=
  (∀ s r, s.ringReach r = true → s.on (RNG_CTL_EN (ringKey r)) = false → (s.put (RNG_CTL_EN (ringKey r)) 1).get (RNG_STAT_STATE (ringKey r)) = 0 →
    exec (.ringEnable r) s = .next ((s.put (RNG_CTL_EN (ringKey r)) 1).ringStart r)) ∧
  (∀ s r, s.ringReach r = true → s.on (RNG_CTL_EN (ringKey r)) = true →
    exec (.ringDisable r) s = .next (((s.put (RNG_CTL_EN (ringKey r)) 0).put (RNG_STAT_STATE (ringKey r)) 2).modRing r
      fun x => { x with reen := false })) ∧
  (∀ s r, s.get (RNG_STAT_STATE (ringKey r)) = 2 → s.ringCmds r = [] → (s.ring r).held = [] → (s.ring r).reen = false →
    exec (.ringDrained r) s = .next (s.put (RNG_STAT_STATE (ringKey r)) 0)) ∧
  (∀ s r v n h t, n = ringSize (s.get (RNG_SQSIZE_LOG2 (ringKey r))) → h = s.get (RNG_SQHEAD_HEAD (ringKey r)) →
      t = (s.ring r).tail → s.ringReach r = true → v.toNat ≠ t → v.toNat < n →
      (v.toNat + n - t) % n ≤ (h + 2 * n - t - 1) % n →
    exec (.sqDoorbell r v) s = .next (s.modRing r fun x => { x with tail := v.toNat })) ∧
  (∀ s r v n, n = ringSize (s.get (RNG_SQSIZE_LOG2 (ringKey r))) → s.ringReach r = true →
      v.toNat ≠ (s.ring r).tail → n ≤ v.toNat →
    exec (.sqDoorbell r v) s = .next (s.badDoorbell r 0x0C)) ∧
  (∀ s r v n h, n = ringSize (s.get (RNG_CQSIZE_LOG2 (ringKey r))) → h = (s.ring r).cqHead →
      s.ringReach r = true → v.toNat < n →
      (v.toNat + n - h) % n ≤ (s.get (RNG_CQTAIL_WR (ringKey r)) + n - h) % n →
    exec (.cqDoorbell r v) s = .next (s.modRing r fun x => { x with cqHead := v.toNat })) ∧
  (∀ s r v n, n = ringSize (s.get (RNG_CQSIZE_LOG2 (ringKey r))) → s.ringReach r = true → n ≤ v.toNat →
    exec (.cqDoorbell r v) s = .next (s.badDoorbell r 0x20)) ∧
  (∀ s r bytes, s.ringPick = some r →
    exec (.entryFetch bytes) s = .next ((upTo (s.fetchLimit r)).foldl
      (fun s i => s.fetchOne r (sqEntryOf (fitTo 64 (bytes.drop (64 * i))))) (s.ringRead r))) ∧
  (∀ s r, s.ringPick = some r →
    exec .fetchBusError s =
      .next (((s.ringRead r).put (RNG_STAT_STATE (ringKey r)) 3).put (RNG_STAT_FETCHERR (ringKey r)) 1)) ∧
  (∀ s r, 0 < (s.ring r).unsig → s.get (RNG_CQVEC_COAL_TIME (ringKey r)) ≠ 0 → s.due (s.ring r).unsigEnd = true →
    exec (.coalesceTimeout r) s = .next (s.raiseRing r)) ∧
  (∀ s v n h, s.ownerReach = true → n = ringSize (s.get RNG_EVSIZE_LOG2) → h = s.rng.evHead → v.toNat % 65536 < n →
      (v.toNat % 65536 + n - h) % n ≤ (s.get RNG_EVTAIL_WR + n - h) % n →
    exec (.evDoorbell v) s = .next ({ s with rng := { s.rng with evHead := v.toNat % 65536 } } : State).evPost) ∧
  (∀ s v, s.ownerReach = true → ringSize (s.get RNG_EVSIZE_LOG2) ≤ v.toNat % 65536 →
    exec (.evDoorbell v) s = .next (s.badAccess none 0xB08C)) ∧
  (∀ s v, s.ownerReach = true → 4 ≤ v.toNat % 16 → v.toNat % 16 ≤ 12 → s.get RNG_EVSIZE_LOG2 ≠ 0 →
    exec (.evsizeWrite v) s = .next (s.put RNG_EVSIZE_LOG2 (v.toNat % 16))) ∧
  (∀ s v u, s.ownerReach = true → 4 ≤ v.toNat % 16 → v.toNat % 16 ≤ 12 → s.get RNG_EVSIZE_LOG2 = 0 →
      u = ((s.put RNG_EVSIZE_LOG2 (v.toNat % 16)).put RNG_EVTAIL_WR 0).put RNG_EVTAIL_PHASE 1 →
    exec (.evsizeWrite v) s = .next ({ u with rng := { u.rng with evHead := 0 } } : State).evPost)

/-- The links and the functions: LINK_UP, HOT_RESET, DL_DOWN, FAILOVER, PERST_ASSERT, PME_TURN_OFF, VI_ORPHAN, VI_SERVED,
VF_FLR, PF_FLR and SMBCFG_WRITE. Rules they follow: R189, R191, R193, R203, R204, R206, R208, R216, R217, R338, R454, R474.
-/
def Obligations.LinkCommandsComplete : Prop :=
  (∀ s p rate x2 v w, s.coreRuns = true → s.on (idleF p) = false → s.linkUp p = false → s.downOf p = none →
      v = ((s.put (linkF p) 2).put (rateF p) (min rate.val (s.get (HST_PORTCFG_MAXRATE p.num)))).putB (widthF p) x2 →
      w = ({ v with hst := if p = Port.hpa then { v.hst with perstA := false, l23A := false }
        else { v.hst with perstB := false, l23B := false } } : State) →
    exec (.linkUp p rate x2) s = .next ((w.log 0x7001 p.num [some (argCode 0x7001
      (min rate.val (s.get (HST_PORTCFG_MAXRATE p.num)) + 4 * b2n x2))]).servedShow)) ∧
  (∀ s p, s.linkUp p = true → exec (.hotReset p) s =
    .next ((((s.log 0x7002 p.num [some (argCode 0x7002 0)]).rollback p).linkReset p 12).servedShow)) ∧
  (∀ s p, s.linkUp p = true → exec (.dlDown p) s =
    .next ((((s.put (linkF p) 0).log 0x7002 p.num [some (argCode 0x7002 1)]).rollback p).setDown p
      (some (((s.put (linkF p) 0).log 0x7002 p.num [some (argCode 0x7002 1)]).rollback p).tb.ticks))) ∧
  (∀ s p k, s.downOf p = some k → k < s.tb.ticks → exec (.failover p) s = .next (s.failover p)) ∧
  (∀ s p, exec (.perstAssert p) s = .next (({ s with hst := if p = Port.hpa then { s.hst with perstA := true } else
    { s.hst with perstB := true } } : State).dlDown p)) ∧
  (∀ s p, s.linkUp p = true → exec (.pmeTurnOff p) s = .next (({ s with hst := if p = Port.hpa then
    { s.hst with pmeA := true } else { s.hst with pmeB := true } } : State).pmeTry p)) ∧
  (∀ s p fn, exec (.viOrphan p fn false) s = .next (s.setFn p fn.val false).servedShow) ∧
  (∀ s p u, u = (s.setFn p 0 false).put (d3F p) 1 → u.linkUp p = true →
    exec (.viOrphan p 0 true) s = .next (u.put (linkF p) 3).servedShow) ∧
  (∀ s p fn cfg, s.linkUp p = true → fn ≠ 0 →
    exec (.viServed p fn cfg) s = .next ((s.setFn p fn.val true).setCfg p fn.val cfg).servedShow) ∧
  (∀ s p cfg, s.linkUp p = true → exec (.viServed p 0 cfg) s =
    .next (((((s.setFn p 0 true).setCfg p 0 cfg).put (d3F p) 0).put (linkF p) 2).servedShow)) ∧
  (∀ s p v u, s.linkUp p = true → s.downOf p.other = none →
      u = (((s.setFn p (fnOf (some v)) false).setCfg p (fnOf (some v)) FnCfg.reset).msixReset (some v) p).servedShow →
      u.viEn (some v) = true → u.portOf (some v) = p → u.ownerBusy (some v) = false →
    exec (.vfFlr p v) s = .next (u.flrEnd v)) ∧
  (∀ s p v u, s.linkUp p = true → s.downOf p.other = none →
      u = (((s.setFn p (fnOf (some v)) false).setCfg p (fnOf (some v)) FnCfg.reset).msixReset (some v) p).servedShow →
      u.viEn (some v) = true → u.portOf (some v) = p → u.ownerBusy (some v) = true → u.hst.flr.contains (p, v) = false →
    exec (.vfFlr p v) s = .next { u with hst := { u.hst with flr := u.hst.flr ++ [(p, v)] } }) ∧
  (∀ s p u v, s.linkUp p = true →
      u = ((s.log 0x7002 p.num [some (argCode 0x7002 2)]).rollback p).failoverMove p →
      v = [(linkF p, s.get (linkF p)), (rateF p, s.get (rateF p)), (widthF p, s.get (widthF p))].foldl
        (fun (t : State) x => t.put x.1 x.2) (u.linkReset p 14) →
    exec (.pfFlr p) s = .next ((v.log 0x7006 0 [some (((u.boundTo p).map fun w => u.ownerItems w).sum)]).servedShow)) ∧
  (∀ s p v t, t = (s.put HST_SMBCFG_ADDR v.toNat).touch → s.reg 0xA02C ≠ t.reg 0xA02C →
    exec (.smbcfgWrite p v) s = .next (t.journal ⟨Origin.code (.owner p), .commit, false, false, 0,
      [jItem 0xA02C (s.reg 0xA02C) (t.reg 0xA02C)], t.now, .change⟩))

/-- Host accesses and translation: BAD_ACCESS, UNBOUND_ACCESS, INVALIDATION_REQUEST, INVALIDATION_COMPLETE,
TRANSLATION_FAULT, PAGE_REQUEST_RESPONSE, PRI_TIMEOUT and COMPLETION_TIMEOUT. Rules they follow: R196, R200, R201, R211 to
R214, R268, R313, R314. -/
def Obligations.HostAccessCommandsComplete : Prop :=
  (∀ s p fn bar2 off v, s.linkUp p = true →
      v = ((((((s.put HST_ERRSTAT_BADACC 1).put HST_ERRADDR_OFFSET off.toNat).put HST_ERRADDR_FUNC fn.val).put
        HST_ERRADDR_PORT p.num).putB HST_ERRADDR_BAR bar2).log 0x7005 fn.val [some off.toNat]) →
    exec (.badAccess p fn bar2 off .write) s = .next v ∧
      exec (.badAccess p fn bar2 off .read) s = .next ((v.emit (.refuse p false)).aerReport p fn.val .completerAbort)) ∧
  (∀ s p fn bar2 off, s.linkUp p = true →
    exec (.badAccess p fn bar2 off .atomic) s = .next ((s.emit (.refuse p true)).aerReport p fn.val .unsupported)) ∧
  (∀ s p v, s.linkUp p = true → (s.viEn (some v) = false ∨ s.portOf (some v) ≠ p) →
    exec (.unboundAccess p v true) s = .next (s.count HST_ERRSTAT_UNBOUND) ∧
      exec (.unboundAccess p v false) s =
        .next ((s.emit (.refuse p true)).aerReport p (fnOf (some v)) .unsupported)) ∧
  (∀ s p fn a lo hi, s.linkUp p = true → s.hst.inval.length < 8 →
    exec (.invalidationRequest p fn a lo hi) s = .next ({ s with hst := { s.hst with
      atc := s.hst.atc.filter fun e =>
        !(e.1 == p && e.2.1 == fn.val && e.2.2.1 == a && decide (lo ≤ e.2.2.2.1) && decide (e.2.2.2.1 ≤ hi))
      inval := s.hst.inval ++ [(p, fn.val, a)] } } : State).atcShow) ∧
  (∀ s p fn e, (s.hst.inval.find? fun e => e.1 == p && e.2.1 == fn.val) = some e → s.ownerBusy (ownerOfFn fn.val) = false →
    exec (.invalidationComplete p fn) s =
      .next ((({ s with hst := { s.hst with inval := s.hst.inval.erase e } } : State).atcShow).emit
        (.invDone p fn.val))) ∧
  (∀ s n addr w u, s.coreRuns = true → s.pgBusy (.sub n) = true → s.atsOn (s.pgWho (.sub n)) = true →
      (s.hst.pri.any fun q => q.tgt == .sub n) = false → u = s.atcDrop (s.pgWho (.sub n)) addr →
      (u.fnCfg (u.portOf (u.pgWho (.sub n))) 0).pri = none →
    exec (.translationFault (.sub n) addr w) s = .next (u.pgRefuse (.sub n) addr)) ∧
  (∀ s n addr w u v, s.coreRuns = true → s.pgBusy (.sub n) = true → s.atsOn (s.pgWho (.sub n)) = true →
      (s.hst.pri.any fun q => q.tgt == .sub n) = false → u = s.atcDrop (s.pgWho (.sub n)) addr →
      (u.fnCfg (u.portOf (u.pgWho (.sub n))) 0).pri ≠ none →
      v = ({ u with hst := { u.hst with
        pri := u.hst.pri ++ [⟨u.pgWho (.sub n), .sub n, addr, w, 0, false⟩] } } : State).pgSuspend (.sub n) →
    exec (.translationFault (.sub n) addr w) s = .next v.atcShow.priSend) ∧
  (∀ s g ok q, s.priOf g = some q → exec (.pageRequestResponse g ok) s = .next (s.priEnd q ok)) ∧
  (∀ s g q, s.priOf g = some q → s.due q.end_ = true → exec (.priTimeout g) s = .next (s.priEnd q false)) ∧
  (∀ s g addr p, p = s.portOf (s.pgWho g) → (s.fnCfg p (fnOf (s.pgWho g))).cto ≠ none → s.npOut g = true →
    exec (.completionTimeout g addr) s =
      .next ((s.aerReport p (fnOf (s.pgWho g)) .completionTimeout).complTimeout addr g)) ∧
  (∀ (s : State) (n : Fin 32) addr, s.coreRuns = true → s.cch.miss = none → s.scSt n = scACTIVE → (s.sub n).ph = .op →
    s.complTimeout addr (.sub n) = s.scFail n 0x50 addr)

/-- The chain walker: SC_DOORBELL, CCE_FETCH, CCE_NOP, CCE_WAIT, WAIT_END, CCE_POST, CCE_JUMP, CCE_WRITE, CCE_READ,
CCE_CONTROL and CCE_SENSE. A VI's doorbell on a subchannel that is not its own only counts. Rules they follow: R199, R250 to
R252, R257 to R261, R263, R271, R275 to R281, R351. -/
def Obligations.WalkerCommandsComplete : Prop :=
  (∀ s p n, s.reaches (.owner p) = true → s.coreRuns = true → s.scSt n.val = scTAIL →
      s.on (CPE_SCSTAT0_SSR_FAIL n.val) = false → s.on (CPE_SCCFG_EN n.val) = true →
    exec (.scDoorbell (.owner p) n) s = .next (s.scReread n.val)) ∧
  (∀ s p n, s.reaches (.owner p) = true → s.coreRuns = true → s.scSt n.val ≠ scTAIL → s.scSt n.val ≠ scIDLE →
      s.scSt n.val ≠ scSTOPPED →
    exec (.scDoorbell (.owner p) n) s = .next (s.put (CPE_SCSTAT0_DB_PEND n.val) 1)) ∧
  (∀ s v n, s.reaches (.vi v) = true → s.coreRuns = true → s.scOwner n.val ≠ some v →
    exec (.scDoorbell (.vi v) n) s =
      .next ((s.count HST_ERRSTAT_FOREIGN_DB).badAccess (some v) (0x1000 + 4 * n.val))) ∧
  (∀ s n b m, s.scFetching n.val = true → (s.sub n.val).got = some (b, m) →
    exec (.cceFetch n) s = .next (s.scJudge n.val b m)) ∧
  (∀ s n v b buf, s.scFetching n.val = true → (s.sub n.val).got = none → (s.sub n.val).force = false →
      s.cchLook (s.scCode n.val) (s.scAddr n.val) = (v, .hit b buf) →
    exec (.cceFetch n) s = .next ((v.missEnd n.val).scJudge n.val b buf)) ∧
  (∀ s n v, s.scFetching n.val = true → (s.sub n.val).got = none → (s.sub n.val).force = false →
      s.cchLook (s.scCode n.val) (s.scAddr n.val) = (v, .miss) →
    exec (.cceFetch n) s = .next (v.scIssue n.val)) ∧
  (∀ s n, s.scReady n.val 0x09 = true → exec (.cceNop n) s = .next (s.scEntryDone n.val 0 (s.scFollow n.val))) ∧
  (∀ s n ph1 u, s.scReady n.val 0x0A = true → u = s.put (CPE_SCSTAT0_STATE n.val) scWAITING →
    exec (.cceWait n ph1) s = .next (u.modSub n.val fun x =>
      { x with waitEnd := if ph1 then s.afterTick x.cce.aux else s.after x.cce.aux })) ∧
  (∀ s n u, s.coreRuns = true → s.scSt n.val = scWAITING → s.due (s.sub n.val).waitEnd = true →
      u = s.put (CPE_SCSTAT0_STATE n.val) scACTIVE →
    exec (.waitEnd n) s = .next (u.scEntryDone n.val 0 (s.scFollow n.val))) ∧
  (∀ s n u c v, s.scReady n.val 0x0B = true → s.cch.stores.length < 4 → u = s.touch → c = (u.sub n.val).cce →
      v = u.cchStore (u.scCode n.val) c.addr (leBytes 8 u.now ++ leBytes 2 c.count ++ leBytes 2 c.dev ++ leBytes 1 n.val ++
        zeros 1 ++ leBytes 2 (u.get (CPE_SCSEQ_SEQ n.val))) →
    exec (.ccePost n) s = .next (v.scEntryDone n.val 0 (u.scFollow n.val))) ∧
  (∀ s n k u, s.scReady n.val 0x0C = true →
      k = (if (s.sub n.val).jumpTick = s.tb.ticks then (s.sub n.val).jumps else 0) → k < 16 →
      u = s.modSub n.val (fun x => { x with jumps := k + 1, jumpTick := s.tb.ticks }) →
    exec (.cceJump n) s = .next (u.scEntryDone n.val 0 (s.sub n.val).cce.addr)) ∧
  (∀ s n, s.scReady n.val 0x20 = true → exec (.cceWrite n) s = .next (s.cceStart n.val)) ∧
  (∀ s n, s.scReady n.val 0x21 = true → exec (.cceRead n) s = .next (s.cceStart n.val)) ∧
  (∀ s n, s.scReady n.val 0x22 = true → exec (.cceControl n) s = .next (s.cceStart n.val)) ∧
  (∀ s n lv, s.served (s.scOwner n.val) = true → s.rebinding (s.scOwner n.val) = false → s.scReady n.val 0x23 = true →
      s.scClass n.val = 0 → exec (.cceSense n lv) s = .next (s.senseRun n.val lv)) ∧
  (∀ s n lv, s.served (s.scOwner n.val) = true → s.rebinding (s.scOwner n.val) = false → s.scReady n.val 0x23 = true →
      s.scClass n.val ≠ 0 →
    exec (.cceSense n lv) s = .next ((s.modSub n.val fun u => { u with ph := .adm }).present n.val (s.scClass n.val)
      (s.originOf (s.scOwner n.val))))

/-- The Chain Cache and the store buffer: CHAIN_CACHE_FILL, STORE_DRAIN, CCH_INVAL_ALL, CCH_CTL_DRAIN and CCH_CNT_CLR. Rules
they follow: R276, R277, R281, R285, R458. -/
def Obligations.CacheCommandsComplete : Prop :=
  (∀ s bytes m u, s.cch.miss = some m → (s.modCch fun c => { c with miss := none }).scFetching m.sub = true →
      (s.modCch fun c => { c with miss := none }).scAddr m.sub = m.addr →
      (s.modCch fun c => { c with miss := none }).scCode m.sub = m.owner → m.install = true →
      (s.modCch fun c => { c with miss := none }).on CCH_CFG_EN = true →
      u = (s.modCch fun c => { c with miss := none }).modCch (fun c =>
        c.install m.owner m.addr (fitTo (64 - m.addr % 64) bytes)) →
    exec (.chainCacheFill bytes false) s = .next (u.modSub m.sub fun x =>
      { x with got := some ((fitTo (64 - m.addr % 64) bytes).take 16, true) })) ∧
  (∀ s bytes m u, s.cch.miss = some m → u = s.modCch (fun c => { c with miss := none }) → u.scFetching m.sub = true →
      u.scAddr m.sub = m.addr → u.scCode m.sub = m.owner →
    exec (.chainCacheFill bytes true) s = .next (u.scStop m.sub whyERROR 0x50 0 m.addr)) ∧
  (∀ s e l, s.cch.stores = e :: l →
    exec .storeDrain s = .next ((s.modCch fun c => { c with stores := l }).hostPut (whoOfCode e.owner) e.addr e.bytes
      none)) ∧
  (∀ s, s.ownerReach = true → exec .cchInvalAll s = .next (s.cchInval 0 16 0).1) ∧
  (∀ s, s.ownerReach = true → exec .cchCtlDrain s = .next s.storeDrainAll) ∧
  (∀ s, s.ownerReach = true → exec .cchCntClr s = .next ((((s.put CCH_HITCNT_COUNT 0).put CCH_MISSCNT_COUNT 0).put CCH_VBHITCNT_COUNT 0).put
    CCH_STAT_REFETCH 0))

/-- The Bulk Mover: DC_DOORBELL, DESCRIPTOR_FETCH, BMV_BURST_GRANT, BMV_BURST_READ, WRITE_RESPONSE and BMV_ENGINE_STOP.
Rules they follow: R199, R293, R297 to R303, R306, R308, R313 to R315. -/
def Obligations.BulkMoverCommandsComplete : Prop :=
  (∀ s v n h, s.reaches (.vi v) = true → s.coreRuns = true → s.dcOwner n.val ≠ some v →
    exec (.dcDoorbell (.vi v) n h) s =
      .next ((s.count HST_ERRSTAT_FOREIGN_DB).badAccess (some v) (0x1100 + 4 * n.val))) ∧
  (∀ s p n v u, s.reaches (.owner p) = true → s.coreRuns = true → v.toNat % 65536 < s.crqSize n.val →
      (v.toNat % 65536 + s.crqSize n.val - s.get (BMV_DCCRQPTR_HEAD n.val)) % s.crqSize n.val ≤ s.crqUnread n.val →
      u = ((s.put (BMV_DCCRQPTR_HEAD n.val) (v.toNat % 65536)).dcProgress n.val).dcPrefetch n.val →
      u.on BMV_STAT_ESTOP = false → u.dcSt n.val = dcTAIL → u.on (BMV_DCCFG_EN n.val) = true →
    exec (.dcDoorbell (.owner p) n v) s = .next (u.dcReread n.val)) ∧
  (∀ s p n v u, s.reaches (.owner p) = true → s.coreRuns = true → s.crqSize n.val ≤ v.toNat % 65536 →
      u = (((s.put (BMV_DCSTAT_BADDB n.val) 1).badAccess none (0xE300 + 4 * n.val)).dcProgress n.val).dcPrefetch n.val →
      u.on BMV_STAT_ESTOP = false → u.dcSt n.val ≠ dcTAIL → u.dcSt n.val ≠ dcIDLE → u.dcSt n.val ≠ dcSTOPPED →
    exec (.dcDoorbell (.owner p) n v) s = .next ((u.put (BMV_DCSTAT_DB_PEND n.val) 1).dcKick n.val)) ∧
  (∀ s n bytes, s.coreRuns = true → (s.chan n.val).fetching = true → s.dcSt n.val = dcACTIVE →
    exec (.descriptorFetch n bytes) s =
      .next ((s.modChan n.val fun c => { c with fetching := false }).dcJudge n.val (fitTo 64 bytes) false)) ∧
  (∀ s n bytes, (s.chan n.val).fetching = false → (s.chan n.val).preAsk = true →
    exec (.descriptorFetch n bytes) s =
      .next (s.modChan n.val fun c => { c with preAsk := false, pre := some (fitTo 64 bytes) })) ∧
  (∀ s n d u p, s.coreRuns = true → s.on BMV_STAT_ESTOP = false → (s.bmv.chans.map fun c => c.flight.length).sum < 8 →
      s.dcPick = some n → (s.chan n).desc = some d → (s.chan n).ph = .run → d.srcX = false → d.dstX = false →
      u = { s with bmv := { s.bmv with wheel := (s.bmv.wheel + 1) % 15, last := n } } → p = (u.chan n).issued →
    exec .bmvBurstGrant s = .next (((u.modChan n fun c => { c with
      issued := p + d.burstLen p, flight := c.flight ++ [⟨p, d.burstLen p⟩] }).hostRd
        ((u.modChan n fun c => { c with
          issued := p + d.burstLen p, flight := c.flight ++ [⟨p, d.burstLen p⟩] }).dcOwner n) (d.srcAt p)
        (d.burstLen p)).dcPrefetch n)) ∧
  (∀ s n data err, exec (.bmvBurstRead n data err) s = .next (s.burstRead n.val data err).xSettle) ∧
  (∀ s n k d, (s.chan n.val).resp = some k → (s.chan n.val).desc = some d →
    exec (.writeResponse n true) s = .next ((((s.modChan n.val fun c => { c with resp := none }).modChan n.val fun c =>
      { c with conf := k }).dcShow n.val).dcProgress n.val)) ∧
  (∀ s n k d, (s.chan n.val).resp = some k → (s.chan n.val).desc = some d →
    exec (.writeResponse n false) s = .next ((s.modChan n.val fun c => { c with resp := none }).dcDataError n.val 2
      (d.dstAt (k - 1) / 4 * 4))) ∧
  (∀ s n tmo, exec (.bmvEngineStop n tmo) s = .next (s.engineStop n.val tmo))

/-- The device ports: PORT_BURST, FLASH_BUSY_TIMEOUT, AS_CHARACTER_RECEIVED, AS_READ_IDLE_END, IBI_RECEIVED, DP_HOTJOIN,
GPIO_EDGE, SFDP_DISCOVERY, PB_BUS_IDLE and AS_CTS_CHANGE (R346, R348, R357, R360, R362, R364, R366, R371). A burst whose
reads wait on the store buffer has not begun. Rules they follow: R248, R347, R354, R357, R360, R362 to R365, R463. -/
def Obligations.PortCommandsComplete : Prop :=
  (∀ s x n b t, (s.dport x.val).waitIdle = false → s.burstPick x.val = some n → t = s.burstBegin x.val n b →
      t.burstWaits x.val n b = false →
    ((t.sub n).ended = true → exec (.portBurst x b) s = .next (t.opShort n)) ∧
    ((t.sub n).ended = false →
      (x.val = 12 → exec (.portBurst x b) s = .next (t.gpioOp n b)) ∧
      (x.val < 12 → (t.sub n).cce.code = 0x22 → t.burstErr x.val n b = none →
        exec (.portBurst x b) s = .next (t.controlOp x.val n b)) ∧
      (∀ e, x.val < 12 → (t.sub n).cce.code = 0x22 → t.burstErr x.val n b = some e →
        exec (.portBurst x b) s = .next (t.devFail x.val n e)) ∧
      (x.val < 12 → (t.sub n).cce.code ≠ 0x22 → (t.sub n).opAgain ≠ [] →
        exec (.portBurst x b) s = .next (t.sendAgain x.val n b)) ∧
      (x.val < 12 → (t.sub n).cce.code ≠ 0x22 → (t.sub n).opAgain = [] → t.flashWrite x.val n = true →
        exec (.portBurst x b) s = .next (t.flashProgram x.val n b)) ∧
      (10 ≤ x.val → x.val < 12 → (t.sub n).cce.code = 0x21 → (t.sub n).opAgain = [] → t.flashWrite x.val n = false →
        exec (.portBurst x b) s = .next (t.asRead x.val n b)) ∧
      (x.val < 10 → (t.sub n).cce.code ≠ 0x22 → (t.sub n).opAgain = [] → t.flashWrite x.val n = false →
        exec (.portBurst x b) s = .next (t.dataOp x.val n b)))) ∧
  (∀ s x k n, n = s.get (DPT_PORTSTAT_HOLDER (8 + x.val)) → (s.sub n).busy = some k → s.coreRuns = true → s.due k = true →
      s.on (DPT_PORTSTAT_OPEN (8 + x.val)) = true →
    exec (.flashBusyTimeout x) s = .next (s.scFail n 0x77 0)) ∧
  (∀ s x c bad brk u, s.coreRuns = true → s.on (DPT_ASCFG_EN x.val) = true →
      u = s.modPort (10 + x.val) (fun p => { p with
        count := (p.count + 1) % 65536, rxTick := s.tb.ticks, brk := p.brk || brk }) →
      (u.dport (10 + x.val)).rx.length < 64 →
    exec (.asCharacterReceived x c bad brk) s =
      .next (u.modPort (10 + x.val) fun p => { p with rx := p.rx ++ [(c, bad)] })) ∧
  (∀ s x c bad brk u, s.coreRuns = true → s.on (DPT_ASCFG_EN x.val) = true →
      u = s.modPort (10 + x.val) (fun p => { p with
        count := (p.count + 1) % 65536, rxTick := s.tb.ticks, brk := p.brk || brk }) →
      64 ≤ (u.dport (10 + x.val)).rx.length →
      u.on (DPT_PORTSTAT_OVR (10 + x.val)) = false →
    exec (.asCharacterReceived x c bad brk) s = .next ((u.put (DPT_PORTSTAT_OVR (10 + x.val)) 1).modPort (10 + x.val)
      fun p => { p with pre := p.rx.length })) ∧
  (∀ s x n, n = s.get (DPT_PORTSTAT_HOLDER (10 + x.val)) → s.coreRuns = true → s.on (DPT_PORTSTAT_OPEN (10 + x.val)) = true →
      (s.sub n).cce.code = 0x21 → (s.sub n).ph = .op → s.scSt n = scACTIVE → (s.dport (10 + x.val)).rx = [] →
      s.due ((s.dport (10 + x.val)).rxTick + 1 + (s.scLead n).dev % 256) = true →
    exec (.asReadIdleEnd x) s = .next (s.opShort n)) ∧
  (∀ s x a b, s.coreRuns = true → s.on (DPT_ITCFG_EN x.val) = true →
    exec (.ibiReceived x a b) s = .next ((((s.put (DPT_IBISTAT_ADDR x.val) a.toNat).put (DPT_IBISTAT_PAYLOAD x.val)
      b.toNat).count (DPT_IBISTAT_COUNT x.val)).modPort (6 + x.val) fun p => { p with ibiPend := true })) ∧
  (∀ s x a, s.coreRuns = true → s.on (DPT_ITCFG_EN x.val) = true →
    exec (.dpHotjoin x a) s = .next ((s.put (DPT_IBISTAT_HOTJOIN x.val) 1).log 0xA005 (6 + x.val) [some a])) ∧
  (∀ s g, s.rst.core = true → bitOf (s.get DPT_GPIOIN_LEVELS) g.val = false →
      bitOf ((s.put DPT_GPIOIN_LEVELS (setBit (s.get DPT_GPIOIN_LEVELS) g.val true)).get (DPT_GPIOCFG_EDGE g.val)) 0 = true →
    ∃ t, exec (.gpioEdge g true) s = .next t ∧ t.dpt.edges = setBit s.dpt.edges g.val true ∧
      t.regs = (s.put DPT_GPIOIN_LEVELS (setBit (s.get DPT_GPIOIN_LEVELS) g.val true)).regs ∧ t.out = s.out) ∧
  (∀ s c w, s.coreRuns = true → s.on (DPT_SPCFG_EN (c.val / 2)) = true →
      bitOf (s.get (DPT_SPCFG_CSMASK (c.val / 2))) (c.val % 2) = true →
    exec (.sfdpDiscovery c none w) s = .next (((upTo 6).foldl (fun s k => s.setReg (0x10100 + 0x20 * c.val + 4 * k) 0)
      s).log 0xA003 (8 + c.val / 2) [some (c.val % 2), some w])) ∧
  (∀ s c l w, s.coreRuns = true → s.on (DPT_SPCFG_EN (c.val / 2)) = true →
      bitOf (s.get (DPT_SPCFG_CSMASK (c.val / 2))) (c.val % 2) = true →
    exec (.sfdpDiscovery c (some l) w) s = .next (((upTo 6).foldl (fun s k =>
      (fieldsAt (0x10100 + 0x20 * c.val + 4 * k)).foldl (fun s f =>
        s.put ⟨0x10100 + 0x20 * c.val + 4 * k, f.lo, f.w⟩ (fieldOf (l.getD k 0) f.lo f.w)) s) s).put (DPT_SFDP0_VALID c.val)
          1)) ∧
  (∀ s x, exec (.pbBusIdle x) s = .next (s.modPort x.val fun p => { p with waitIdle := false })) ∧
  (∀ s x h, exec (.asCtsChange x h) s = .next (s.modPort (10 + x.val) fun p => { p with ctsHigh := h }))

/-- The smart-card ports: the activation, the responses and the events of chapter 16. Rules they follow: R371 to R374, R376,
R378 to R382, R384, R386, R390, R391. -/
def Obligations.CardEventCommandsComplete : Prop :=
  (∀ s p, s.on (CRD_PSTAT_PRESENT p.val) = false → s.rst.low = false →
    exec (.cardInsert p) s = .next ((((s.put (CRD_PSTAT_PRESENT p.val) 1).put (CRD_PSTAT_STATE p.val)
      (if s.rst.core then cdINACTIVE else 0)).log 0xB001 p.val []).autoAct p.val)) ∧
  (∀ s p, s.on (CRD_PSTAT_PRESENT p.val) = true → exec (.cardEmergency p) s = .next (s.cdRemove p.val)) ∧
  (∀ s p, (s.card p.val).vcc = true → (s.card p.val).ph ≠ .settle →
    exec (.cardSupplyFault p true) s = .next ((s.cdCut p.val 0x87).emergency p.val 2 cdFAULT)) ∧
  (∀ s p, (s.card p.val).vcc = true →
    exec (.cardSupplyFault p false) s = .next ((s.cdCut p.val 0x87).emergency p.val 3 cdFAULT)) ∧
  (∀ s p, (s.card p.val).ph = .settle → exec (.cardSupplySettled p) s =
    .next (s.modCard p.val fun c => { c with ph := .reset, io := true, clk := .running })) ∧
  (∀ s p, (s.card p.val).ph = .reset → exec (.cardRstRelease p) s =
    .next (s.modCard p.val fun c => { c with ph := .window, rst := true })) ∧
  (∀ s p chars gap u, (s.card p.val).ph = .window →
      u = (((upTo 9).foldl (fun s i => s.setReg (0x9050 + 4 * (9 * p.val + i)) (BitVec.ofNat 32 (leAt (chars.take 33)
        (4 * i) 4))) s).put (CRD_PSTAT_ATRLEN p.val) (chars.take 33).length).modCard p.val (fun c =>
          { c with atr := chars.take 33 }) →
    exec (.cardAtr p chars true gap) s = .next (u.classFail p.val 0x82)) ∧
  (∀ s p chars u, (s.card p.val).ph = .window → (readAtr chars).ok = true → (readAtr chars).t15 = none →
      u = (((upTo 9).foldl (fun s i => s.setReg (0x9050 + 4 * (9 * p.val + i)) (BitVec.ofNat 32 (leAt (chars.take 33)
        (4 * i) 4))) s).put (CRD_PSTAT_ATRLEN p.val) (chars.take 33).length).modCard p.val (fun c =>
          { c with atr := chars.take 33 }) →
    exec (.cardAtr p chars false false) s = .next ((u.atrAccept p.val (readAtr chars)).cdGo p.val)) ∧
  (∀ s p, (s.card p.val).ph = .window → exec (.cardAtrWindowEnd p) s = .next (s.classFail p.val 0x81)) ∧
  (∀ s p k, (s.card p.val).ph = .gap → s.nextClass p.val = some k →
    exec (.cardClassNext p) s = .next (s.classStart p.val k)) ∧
  (∀ s p, (s.card p.val).ph = .pps → exec (.cardPpsResponse p (some (s.card p.val).pps)) s =
    .next ((s.paramsApply p.val (s.protoChosen p.val (readAtr (s.card p.val).atr)) (pairProposed (readAtr
      (s.card p.val).atr))).cdGo p.val)) ∧
  (∀ s p, (s.card p.val).ph = .pps → s.on (CRD_PCFG0_PPS_FB p.val) = false → (s.card p.val).warm = false →
    exec (.cardPpsResponse p none) s = .next (s.actFail p.val 0x83)) ∧
  (∀ s p, (s.card p.val).ph = .run → (s.card p.val).exch ≠ none → s.get (CRD_PARAM0_PROTO p.val) = 1 →
    exec (.cardWaitTimeout p) s = .next (s.t1Error p.val 0x85)) ∧
  (∀ s p, (s.card p.val).ph = .run → (s.card p.val).exch ≠ none → s.get (CRD_PARAM0_PROTO p.val) ≠ 1 →
    exec (.cardWaitTimeout p) s = .next (s.t0Fail p.val 0x85 2)) ∧
  (∀ s p chars pcb inf, s.rst.core = true → (s.card p.val).ph = .run → (s.card p.val).exch ≠ none →
      s.get (CRD_PARAM0_PROTO p.val) = 1 → s.blockOf p.val chars = .ok (pcb, inf) →
    exec (.cardResponseReceived p chars false) s = .next (s.t1Block_ p.val pcb inf)) ∧
  (∀ s p chars, s.rst.core = true → (s.card p.val).ph = .run → (s.card p.val).exch ≠ none →
      s.get (CRD_PARAM0_PROTO p.val) ≠ 1 →
    exec (.cardResponseReceived p chars false) s = .next (chars.foldl (fun s b => s.t0Char p.val b) s)) ∧
  (∀ s p ind, ind = ((readAtr (s.card p.val).atr).t15.getD 0) / 64 % 4 → s.cdSt p.val = cdACTIVE → s.coreRuns = true →
      s.on (CRD_PCFG0_CSTOP_EN p.val) = true → ind ≠ 0 → (s.card p.val).exch = none → (s.card p.val).queue = [] →
      (s.card p.val).exclQ = [] → s.on (sessExcl p.val) = false →
      s.due ((s.card p.val).idleTick + 1 + s.get (CRD_PCFG2_CSTOP_IDLE p.val)) = true →
    exec (.cardClockStop p) s = .next ((s.put (CRD_PSTAT_STATE p.val) cdSTOPPED).modCard p.val fun c =>
      { c with clk := if ind = 2 then .high else .low })) ∧
  (∀ s p u, s.on (sessExcl p.val) = true → s.due (s.card p.val).exclEnd = true →
      u = { s with crd := { s.crd with
        sess := s.crd.sess.map fun (x : Sess) =>
          if x.handle == s.get (sessExHandle p.val) then { x with expired := true } else x } } →
    exec (.cardExclExpired p) s =
      .next (((u.exclEnd p.val).log 0xB008 p.val [some (s.get (sessExHandle p.val))]).cdGo p.val))

/-- The lamps: LAMP_PERIOD_START, LAMP_DIAG_SAMPLE, LAMP_DIAG_STALE and LAMP_CLR. Rules they follow: R398, R402, R404 to
R406. -/
def Obligations.LampEventCommandsComplete : Prop :=
  (∀ s, s.tb.frame.toNat % 8 = 0 → exec .lampPeriodStart s = .next ((upTo 8).foldl (fun s c => s.lampPeriod c) s)) ∧
  (∀ s c ua mv u k, s.lampRuns c.val = true → onTime16 ≤ (s.lamp c.val).onTime → s.tb.frame.toNat % 8 = 0 →
      (s.lamp c.val).sampleAt ≠ s.tb.ticks → s.lampFind c.val ua mv = .short → s.get (LMP_STAT_DIAG c.val) ≠ diagSHORT →
      k = (if (s.lamp c.val).last = some .short then min 2 ((s.lamp c.val).run + 1) else 1) →
      u = s.modLamp c.val (fun l => { l with last := some .short, run := k, sampleAt := s.tb.ticks }) →
    exec (.lampDiagSample c ua mv) s = .next ((((u.put (LMP_STAT_SHORT_LATCH c.val) 1).modLamp c.val fun l =>
      { l with onTime := 0 }).put (LMP_STAT_DIAG c.val) diagSHORT).log 0xD002 c.val [some mv])) ∧
  (∀ s c ua mv u, s.lampRuns c.val = true → onTime16 ≤ (s.lamp c.val).onTime → s.tb.frame.toNat % 8 = 0 →
      (s.lamp c.val).sampleAt ≠ s.tb.ticks → s.lampFind c.val ua mv = .open_ → s.get (LMP_STAT_DIAG c.val) ≠ diagOPEN →
      (s.lamp c.val).last = some .open_ → (s.lamp c.val).run = 1 →
      u = s.modLamp c.val (fun l => { l with last := some .open_, run := 2, sampleAt := s.tb.ticks }) →
    exec (.lampDiagSample c ua mv) s = .next ((u.put (LMP_STAT_DIAG c.val) diagOPEN).log 0xD001 c.val
      [some (s.lamp c.val).level])) ∧
  (∀ s c, s.lampRuns c.val = true → s.get (LMP_STAT_DIAG c.val) = diagOK → (s.lamp c.val).sampleAt + 512 < s.tb.ticks →
    exec (.lampDiagStale c) s = .next (s.lampUnver c.val)) ∧
  (∀ s c, exec (.lampClr c) s = .next ((s.put (LMP_STAT_SHORT_LATCH c.val) 0).modLamp c.val fun l =>
    { l with last := none, run := 0 }))

/-- The CORE domain and its start: DOMAIN_POWER_DOWN, DOMAIN_DEADLINE, CORE_POWER_LOSS, WAKE_EVENT, WARM_ADOPT,
RST_CTL_CORE, CORE_STARTED, CORE_START_TIMEOUT, SERVICE_SLOT_VERIFY and SLOT_TIMEOUT. Rules they follow: R21, R150 to R152,
R289, R334 to R336, R341, R408, R412, R413, R416, R417, R420, R421. -/
def Obligations.DomainCommandsComplete : Prop :=
  (∀ s u, s.downReady = true → s.rst.downFor = some .heartbeat →
      u = (upTo 2).foldl (fun t p => t.cardDown p) (s.holdAll 5 (some 0x53) (fun _ => true) (fun _ => true)).storeDrainAll →
    exec .domainPowerDown s = .next { u with rst := { u.rst with downEnd := some (u.tb.ticks + 1) } }) ∧
  (∀ s t d, s.rst.downEnd = some t → s.rst.downFor = some d → s.due t = true → s.bmvBusy = false →
    exec .domainDeadline s = .next ((s.domainEnd d).afterDown d)) ∧
  (∀ s v, s.rst.core = true → s.coreLost 0x64 = (v, 0) → exec .corePowerLoss s = .next v.coreStart) ∧
  (∀ s v n, s.rst.core = true → s.coreLost 0x64 = (v, n) → n ≠ 0 → exec .corePowerLoss s =
    .next (v.log 0x8005 0xFF [some n, some (s.get CCH_SBMIRROR_OWNERS)]).coreStart) ∧
  (∀ s src, s.rst.low = false → s.rst.vault = false → bitOf (s.get RST_WAKECFG_SOURCES) src.val = true →
      (s.get RST_PSTATE_STATE = 1 ∨ s.get RST_PSTATE_STATE = 2) → s.wakeCond src.val = true →
    exec (.wakeEvent src) s = .next (s.wake src.val)) ∧
  (∀ s u v row, s.rst.adopt = true → s.rst.low = false → s.rst.vault = false → s.phase 4 = true →
      s.due (s.rst.warmTick + 8) = true →
      u = { s with rst := { s.rst with adopt := false }, pins := { s.pins with held := false } } →
      u.adoptFront.adoptRails.adoptSeq = (v, row) →
    exec .warmAdopt s = .next (v.adoptSwarm.log 0xE004 row
      [some (v.railMask fun st => st == rlON), some (v.railMask fun st => st == rlRISING)])) ∧
  (∀ s v n, s.rst.core = true → s.coreLost 0x64 = (v, n) → exec .rstCtlCore s = .next (v.coreReset 7 false n)) ∧
  (∀ s, s.snt.boot = 5 → s.on RST_CORECTL_CORE_EN = true → s.rst.core = false → s.due s.snt.bootEnd = true →
    exec .coreStartTimeout s = .next ((s.put RST_CORECTL_TMO 1).autonomousEnter 1)) ∧
  (∀ s a b c u w v, s.snt.boot = 5 → s.on RST_CORECTL_CORE_EN = true → s.rst.core = false → s.rst.low = false →
      suppliesOk a b c = true →
      u = (s.putB RST_RETSTAT_CFG_OK true).putB RST_RETSTAT_ITEM_OK true →
      w = { u.put RST_CORECTL_STARTED 1 with
        rst := { u.rst with core := true, retained := false, retBuilt := true }
        snt := { u.snt with boot := 6, bootEnd := u.after 400, slotB := u.on SNT_BOOTCFG_PREF, second := false } } →
      v = (((((w.setReg 0x3804 0).put SNT_BOOTSTAT0_FAIL_A 11).put SNT_BOOTSTAT0_FAIL_B 11).setReg 0x3808 0).setReg 0x380C
        0).orphanAll.unholdAll 32 (fun _ => true) (fun _ => true) →
    exec (.coreStarted true true a b c) s = .next ((upTo 2).foldl (fun t p => t.autoAct p)
      ((upTo 2).foldl (fun t p => t.putB (CRD_PSTAT_STATE p) (t.on (CRD_PSTAT_PRESENT p))) v))) ∧
  (∀ s x y a b c, suppliesOk a b c = false → exec (.coreStarted x y a b c) s = .next s) ∧
  (∀ s b u, s.snt.boot = 6 → s.rst.core = true → s.due s.snt.bootEnd = false →
      u = { s with snt := { s.snt with locked := 256 + (imageOf b).body.length } } →
      u.serviceCode (imageOf b) = 0 →
    exec (.serviceSlotVerify (some b)) s = .next (u.slotRun (imageOf b))) ∧
  (∀ s b u, s.snt.boot = 6 → s.rst.core = true → s.due s.snt.bootEnd = false →
      u = { s with snt := { s.snt with locked := 256 + (imageOf b).body.length } } →
      u.serviceCode (imageOf b) ≠ 0 →
    exec (.serviceSlotVerify (some b)) s = .next (u.slotFail (u.serviceCode (imageOf b)))) ∧
  (∀ s, s.snt.boot = 6 → s.rst.core = true → s.due s.snt.bootEnd = false →
    exec (.serviceSlotVerify none) s = .next (s.slotFail 10)) ∧
  (∀ s, s.snt.boot = 6 → s.rst.core = true → s.due s.snt.bootEnd = true → exec .slotTimeout s = .next (s.slotFail 9))

/-- The resets: COLD_RESET, RESET_N_LOW, RESET_N_LONG, RESET_N_RELEASE, RST_CTL_WARM, SENTINEL_WATCHDOG_EXPIRE and
LOCKSTEP_MISMATCH. Rules they follow: R46, R149, R408 to R410, R424. -/
def Obligations.ResetCommandsComplete : Prop :=
  (∀ s i trig u found closed img t, trig = (if s.rst.vault && s.rst.vbat then 2 else 1) →
      u = (if s.rst.vbat then s else s.batLost) → found = u.storeFound i →
      closed = (if u.on SNT_AUTHSTAT0_OPEN && found.dir.isSome then some (u.get SNT_AUTHSTAT0_KEY) else none) →
      img = (if found.dir.isSome then found.nvMram else none) →
      t = (u.coldBase i trig).coldLoad img trig →
    exec (.coldReset i) s = .next ((t.coldRecords found i.rtc.toNat trig closed (u.revertItems t)
      (u.coldTime i.rtc.toNat).2 u.st.collapsed).patchBoot.cocShow.linksIdle.coreStart)) ∧
  (∀ s u, s.rst.low = false → s.rst.vault = false → u = s.warmBegin 3 →
    exec .resetNLow s = .next { u with rst := { u.rst with low := true, lowFrom := u.tb.ticks } }) ∧
  (∀ s, s.rst.low = true → s.due (s.rst.lowFrom + 17) = true → exec .resetNLong s = .next s.releaseOutputs) ∧
  (∀ s, s.rst.low = true → exec .resetNRelease s = .next s.warmBoot) ∧
  (∀ s, s.rst.low = false → s.rst.vault = false → exec .rstCtlWarm s = .next (s.warmBegin 6).warmBoot) ∧
  (∀ s, s.rst.low = false → s.rst.vault = false → s.rst.gated = false → 16 ≤ s.tb.wdRun →
    exec .sentinelWatchdogExpire s = .next (s.warmBegin 4).warmBoot) ∧
  (∀ s, s.rst.low = false → s.rst.vault = false → s.rst.gated = false →
    exec .lockstepMismatch s = .next (s.warmBegin 5).warmBoot)

/-- The vault: VAULT_ENTER, TAMPER, VAULT_WAKE, VBAT_LOSS, VBAT_FITTED and RTC_CRYSTAL_STOP. Rules they follow: R33, R34,
R419, R423, R471. -/
def Obligations.VaultCommandsComplete : Prop :=
  (∀ s u, s.rst.vault = false → s.rst.vbat = true → u = s.releaseOutputs →
    exec .vaultEnter s = .next { u with
      tb := { u.tb with rtcSaved := u.tb.frame, rtcStopped := false }
      rst := { u.rst with vault := true, core := false, downEnd := none, downFor := none }
      pins := { u.pins with coreEn := false } }) ∧
  (∀ s high u, s.rst.tamper ≠ high → u = { s with rst := { s.rst with tamper := high } } →
      u.on RST_VAULTSTAT0_TAMPER = true →
    exec (.tamper high) s = .next ((u.put RST_VAULTSTAT0_TAMPER 1).put SNT_AUTHSTAT0_TAMPER 1)) ∧
  (∀ s high u, s.rst.tamper ≠ high → u = { s with rst := { s.rst with tamper := high } } →
      u.on RST_VAULTSTAT0_TAMPER = false →
    exec (.tamper high) s = .next (((u.latchRtc 0).put RST_VAULTSTAT0_TAMPER 1).put SNT_AUTHSTAT0_TAMPER 1)) ∧
  (∀ s, s.rst.vault = true → s.on RST_VAULTSTAT0_WAKE = false →
    exec .vaultWake s = .next ((s.latchRtc 2).put RST_VAULTSTAT0_WAKE 1)) ∧
  (∀ s, s.rst.vbat = true → s.rst.vault = false →
    exec .vbatLoss s = .next (({ s with rst := { s.rst with vbat := false } } : State).put RST_VAULTSTAT0_RTC_VALID 0)) ∧
  (∀ s, s.rst.vbat = true → s.rst.vault = true →
    exec .vbatLoss s =
      .next ((({ s with rst := { s.rst with vbat := false } } : State).batLost).put RST_VAULTSTAT0_RTC_VALID 0)) ∧
  (∀ s, s.rst.vbat = false →
    exec .vbatFitted s = .next (({ s with rst := { s.rst with vbat := true } } : State).put RST_VAULTSTAT0_RTC_VALID 0)) ∧
  (∀ s, s.rst.vault = true →
    exec .rtcCrystalStop s = .next { s with tb := { s.tb with rtcStopped := true } })

/-- FRAME_TICK and REGISTER_WRITE: a tick outside reset, SLEEP and the vault accounts for the old frame, applies a due
commit and runs the phases; a direct write stores its register's fields under their access codes. Rules they follow: R7 to
R10, R37, R42 to R47, R226, R448. -/
def Obligations.TickAndWriteComplete : Prop :=
  (∀ s f u, s.rst.vault = false → s.rst.low = false → s.asleep = false → u = s.opened.frameAccount.tickCommit →
    exec (.frameTick f) s = .next ((u.tickAdvance (max 1 (min 6 f.done)) f.xtal).framePhases f)) ∧
  (∀ s f, s.rst.vault = false → s.rst.low = true → exec (.frameTick f) s = .next (s.tickAdvance 0 f.xtal)) ∧
  (∀ s f, s.rst.vault = false → s.rst.low = false → s.asleep = true →
    exec (.frameTick f) s = .next (s.sleepFrame f)) ∧
  (∀ s who off v k r, s.rst.vault = false → s.rst.low = false → s.writeKey who off = some k → s.reaches who = true →
      s.keyRuns k = true → ownCommand k = false → s.ringLocked k = false → findReg k = some r →
    exec (.registerWrite who off v) s = .next ((s.setReg k (writeWord k (s.reg k) v)).afterWrite who k))

/-- A step takes the command at the front of the queue and runs `exec` on it and the state with the queue's rest. -/
def Obligations.StepRunsTheFrontCommand : Prop :=
  (∀ c s, step (s.push c) = exec c s) ∧
  (∀ c rest s, s.pending = c :: rest → step s = exec c { s with pending := rest })

/-- On an empty queue the block idles: the model's choice (log entry 2). -/
def Obligations.EmptyQueueIdles : Prop := ∀ s, s.pending = [] → step s = .next s

/-- State.reset is the first Cold reset carried through step 5 of its sequence (log entry 5): the queue is empty, nothing
has left the block, the frame is 0, every ring is STOPPED, every subchannel and channel IDLE, the sequence OFF, the front
end OPEN, no authorisation is open, nothing is staged, and exchange memory is empty. -/
def Obligations.ResetState : Prop :=
  Sound State.reset ∧ Whole State.reset ∧ State.reset.pending = [] ∧ State.reset.out = [] ∧ State.reset.tb.frame = 0 ∧
  (∀ r : RingId, State.reset.get (RNG_STAT_STATE (ringKey r)) = 0 ∧ State.reset.on (RNG_CTL_EN (ringKey r)) = false) ∧
  (∀ n < 32, State.reset.scSt n = scIDLE) ∧ (∀ n < 16, State.reset.dcSt n = dcIDLE) ∧
  State.reset.get PSQ_SEQSTAT_STATE = seqOFF ∧ State.reset.get SUP_HSSTAT_STATE = hsOPEN ∧
  (∀ n < 24, State.reset.railSt n = rlOFF) ∧ State.reset.on SNT_AUTHSTAT0_OPEN = false ∧
  State.reset.on GLB_STATUS_SVC_RUN = false ∧ State.reset.chr.owner.slots = [] ∧ State.reset.bmv.xmem = []

/-- Every step keeps the register file, exchange memory and the bytes of the MRAM in canonical form. -/
def Obligations.StepKeepsCanonicalForm : Prop := ∀ s t, Sound s → step s = .next t → Sound t

/-- Every step keeps the number of units of every block (24 rails, 8 lamps, 32 subchannels, 16 channels, 13 ports, 2 cards,
18 rings). -/
def Obligations.StepKeepsUnits : Prop := ∀ s t, Whole s → step s = .next t → Whole t

/-- No command stops the block: each answers a next state, leaves the queue alone, and takes back nothing that has left the
block. -/
def Obligations.EveryCommandAnswers : Prop :=
  ∀ c s, ∃ t, exec c s = .next t ∧ t.pending = s.pending ∧ s.out <+: t.out ∧ s.free ≤ t.free

/-- Only FRAME_TICK and COLD_RESET change the frame number; within a frame SUBFRAME never decreases, so no later timestamp
of the frame is earlier (R31, R51). What a commit does at the coming tick carries that tick's timestamp, which the frame number's
wrap after 2^40 frames makes 0 (R35). -/
def Obligations.TimeWithinAFrame : Prop :=
  ∀ c s t, (∀ f, c ≠ .frameTick f) → (∀ i, c ≠ .coldReset i) → exec c s = .next t →
    t.tb.frame = s.tb.frame ∧ t.tb.ticks = s.tb.ticks ∧ s.tb.sub ≤ t.tb.sub ∧ (s.tb.frame.toNat + 1 < 2 ^ 40 → s.now ≤ t.now)

/-- The frame number advances by one at every tick while VSTBY is there (R31). -/
def Obligations.TickAdvancesTheFrame : Prop :=
  ∀ f s t, s.rst.vault = false → exec (.frameTick f) s = .next t →
    t.tb.frame = s.tb.frame + 1 ∧ t.tb.ticks = s.tb.ticks + 1

/-- A ring's command that fails a check of the opcode table at its start completes with the check's status and carries out
nothing; the refusal of one that Sentinel serves is counted and recorded (R156, R239). -/
def Obligations.FailingCheckCarriesOutNothing : Prop :=
  ∀ i s t op d st, ringCmd i = some (t, op) → s.cmd t = some d → d.entry.op.toNat = op → s.mayRun d = true →
    (s.hst.pri.any fun q => q.tgt == .buf t) = false → s.cmdCheck d.ring d.entry = some st →
    exec i s = .next (answered (if opFwd op then s.refuseNote d d.entry st else s) t st 0 0)

/-- A command of another tag's opcode, or of no fetched entry, does nothing. -/
def Obligations.WrongOpcodeDoesNothing : Prop :=
  ∀ i s t op, ringCmd i = some (t, op) → (∀ d, s.cmd t = some d → d.entry.op.toNat ≠ op) → exec i s = .next s

/-- A read of FRM_TS_LO captures the timestamp for the reading function, and FRM_TS_HI then returns its upper half; each
function has its own capture; without one, and after a reset of the function, the live upper half is returned (R36). -/
def Obligations.TimestampCapture : Prop :=
  (∀ s fn, ∃ t, exec (.frmTsLoRead fn) s = .next t ∧ t.out = s.out ++ [.value fn (t.now % 2 ^ 32)] ∧
    t.tsHi fn = t.now / 2 ^ 32 ∧ (∀ g, g ≠ fn → s.tb.tsCaps.any (fun c => decide (c.1 = g)) = true → t.tsHi g = s.tsHi g) ∧
    (∀ u : State, u.tb.tsCaps = t.tb.tsCaps → u.tsHi fn = t.now / 2 ^ 32)) ∧
  (∀ s : State, ∀ fn, (∀ c ∈ s.tb.tsCaps, c.1 ≠ fn) → s.tsHi fn = s.now / 2 ^ 32) ∧
  (∀ (s : State) p idle, (s.portReset p idle).tsHi (.owner p) = (s.portReset p idle).now / 2 ^ 32) ∧
  (∀ (s : State) p v, s.portOf (some v) = p → (s.msixReset (some v) p).tsHi (.vf v) = (s.msixReset (some v) p).now / 2 ^ 32) ∧
  (∀ (s : State) fn k, (s.warmBegin k).tsHi fn = (s.warmBegin k).now / 2 ^ 32)

/-- A read of the low word of FRM_OVRSTAT[0], SUP_LDG_ETOT_LO, RST_VAULTSTAT[1] or RST_VAULTSTAT[3] returns it and captures
the high word of its pair for the reading function, and only for it (R433). -/
def Obligations.PairCapture : Prop :=
  ∀ s fn pr lo hi, (pr, lo, hi) ∈ [(CapPair.ovrstat, 0x1018, 0x101C), (.etot, 0x6060, 0x6064), (.vault0, 0x3001C, 0x30020),
      (.vault1, 0x30024, 0x30028)] →
    ∃ t, exec (.captureRead fn pr) s = .next t ∧ t.out = s.out ++ [.value fn (s.reg lo).toNat] ∧ t.regs = s.regs ∧
      t.tb.pairCaps.filter (fun c => decide (c.1 = fn) && decide (c.2.1 = pr)) = [(fn, pr, (s.reg hi).toNat)] ∧
      (∀ g q, g ≠ fn ∨ q ≠ pr → t.tb.pairCaps.filter (fun c => decide (c.1 = g) && decide (c.2.1 = q)) =
        s.tb.pairCaps.filter (fun c => decide (c.1 = g) && decide (c.2.1 = q)))

/-- An overrun frame adds one to FRM_OVRCNT up to 65,535 and sets FRM_OVRSTAT to its frame number and to the phase after the
last one that ended; OVR_CLR clears the counter (R44). Which frames overrun: R42 and log entry 20. -/
def Obligations.OverrunsAreCounted : Prop :=
  (∀ s, regsWf s = true → s.overran = true →
    s.frameAccount.get FRM_OVRCNT_COUNT = min (s.get FRM_OVRCNT_COUNT + 1) 65535 ∧
    s.frameAccount.get FRM_OVRSTAT0_FRAME + 2 ^ 32 * s.frameAccount.get FRM_OVRSTAT1_FRAMEHI = s.tb.frame.toNat ∧
    s.frameAccount.get FRM_OVRSTAT1_PHASE = s.tb.done + 1) ∧
  (∀ s, regsWf s = true → s.overran = false → s.frameAccount.get FRM_OVRCNT_COUNT = s.get FRM_OVRCNT_COUNT) ∧
  (∀ s, regsWf s = true → ∃ t, exec .ovrClr s = .next t ∧ t.get FRM_OVRCNT_COUNT = 0)

/-- CCH_INVAL invalidates the lines of its scope in the cache and the victim buffer, RESULT is their number, a scope above 3
is answered with 0x13, and CCH_CTL's fields act as scope 0 of the Owner and as CCH_DRAIN (R285). -/
def Obligations.CacheInvalidationScopes : Prop :=
  (∀ s t c u scope o a, Starts s t 0x36 c u → scope = c.p 0 → o = whoCode c.who → a = paramAddr c.entry 1 →
    ∃ v k, exec (.cchInval t) s = .next (answered v t 0x00 k 0) ∧
      (∀ l, l ∈ v.cch.lines ↔ l ∈ u.cch.lines ∧ ¬ InScope scope o a l) ∧
      (∀ l, l ∈ v.cch.victims ↔ l ∈ u.cch.victims ∧ ¬ InScope scope o a l) ∧
      ∃ p : Line → Bool, (∀ l, p l = true ↔ InScope scope o a l) ∧
        k = (u.cch.lines ++ u.cch.victims).countP fun l => p l && l.live) ∧
  (∀ (s : State) ring e, e.op.toNat = 0x36 → s.permCheck ring e = none → 3 < SqEntry_param e 0 →
    s.cmdCheck ring e = some 0x13) ∧
  (∀ s, s.ownerReach = true → ∃ t, exec .cchInvalAll s = .next t ∧ t.cch.lines = [] ∧ t.cch.victims = []) ∧
  (∀ s, s.ownerReach = true → exec .cchCtlDrain s = .next s.storeDrainAll)

/-- A posted completion is one host write of 16 bytes at the ring's write index, with the fields of Table 9-4 and the ring's
phase, which inverts where the index wraps (R231, R237). -/
def Obligations.CompletionEntry : Prop :=
  ∀ s r c, regsWf s = true → ∃ b, (s.writeCpl r c).out = (s.hostWr (whoOf r)
      (base64 (s.get (RNG_CQBASE_LO_BASE (ringKey r))) (s.get (RNG_CQBASE_HI_BASE (ringKey r))) +
        16 * s.get (RNG_CQTAIL_WR (ringKey r))) b).out ∧
    b.length = 16 ∧ leAt b 0 4 = c.result % 2 ^ 32 ∧ leAt b 4 4 = c.aux % 2 ^ 32 ∧ leAt b 8 2 = c.cid % 2 ^ 16 ∧
    leAt b 10 2 = s.get (RNG_SQHEAD_HEAD (ringKey r)) ∧ leAt b 12 1 = c.status % 2 ^ 8 ∧
    leAt b 13 1 = (if r = .adm then 1 else 0) ∧ leAt b 14 1 = 0 ∧ leAt b 15 1 = s.get (RNG_CQTAIL_PHASE (ringKey r)) ∧
    (s.get (RNG_CQTAIL_WR (ringKey r)) + 1 < ringSize (s.get (RNG_CQSIZE_LOG2 (ringKey r))) →
      (s.writeCpl r c).get (RNG_CQTAIL_PHASE (ringKey r)) = s.get (RNG_CQTAIL_PHASE (ringKey r)) ∧
      (s.writeCpl r c).get (RNG_CQTAIL_WR (ringKey r)) = s.get (RNG_CQTAIL_WR (ringKey r)) + 1) ∧
    (ringSize (s.get (RNG_CQSIZE_LOG2 (ringKey r))) ≤ s.get (RNG_CQTAIL_WR (ringKey r)) + 1 →
      (s.writeCpl r c).get (RNG_CQTAIL_PHASE (ringKey r)) = 1 - s.get (RNG_CQTAIL_PHASE (ringKey r)) ∧
      (s.writeCpl r c).get (RNG_CQTAIL_WR (ringKey r)) = 0)

/-- The buffer of 16 event records: a further record is not kept and JNL_EVDROP counts it; with room, the record is queued
and no register changes (R184). -/
def Obligations.EventBuffer : Prop :=
  ∀ s code subj args, regsWf s = true →
    (16 ≤ s.st.evq.length → (s.log code subj args).st.evq = s.st.evq ∧
      (s.log code subj args).get JNL_EVDROP_COUNT = min (s.get JNL_EVDROP_COUNT + 1) (2 ^ JNL_EVDROP_COUNT.w - 1)) ∧
    (s.st.evq.length < 16 → (s.log code subj args).regs = s.regs ∧
      ∃ e, (s.log code subj args).st.evq = s.st.evq ++ [e] ∧ e.code = code ∧ e.subject = subj ∧ e.ts = s.touch.now)

/-- A counter adds one and saturates at its all-ones value; no other field changes (R430). -/
def Obligations.CountersSaturate : Prop :=
  ∀ s f, regsWf s = true → f.lo + f.w ≤ 32 → 0 < f.w →
    (s.count f).get f = min (s.get f + 1) (2 ^ f.w - 1) ∧
    ∀ g, g.lo + g.w ≤ 32 → (f.off ≠ g.off ∨ f.lo + f.w ≤ g.lo ∨ g.lo + g.w ≤ f.lo) → (s.count f).get g = s.get g

/-- A direct write that brings nothing else with it changes only its own register, and of that only the bits of RW and RW1C
fields: read-only, staged, fixed and reserved bits stay (R7, R9). -/
def Obligations.DirectWriteKeepsTheRest : Prop :=
  ∀ s who off v t k, regsWf s = true → s.writeKey who off = some k → k ≠ 0x2008 → k ≠ 0x30018 → k < 0x100000 →
    exec (.registerWrite who off v) s = .next t →
    (∀ j, j ≠ k → t.reg j = s.reg j) ∧ t.out = s.out ∧
    ∀ i, (∀ f ∈ fieldsAt k, f.acc = .rw ∨ f.acc = .rw1c → ¬ (f.lo ≤ i ∧ i < f.lo + f.w)) →
      (t.reg k).getLsbD i = (s.reg k).getLsbD i

/-- A staged write changes no committed setting before its commit: of the registers, only the stage's own block and the
counts of denied writes and lost records change (R166). -/
def Obligations.StagingLeavesSettings : Prop :=
  ∀ s o off v t j, regsWf s = true → exec (.stagedRegisterWrite o off v) s = .next t →
    (j < 0x2000 ∨ 0x2014 ≤ j) → j ≠ SNT_DENYCNT_COUNT.off → j ≠ JNL_EVDROP_COUNT.off → j ≠ RNG_EVDROP_COUNT.off →
    t.reg j = s.reg j

/-- A VI's DISCARD empties its own stage, leaves every other owner's stage and every register outside its own mirror of the
stage block (R167). -/
def Obligations.DiscardIsTheIssuersOnly : Prop :=
  ∀ s v t, regsWf s = true → s.reaches (.vi v) = true → s.frozen (some v) = false → exec (.chrCtlDiscard (.vi v)) s = .next t →
    (t.stage (some v)).slots = [] ∧ (∀ w, w ≠ some v → t.stage w = s.stage w) ∧
    ∀ j, (j < vfBase v.val + 0x1800 ∨ vfBase v.val + 0x1814 ≤ j) → t.reg j = s.reg j

/-- A VI's doorbell on a subchannel or channel of another owner changes no subchannel, channel, cache line or exchange
memory, and of the registers only the count of foreign doorbells and the counts of lost records (R199). -/
def Obligations.ForeignDoorbellChangesNoUnit : Prop :=
  ∀ s v c t, regsWf s = true →
    ((∃ n : Fin 32, c = .scDoorbell (.vi v) n ∧ s.scOwner n.val ≠ some v) ∨
      (∃ (n : Fin 16) (x : Word), c = .dcDoorbell (.vi v) n x ∧ s.dcOwner n.val ≠ some v)) →
    exec c s = .next t →
    t.cpe = s.cpe ∧ t.bmv = s.bmv ∧ t.cch = s.cch ∧ t.dpt = s.dpt ∧
    ∀ j, j ≠ HST_ERRSTAT_FOREIGN_DB.off → j ≠ JNL_EVDROP_COUNT.off → j ≠ RNG_EVDROP_COUNT.off → t.reg j = s.reg j

/-- A burst is at most 256 bytes, lies within the descriptor and within one source line and one destination line, crosses no
4 KiB boundary on a host side, ends at one of these points, and is a multiple of 8 bytes where the descriptor is (R298). -/
def Obligations.BurstLengths : Prop :=
  ∀ (d : Desc) p, 0 < d.srcLine → 0 < d.dstLine → p < d.total →
    0 < d.burstLen p ∧ d.burstLen p ≤ 256 ∧ p + d.burstLen p ≤ d.total ∧
    p % d.srcLine + d.burstLen p ≤ d.srcLine ∧ p % d.dstLine + d.burstLen p ≤ d.dstLine ∧
    (d.srcX = false → d.srcAt p % 4096 + d.burstLen p ≤ 4096) ∧
    (d.dstX = false → d.dstAt p % 4096 + d.burstLen p ≤ 4096) ∧
    (8 ∣ p → 8 ∣ d.srcLine → 8 ∣ d.dstLine → 8 ∣ d.src → 8 ∣ d.dst → 8 ∣ d.srcStride → 8 ∣ d.dstStride →
      8 ∣ d.burstLen p) ∧
    (d.burstLen p = 256 ∨ p + d.burstLen p = d.total ∨ p % d.srcLine + d.burstLen p = d.srcLine ∨
      p % d.dstLine + d.burstLen p = d.dstLine ∨ (d.srcX = false ∧ d.srcAt p % 4096 + d.burstLen p = 4096) ∨
      (d.dstX = false ∧ d.dstAt p % 4096 + d.burstLen p = 4096))

/-- Exchange memory: what an owner writes within its partition it reads back, and no other owner's partition changes (R292).
-/
def Obligations.PartitionsAreSeparate : Prop :=
  ∀ s o a b, xmemWf s = true → s.inPartition o a b.length = true →
    (s.xwrite o a b).xread o a b.length = b ∧
    (∀ q off n, q ≠ o → (s.xwrite o a b).xread q off n = s.xread q off n) ∧
    (∀ off n, off + n ≤ a ∨ a + b.length ≤ off → (s.xwrite o a b).xread o off n = s.xread o off n)
end

