-- ==== Sys2Proof/Laws/Cells.lean ====
section
/-!
SUPPORT. Sparse cells: reading after writing, and the canonical form under every operation on them.
-/

namespace Sys2Proof.Machine

section cells
variable {α : Type} (d : Nat → α)

/-- Every key of the list lies above `k`. -/
def keysAbove (k : Nat) (l : List (Nat × α)) : Prop := ∀ c ∈ l, k < c.1

theorem cellSorted_cons (k : Nat) (v : α) (l : List (Nat × α)) :
    cellSorted ((k, v) :: l) = true ↔ keysAbove k l ∧ cellSorted l = true := by
  induction l generalizing k v with
  | nil => simp [cellSorted, keysAbove]
  | cons c l ih =>
    obtain ⟨k', v'⟩ := c
    rw [cellSorted, Bool.and_eq_true, decide_eq_true_eq]
    constructor
    · rintro ⟨h, hl⟩
      refine ⟨?_, hl⟩
      intro x hx
      rcases List.mem_cons.1 hx with rfl | hx
      · exact h
      · exact Nat.lt_trans h (((ih k' v').1 hl).1 x hx)
    · rintro ⟨h, hl⟩
      exact ⟨h (k', v') (by simp), hl⟩

theorem cellGet_above {k k' : Nat} {l : List (Nat × α)} (h : keysAbove k l) (hk : k' ≤ k) : cellGet d l k' = d k' := by
  cases l with
  | nil => rfl
  | cons c l =>
    have := h c (by simp)
    simp only [cellGet]
    rw [if_neg (by omega), if_pos (by omega)]

theorem mem_cellIns {k : Nat} {v : α} {l : List (Nat × α)} {c : Nat × α} (h : c ∈ cellIns k v l) :
    c = (k, v) ∨ c ∈ l := by
  induction l with
  | nil => simpa [cellIns] using h
  | cons x l ih =>
    obtain ⟨k', v'⟩ := x
    simp only [cellIns] at h
    split at h
    · simpa using h
    · split at h
      · simp at h
        rcases h with h | h <;> simp [h]
      · rcases List.mem_cons.1 h with h | h
        · simp [h]
        · rcases ih h with h | h <;> simp [h]

theorem mem_cellDel {k : Nat} {l : List (Nat × α)} {c : Nat × α} (h : c ∈ cellDel k l) : c ∈ l := by
  induction l with
  | nil => simp [cellDel] at h
  | cons x l ih =>
    obtain ⟨k', v'⟩ := x
    simp only [cellDel] at h
    split at h
    · simpa using h
    · split at h
      · simp [h]
      · rcases List.mem_cons.1 h with h | h
        · simp [h]
        · simp [ih h]

theorem cellSorted_ins {k : Nat} {v : α} {l : List (Nat × α)} (h : cellSorted l = true) :
    cellSorted (cellIns k v l) = true := by
  induction l with
  | nil => simp [cellIns, cellSorted]
  | cons x l ih =>
    obtain ⟨k', v'⟩ := x
    obtain ⟨ha, hl⟩ := (cellSorted_cons k' v' l).1 h
    simp only [cellIns]
    split
    · rename_i hk
      refine (cellSorted_cons _ _ _).2 ⟨?_, h⟩
      intro c hc
      rcases List.mem_cons.1 hc with rfl | hc
      · exact hk
      · exact Nat.lt_trans hk (ha c hc)
    · split
      · rename_i hk; subst hk
        exact (cellSorted_cons _ _ _).2 ⟨ha, hl⟩
      · refine (cellSorted_cons _ _ _).2 ⟨?_, ih hl⟩
        intro c hc
        rcases mem_cellIns hc with rfl | hc
        · show k' < k; omega
        · exact ha c hc

theorem cellSorted_del {k : Nat} {l : List (Nat × α)} (h : cellSorted l = true) : cellSorted (cellDel k l) = true := by
  induction l with
  | nil => simp [cellDel, cellSorted]
  | cons x l ih =>
    obtain ⟨k', v'⟩ := x
    obtain ⟨ha, hl⟩ := (cellSorted_cons k' v' l).1 h
    simp only [cellDel]
    split
    · exact h
    · split
      · exact hl
      · exact (cellSorted_cons _ _ _).2 ⟨fun c hc => ha c (mem_cellDel hc), ih hl⟩

theorem cellWf_iff [DecidableEq α] (l : List (Nat × α)) :
    cellWf d l = true ↔ cellSorted l = true ∧ ∀ c ∈ l, c.2 ≠ d c.1 := by
  simp [cellWf]

theorem cellWf_nil [DecidableEq α] : cellWf d ([] : List (Nat × α)) = true := by simp [cellWf, cellSorted]

/-- Writing a cell keeps the canonical form. -/
theorem cellWf_set [DecidableEq α] {l : List (Nat × α)} (h : cellWf d l = true) (k : Nat) (v : α) :
    cellWf d (cellSet d l k v) = true := by
  obtain ⟨hs, hd⟩ := (cellWf_iff d l).1 h
  unfold cellSet
  split
  · exact (cellWf_iff d _).2 ⟨cellSorted_del hs, fun c hc => hd c (mem_cellDel hc)⟩
  · rename_i hv
    refine (cellWf_iff d _).2 ⟨cellSorted_ins hs, fun c hc => ?_⟩
    rcases mem_cellIns hc with rfl | hc
    · exact hv
    · exact hd c hc

theorem cellSorted_filterMap {l : List (Nat × α)} (h : cellSorted l = true) (f : Nat × α → Option (Nat × α))
    (hf : ∀ c x, f c = some x → x.1 = c.1) : cellSorted (l.filterMap f) = true := by
  induction l with
  | nil => simp [cellSorted]
  | cons c l ih =>
    obtain ⟨k, v⟩ := c
    obtain ⟨ha, hl⟩ := (cellSorted_cons k v l).1 h
    rw [List.filterMap_cons]
    split
    · exact ih hl
    · rename_i x hx
      obtain ⟨k', v'⟩ := x
      have hk : k' = k := hf _ _ hx
      subst hk
      refine (cellSorted_cons _ _ _).2 ⟨?_, ih hl⟩
      intro c hc
      obtain ⟨y, hy, hyc⟩ := List.mem_filterMap.1 hc
      rw [hf _ _ hyc]
      exact ha y hy

/-- Keeping some of the cells keeps the canonical form. -/
theorem cellWf_filter [DecidableEq α] {l : List (Nat × α)} (h : cellWf d l = true) (p : Nat × α → Bool) :
    cellWf d (l.filter p) = true := by
  obtain ⟨hs, hd⟩ := (cellWf_iff d l).1 h
  refine (cellWf_iff d _).2 ⟨?_, fun c hc => hd c (List.mem_filter.1 hc).1⟩
  rw [← List.filterMap_eq_filter]
  exact cellSorted_filterMap hs _ (by intro c x; simp [Option.guard]; rintro _ rfl; rfl)

theorem cellGet_ins_same (k : Nat) (v : α) (l : List (Nat × α)) : cellGet d (cellIns k v l) k = v := by
  induction l with
  | nil => simp [cellIns, cellGet]
  | cons x l ih =>
    obtain ⟨k', v'⟩ := x
    simp only [cellIns]
    split
    · simp [cellGet]
    · split
      · simp [cellGet]
      · simp only [cellGet]
        rw [if_neg (by omega), if_neg (by omega)]
        exact ih

theorem cellGet_ins_other {k j : Nat} (h : j ≠ k) (v : α) (l : List (Nat × α)) :
    cellGet d (cellIns k v l) j = cellGet d l j := by
  induction l with
  | nil => simp only [cellIns, cellGet]; rw [if_neg h]; split <;> rfl
  | cons x l ih =>
    obtain ⟨k', v'⟩ := x
    simp only [cellIns]
    split
    · simp only [cellGet]
      rw [if_neg h]
      split
      · rw [if_neg (by omega), if_pos (by omega)]
      · rfl
    · split
      · rename_i h1 h2; subst h2
        simp only [cellGet]
        rw [if_neg h, if_neg h]
      · simp only [cellGet, ih]

theorem cellGet_del_same {k : Nat} {l : List (Nat × α)} (h : cellSorted l = true) : cellGet d (cellDel k l) k = d k := by
  induction l with
  | nil => rfl
  | cons x l ih =>
    obtain ⟨k', v'⟩ := x
    obtain ⟨ha, hl⟩ := (cellSorted_cons k' v' l).1 h
    simp only [cellDel]
    split
    · simp only [cellGet]; rw [if_neg (by omega), if_pos (by omega)]
    · split
      · rename_i h1 h2; subst h2
        exact cellGet_above d ha (Nat.le_refl _)
      · simp only [cellGet]; rw [if_neg (by omega), if_neg (by omega)]
        exact ih hl

theorem cellGet_del_other {k j : Nat} (h : j ≠ k) {l : List (Nat × α)} (hs : cellSorted l = true) :
    cellGet d (cellDel k l) j = cellGet d l j := by
  induction l with
  | nil => rfl
  | cons x l ih =>
    obtain ⟨k', v'⟩ := x
    obtain ⟨ha, hl⟩ := (cellSorted_cons k' v' l).1 hs
    simp only [cellDel]
    split
    · rfl
    · split
      · rename_i h1 h2; subst h2
        simp only [cellGet]
        rw [if_neg h]
        split
        · exact cellGet_above d ha (by omega)
        · rfl
      · simp only [cellGet, ih hl]

/-- A cell reads back what was written to it. -/
theorem cellGet_set_same [DecidableEq α] {l : List (Nat × α)} (h : cellSorted l = true) (k : Nat) (v : α) :
    cellGet d (cellSet d l k v) k = v := by
  unfold cellSet
  split
  · rename_i hv; rw [cellGet_del_same d h, hv]
  · exact cellGet_ins_same d k v l

/-- Every other cell reads as before. -/
theorem cellGet_set_other [DecidableEq α] {l : List (Nat × α)} (hs : cellSorted l = true) {k j : Nat} (h : j ≠ k) (v : α) :
    cellGet d (cellSet d l k v) j = cellGet d l j := by
  unfold cellSet
  split
  · exact cellGet_del_other d h hs
  · exact cellGet_ins_other d h v l

end cells

end Sys2Proof.Machine
end

