-- ==== Sys2Proof/Laws/Claims.lean ====
section
/-!
SUPPORT. Small lemmas about the terms the statements use.
-/

namespace Sys2Proof.Machine

/-- A ring's command that starts runs its meaning on the command and the state it has then. -/
theorem Starts.run {s : State} {t : Tag} {op : Nat} {c : Cmd} {u : State} (h : Starts s t op c u) (f : State → Cmd → State) :
    s.run t op f = (f u c).mbxShow := by
  obtain ⟨d, h1, rfl, h3, h4, h5, rfl, rfl⟩ := h
  simp [State.run, h1, h3, h4, h5]

@[simp] theorem mem_upTo (n k : Nat) : n ∈ upTo k ↔ n < k := by simp [upTo]

end Sys2Proof.Machine
end

