-- ==== Sys2Proof/Laws/Keeps.lean ====
section
/-!
SUPPORT. What no operation inside a frame does: it leaves the queue, the frame number and the tick count alone, takes nothing
back that has left the block, and keeps the canonical forms and the number of units of every block.
-/

namespace Sys2Proof.Machine

/-- The number of units of every block that has numbered ones. -/
def State.units (s : State) : List Nat :=
  [s.rails.length, s.lamps.length, s.cpe.length, s.dpt.ports.length, s.bmv.chans.length, s.crd.ports.length,
    s.rng.rings.length]

/-- `t` comes from `a` by operations inside one frame. -/
structure Keeps (a t : State) : Prop where
  pending : t.pending = a.pending
  frame : t.tb.frame = a.tb.frame
  ticks : t.tb.ticks = a.tb.ticks
  sub : a.tb.sub ≤ t.tb.sub
  early : a.tb.early = true → t.tb.early = true
  out : a.out <+: t.out
  free : a.free ≤ t.free
  regs : regsWf a = true → regsWf t = true
  xmem : xmemWf a = true → xmemWf t = true
  mram : mramWf a = true → mramWf t = true
  units : a.units = State.blank.units → t.units = State.blank.units

variable {a s t : State}

theorem Keeps.refl (a : State) : Keeps a a :=
  ⟨rfl, rfl, rfl, BitVec.le_refl _, id, List.prefix_refl _, Nat.le_refl _, id, id, id, id⟩

theorem Keeps.trans (h : Keeps a s) (k : Keeps s t) : Keeps a t :=
  ⟨k.pending.trans h.pending, k.frame.trans h.frame, k.ticks.trans h.ticks, BitVec.le_trans h.sub k.sub, k.early ∘ h.early, h.out.trans k.out,
    Nat.le_trans h.free k.free, k.regs ∘ h.regs, k.xmem ∘ h.xmem, k.mram ∘ h.mram, k.units ∘ h.units⟩

/-- Everything `Keeps` speaks of. -/
def State.kept (s : State) :=
  (s.pending, s.tb.frame, s.tb.ticks, s.tb.sub, s.tb.early, s.out, s.free, s.regs, s.bmv.xmem, s.st.mem, s.units)

/-- An update of anything else keeps. -/
theorem Keeps.same (h : Keeps a s) (e : s.kept = t.kept) : Keeps a t := by
  simp only [State.kept, Prod.mk.injEq] at e
  obtain ⟨e1, e2, e3, e9, ee, e4, e5, e6, e7, em, e8⟩ := e
  refine ⟨e1 ▸ h.pending, e2 ▸ h.frame, e3 ▸ h.ticks, e9 ▸ h.sub, ee ▸ h.early, e4 ▸ h.out, e5 ▸ h.free, fun w => ?_, fun w => ?_, fun w => ?_,
    e8 ▸ h.units⟩
  · simpa [regsWf, ← e6] using h.regs w
  · simpa [xmemWf, ← e7] using h.xmem w
  · simpa [mramWf, ← em] using h.mram w

/-- A free value is taken. -/
theorem Keeps.take (h : Keeps a s) (t : State) (e : { s with free := s.free + 1 }.kept = t.kept) : Keeps a t :=
  Keeps.same (s := { s with free := s.free + 1 })
    ⟨h.pending, h.frame, h.ticks, h.sub, h.early, h.out, Nat.le_succ_of_le h.free, h.regs, h.xmem, h.mram, h.units⟩ e

/-- A record update that leaves everything `Keeps` speaks of. -/
theorem Keeps.upd {regs tb st rails seq sw sup thm adm lamps pins rng hst snt chr rst cpe cch dpt bmv crd out free pending}
    (e1 : pending = s.pending) (e2 : regs = s.regs) (e3 : tb.frame = s.tb.frame) (e4 : (tb.ticks, tb.early) = (s.tb.ticks, s.tb.early))
    (e8 : tb.sub = s.tb.sub) (e5 : out = s.out) (e6 : free = s.free) (e7 : bmv.xmem = s.bmv.xmem) (e9 : st.mem = s.st.mem) (u1 : rails.length = s.rails.length)
    (u2 : lamps.length = s.lamps.length) (u3 : cpe.length = s.cpe.length) (u4 : dpt.ports.length = s.dpt.ports.length)
    (u5 : bmv.chans.length = s.bmv.chans.length) (u6 : crd.ports.length = s.crd.ports.length)
    (u7 : rng.rings.length = s.rng.rings.length) (h : Keeps a s) :
    Keeps a ⟨regs, tb, st, rails, seq, sw, sup, thm, adm, lamps, pins, rng, hst, snt, chr, rst, cpe, cch, dpt, bmv, crd,
      out, free, pending⟩ :=
  h.same (by simp only [State.kept, State.units, Prod.mk.injEq] at *; simp_all)

/-- The same where a free value is taken. -/
theorem Keeps.updF {regs tb st rails seq sw sup thm adm lamps pins rng hst snt chr rst cpe cch dpt bmv crd out free pending}
    (e1 : pending = s.pending) (e2 : regs = s.regs) (e3 : tb.frame = s.tb.frame) (e4 : (tb.ticks, tb.early) = (s.tb.ticks, s.tb.early))
    (e8 : tb.sub = s.tb.sub) (e5 : out = s.out) (e6 : free = s.free + 1) (e7 : bmv.xmem = s.bmv.xmem) (e9 : st.mem = s.st.mem) (u1 : rails.length = s.rails.length)
    (u2 : lamps.length = s.lamps.length) (u3 : cpe.length = s.cpe.length) (u4 : dpt.ports.length = s.dpt.ports.length)
    (u5 : bmv.chans.length = s.bmv.chans.length) (u6 : crd.ports.length = s.crd.ports.length)
    (u7 : rng.rings.length = s.rng.rings.length) (h : Keeps a s) :
    Keeps a ⟨regs, tb, st, rails, seq, sw, sup, thm, adm, lamps, pins, rng, hst, snt, chr, rst, cpe, cch, dpt, bmv, crd,
      out, free, pending⟩ :=
  Keeps.take h _ (by simp only [State.kept, State.units, Prod.mk.injEq] at *; simp_all)

/-- A record update that may also replace the register file, exchange memory and whole blocks by sound ones. -/
theorem Keeps.renew {regs tb st rails seq sw sup thm adm lamps pins rng hst snt chr rst cpe cch dpt bmv crd out free pending}
    (e1 : pending = s.pending) (e2 : regsWf s = true → cellWf resetWord regs = true) (e3 : tb.frame = s.tb.frame)
    (e4 : (tb.ticks, tb.early) = (s.tb.ticks, s.tb.early)) (e8 : tb.sub = s.tb.sub) (e5 : out = s.out) (e6 : free = s.free)
    (e7 : xmemWf s = true → cellWf (fun _ => (0 : Byte)) bmv.xmem = true)
    (e9 : mramWf s = true → cellWf (fun _ => (0 : Byte)) st.mem = true)
    (u : s.units = State.blank.units → [rails.length, lamps.length, cpe.length, dpt.ports.length, bmv.chans.length,
      crd.ports.length, rng.rings.length] = State.blank.units)
    (h : Keeps a s) :
    Keeps a ⟨regs, tb, st, rails, seq, sw, sup, thm, adm, lamps, pins, rng, hst, snt, chr, rst, cpe, cch, dpt, bmv, crd,
      out, free, pending⟩ :=
  ⟨e1.trans h.pending, e3.trans h.frame, (congrArg Prod.fst e4).trans h.ticks, e8 ▸ h.sub,
    fun w => (congrArg Prod.snd e4).trans (h.early w), e5 ▸ h.out, e6 ▸ h.free, fun w => e2 (h.regs w),
    fun w => e7 (h.xmem w), fun w => e9 (h.mram w), fun w => u (h.units w)⟩

/-- A conditional keeps if both branches do. -/
theorem Keeps.ite {c : Prop} [Decidable c] (h : Keeps a s) (k : Keeps a t) : Keeps a (if c then s else t) := by
  split <;> assumption

theorem Keeps.fst {β : Type} {p : State × β} {n : β} (h : Keeps a p.1) (e : p = (s, n)) : Keeps a s := by
  subst e; exact h

theorem Keeps.foldl {β : Type} {f : State → β → State} (h : Keeps a s) (l : List β)
    (H : ∀ t x, Keeps a t → Keeps a (f t x)) : Keeps a (l.foldl f s) := by
  induction l generalizing s with
  | nil => exact h
  | cons x l ih => exact ih (H s x h)

theorem Keeps.foldlPair {β γ : Type} {f : State × γ → β → State × γ} {p : State × γ} (h : Keeps a p.1) (l : List β)
    (H : ∀ t x, Keeps a t.1 → Keeps a (f t x).1) : Keeps a (l.foldl f p).1 := by
  induction l generalizing p with
  | nil => exact h
  | cons x l ih => exact ih (H p x h)

theorem Keeps.elim {β : Type} {o : Option β} {f : β → State} (h : Keeps a s) (H : ∀ x, Keeps a (f x)) :
    Keeps a (o.elim s f) := by
  cases o with
  | none => exact h
  | some x => exact H x

/-- A write of the register file. -/
theorem Keeps.setRegs (h : Keeps a s) (l : List (Nat × Word)) (hl : regsWf s = true → cellWf resetWord l = true) :
    Keeps a { s with regs := l } :=
  ⟨h.pending, h.frame, h.ticks, h.sub, h.early, h.out, h.free, fun w => hl (h.regs w), h.xmem, h.mram, h.units⟩

/-- Something is sent. -/
theorem Keeps.send (h : Keeps a s) (o : List Out) : Keeps a { s with out := s.out ++ o } :=
  ⟨h.pending, h.frame, h.ticks, h.sub, h.early, h.out.trans (List.prefix_append _ _), h.free, h.regs, h.xmem, h.mram, h.units⟩

/-- No later timestamp of the frame is earlier. -/
theorem Keeps.now (h : Keeps a t) (w : a.tb.frame.toNat + 1 < 2 ^ 40) : a.now ≤ t.now := by
  have e : (a.tb.frame + 1).toNat = a.tb.frame.toNat + 1 := by
    rw [BitVec.toNat_add]; exact Nat.mod_eq_of_lt w
  have k : a.tb.sub.toNat ≤ t.tb.sub.toNat := h.sub
  have l := a.tb.sub.isLt
  have m := h.early
  cases ha : a.tb.early <;> cases ht : t.tb.early <;> simp_all [State.now, State.tickTs, h.frame] <;> omega

/-- What every command does: it leaves the queue alone, takes nothing back that has left the block, and keeps the canonical
forms and the number of units of every block. -/
structure Carries (a t : State) : Prop where
  pending : t.pending = a.pending
  out : a.out <+: t.out
  free : a.free ≤ t.free
  regs : regsWf a = true → regsWf t = true
  xmem : xmemWf a = true → xmemWf t = true
  mram : mramWf a = true → mramWf t = true
  units : a.units = State.blank.units → t.units = State.blank.units

theorem Keeps.carries (h : Keeps a t) : Carries a t := ⟨h.pending, h.out, h.free, h.regs, h.xmem, h.mram, h.units⟩

theorem Carries.trans (h : Carries a s) (k : Carries s t) : Carries a t :=
  ⟨k.pending.trans h.pending, h.out.trans k.out, Nat.le_trans h.free k.free, k.regs ∘ h.regs, k.xmem ∘ h.xmem,
    k.mram ∘ h.mram, k.units ∘ h.units⟩

end Sys2Proof.Machine
end

