-- ==== Sys2Proof/Laws/KeepsOps.lean ====
section
/-!
SUPPORT. Every operation of Machine/Ops.lean keeps (Laws/Keeps.lean).
-/

namespace Sys2Proof.Machine

variable {z s : State}

set_option maxRecDepth 8000

theorem State.setReg_keeps (off : Nat) (w : Word) (hz : Keeps z s) : Keeps z (State.setReg s off w) :=
  hz.setRegs _ fun k => cellWf_set resetWord k off w

theorem State.put_keeps (f : FRef) (v : Nat) (hz : Keeps z s) : Keeps z (State.put s f v) := by
  unfold State.put
  repeat' first
    | (with_reducible assumption)
    | intro _
    | (with_reducible apply State.setReg_keeps)

theorem State.putB_keeps (f : FRef) (b : Bool) (hz : Keeps z s) : Keeps z (State.putB s f b) := by
  unfold State.putB
  repeat' first
    | (with_reducible assumption)
    | intro _
    | (with_reducible apply State.put_keeps)

theorem State.putS_keeps (f : FRef) (v : Int) (hz : Keeps z s) : Keeps z (State.putS s f v) := by
  unfold State.putS
  repeat' first
    | (with_reducible assumption)
    | intro _
    | (with_reducible apply State.put_keeps)

theorem State.count_keeps (f : FRef) (hz : Keeps z s) : Keeps z (State.count s f) := by
  unfold State.count
  repeat' first
    | (with_reducible assumption)
    | intro _
    | (with_reducible apply State.put_keeps)

theorem State.touch_keeps (hz : Keeps z s) : Keeps z (State.touch s) := by
  refine ⟨hz.pending, hz.frame, hz.ticks, BitVec.le_trans hz.sub ?_, hz.early, hz.out, Nat.le_succ_of_le hz.free, hz.regs, hz.xmem,
    hz.mram, hz.units⟩
  simp only [State.touch]
  split
  · assumption
  · exact BitVec.le_refl _

theorem State.opened_keeps (hz : Keeps z s) : Keeps z (State.opened s) :=
  ⟨hz.pending, hz.frame, hz.ticks, hz.sub, fun _ => rfl, hz.out, hz.free, hz.regs, hz.xmem, hz.mram, hz.units⟩

theorem State.logWith_keeps (only : Bool) (ts : Nat) (origin : Origin) (code subject : Nat) (args : List (Option Nat)) (hz : Keeps z s) : Keeps z (State.logWith s only ts origin code subject args) := by
  unfold State.logWith
  repeat' first
    | (with_reducible assumption)
    | (intro (x : State); refine_lift have : Keeps z x := ?val; ?main; (case' val => subst x); (case' main => first | clear_value x | subst x))
    | (intro x; subst x)
    | intro _
    | lift_lets
    | (with_reducible apply State.count_keeps)
    | (with_reducible apply Keeps.ite)
    | (with_reducible refine Keeps.upd rfl rfl rfl rfl rfl rfl rfl rfl rfl rfl rfl rfl rfl rfl rfl rfl ?_; first | (with_reducible assumption) | (with_reducible apply State.count_keeps) | (with_reducible apply Keeps.ite) | split)

theorem State.logAt_keeps (ts : Nat) (origin : Origin) (code subject : Nat) (args : List (Option Nat)) (hz : Keeps z s) : Keeps z (State.logAt s ts origin code subject args) := by
  unfold State.logAt
  repeat' first
    | (with_reducible assumption)
    | intro _
    | (with_reducible apply State.logWith_keeps)

theorem State.log_keeps (code subject : Nat) (args : List (Option Nat)) (hz : Keeps z s) : Keeps z (State.log s code subject args) := by
  unfold State.log
  repeat' first
    | (with_reducible assumption)
    | (intro (x : State); refine_lift have : Keeps z x := ?val; ?main; (case' val => subst x); (case' main => first | clear_value x | subst x))
    | intro _
    | lift_lets
    | (with_reducible apply State.logAt_keeps)
    | (with_reducible apply State.touch_keeps)

theorem State.journal_keeps (e : JEntry) (hz : Keeps z s) : Keeps z (State.journal s e) := by
  unfold State.journal
  repeat' first
    | (with_reducible assumption)
    | intro _
    | (with_reducible refine Keeps.upd rfl rfl rfl rfl rfl rfl rfl rfl rfl rfl rfl rfl rfl rfl rfl rfl ?_; first | (with_reducible assumption))

theorem State.emit_keeps (o : Out) (hz : Keeps z s) : Keeps z (State.emit s o) := hz.send _

theorem State.modRail_keeps (n : Nat) (f : Rail → Rail) (hz : Keeps z s) : Keeps z (State.modRail s n f) :=
  hz.same (by simp [State.kept, State.units, State.modRail, modAt])

theorem State.forRails_keeps (f : Nat → State → State) (H : ∀ n t, Keeps z t → Keeps z (f n t)) (hz : Keeps z s) :
    Keeps z (State.forRails s f) := hz.foldl _ fun _ _ k => H _ _ k

end Sys2Proof.Machine
end

