-- ==== Sys2Proof/Laws/KeepsItems.lean ====
section
/-!
SUPPORT. Every operation of Machine/Items.lean keeps (Laws/Keeps.lean).
-/

namespace Sys2Proof.Machine

variable {z s : State}

set_option maxRecDepth 8000

theorem State.reqWait_keeps (r : Nat) (w : Bool) (hz : Keeps z s) : Keeps z (State.reqWait s r w) := by
  unfold State.reqWait
  repeat' first
    | (with_reducible assumption)
    | intro _
    | (with_reducible apply State.putB_keeps)
    | (with_reducible apply State.put_keeps)
    | (with_reducible apply Keeps.ite)

theorem State.admShow_keeps (r : Nat) (hz : Keeps z s) : Keeps z (State.admShow s r) := by
  unfold State.admShow
  repeat' first
    | (with_reducible assumption)
    | (intro (x : State); refine_lift have : Keeps z x := ?val; ?main; (case' val => subst x); (case' main => first | clear_value x | subst x))
    | (intro x; subst x)
    | intro _
    | lift_lets
    | (with_reducible apply State.putB_keeps)
    | (with_reducible apply State.put_keeps)
    | (with_reducible apply State.setReg_keeps)
    | (refine Keeps.fst ?_ (by assumption))
    | (with_reducible refine Keeps.upd rfl rfl rfl rfl rfl rfl rfl rfl rfl rfl rfl rfl rfl rfl rfl rfl ?_; first | (with_reducible assumption) | (with_reducible apply State.putB_keeps) | (with_reducible apply State.put_keeps) | (with_reducible apply State.setReg_keeps) | split)

theorem State.present_keeps (r cls : Nat) (owner : Origin) (hz : Keeps z s) : Keeps z (State.present s r cls owner) := by
  unfold State.present
  repeat' first
    | (with_reducible assumption)
    | (intro x; subst x)
    | intro _
    | lift_lets
    | (with_reducible apply State.admShow_keeps)
    | (with_reducible apply Keeps.ite)
    | (with_reducible refine Keeps.upd rfl rfl rfl rfl rfl rfl rfl rfl rfl rfl rfl rfl rfl rfl rfl rfl ?_; first  | (with_reducible assumption))

theorem State.admDrop_keeps (r : Nat) (hz : Keeps z s) : Keeps z (State.admDrop s r) := by
  unfold State.admDrop
  repeat' first
    | (with_reducible assumption)
    | intro _
    | (with_reducible apply State.admShow_keeps)
    | (with_reducible refine Keeps.upd rfl rfl rfl rfl rfl rfl rfl rfl rfl rfl rfl rfl rfl rfl rfl rfl ?_; first  | (with_reducible assumption))

end Sys2Proof.Machine
end

