-- ==== Sys2Proof/Laws/KeepsComplete.lean ====
section
/-!
SUPPORT. Every operation of Machine/Complete.lean keeps (Laws/Keeps.lean).
-/

namespace Sys2Proof.Machine

variable {z s : State}

set_option maxRecDepth 8000

theorem State.atcEvict_keeps (hz : Keeps z s) : Keeps z (State.atcEvict s) := by
  unfold State.atcEvict
  repeat' first
    | (with_reducible assumption)
    | intro _
    | (with_reducible apply Keeps.ite)
    | (with_reducible refine Keeps.upd rfl rfl rfl rfl rfl rfl rfl rfl rfl rfl rfl rfl rfl rfl rfl rfl ?_; first | (with_reducible assumption) | (with_reducible apply Keeps.ite) | split)
    | split
    | (refine Keeps.updF rfl rfl rfl rfl rfl rfl rfl rfl rfl rfl rfl rfl rfl rfl rfl rfl ?_; first | (with_reducible assumption) | (with_reducible apply Keeps.ite) | split)

theorem State.atcShow_keeps (hz : Keeps z s) : Keeps z (State.atcShow s) := by
  unfold State.atcShow
  repeat' first
    | (with_reducible assumption)
    | (intro (x : State); refine_lift have : Keeps z x := ?val; ?main; (case' val => subst x); (case' main => first | clear_value x | subst x))
    | intro _
    | lift_lets
    | (with_reducible apply State.put_keeps)

theorem State.translate_keeps (w : Who) (a : Nat) (write : Bool) (hz : Keeps z s) : Keeps z (State.translate s w a write) := by
  unfold State.translate
  repeat' first
    | (with_reducible assumption)
    | (intro (x : State); refine_lift have : Keeps z x := ?val; ?main; (case' val => subst x); (case' main => first | clear_value x | subst x))
    | (intro x; subst x)
    | intro _
    | lift_lets
    | (with_reducible apply State.atcEvict_keeps)
    | (with_reducible apply State.atcShow_keeps)
    | (with_reducible apply State.emit_keeps)
    | (with_reducible apply Keeps.ite)
    | (refine Keeps.fst ?_ (by assumption))
    | (with_reducible refine Keeps.upd rfl rfl rfl rfl rfl rfl rfl rfl rfl rfl rfl rfl rfl rfl rfl rfl ?_; first | (with_reducible assumption) | (with_reducible apply State.atcEvict_keeps) | (with_reducible apply State.atcShow_keeps) | (with_reducible apply State.emit_keeps) | (with_reducible apply Keeps.ite) | split)
    | split

theorem State.hostWr_keeps (w : Who) (a : Nat) (bytes : List Byte) (hz : Keeps z s) : Keeps z (State.hostWr s w a bytes) := by
  unfold State.hostWr
  repeat' first
    | (with_reducible assumption)
    | (intro (x : State); refine_lift have : Keeps z x := ?val; ?main; (case' val => subst x); (case' main => first | clear_value x | subst x))
    | (intro x; subst x)
    | intro _
    | lift_lets
    | (with_reducible apply State.emit_keeps)
    | (with_reducible apply State.translate_keeps)
    | (with_reducible refine Keeps.foldl ?_ _ (fun _ _ _ => ?_))
    | (with_reducible refine Keeps.foldlPair ?_ _ (fun _ _ _ => ?_))

theorem State.hostRd_keeps (w : Who) (a : Nat) (len : Nat) (hz : Keeps z s) : Keeps z (State.hostRd s w a len) := by
  unfold State.hostRd
  repeat' first
    | (with_reducible assumption)
    | (intro (x : State); refine_lift have : Keeps z x := ?val; ?main; (case' val => subst x); (case' main => first | clear_value x | subst x))
    | (intro x; subst x)
    | intro _
    | lift_lets
    | (with_reducible apply State.emit_keeps)
    | (with_reducible apply State.translate_keeps)
    | (with_reducible refine Keeps.foldl ?_ _ (fun _ _ _ => ?_))
    | (with_reducible refine Keeps.foldlPair ?_ _ (fun _ _ _ => ?_))

theorem State.raise_keeps (w : Who) (k : Nat) (hz : Keeps z s) : Keeps z (State.raise s w k) := by
  unfold State.raise
  repeat' first
    | (with_reducible assumption)
    | (intro x; subst x)
    | intro _
    | lift_lets
    | (with_reducible apply State.emit_keeps)
    | (with_reducible apply State.put_keeps)
    | (with_reducible apply Keeps.ite)

theorem State.hostPut_keeps (w : Who) (a : Nat) (bytes : List Byte) (vec : Option Nat) (hz : Keeps z s) : Keeps z (State.hostPut s w a bytes vec) := by
  unfold State.hostPut
  repeat' first
    | (with_reducible assumption)
    | (intro (x : State); refine_lift have : Keeps z x := ?val; ?main; (case' val => subst x); (case' main => first | clear_value x | subst x))
    | (intro x; subst x)
    | intro _
    | lift_lets
    | (with_reducible apply State.hostWr_keeps)
    | (with_reducible apply State.raise_keeps)
    | (with_reducible apply Keeps.ite)
    | (refine Keeps.fst ?_ (by assumption))
    | (with_reducible refine Keeps.upd rfl rfl rfl rfl rfl rfl rfl rfl rfl rfl rfl rfl rfl rfl rfl rfl ?_; first | (with_reducible assumption) | (with_reducible apply State.hostWr_keeps) | (with_reducible apply State.raise_keeps) | (with_reducible apply Keeps.ite) | split)
    | split

theorem State.hostFlush_keeps (w : Who) (hz : Keeps z s) : Keeps z (State.hostFlush s w) := by
  unfold State.hostFlush
  repeat' first
    | (with_reducible assumption)
    | (intro (x : State); refine_lift have : Keeps z x := ?val; ?main; (case' val => subst x); (case' main => first | clear_value x | subst x))
    | (intro x; subst x)
    | intro _
    | lift_lets
    | (with_reducible apply State.hostPut_keeps)
    | (with_reducible refine Keeps.foldl ?_ _ (fun _ _ _ => ?_))
    | (with_reducible refine Keeps.upd rfl rfl rfl rfl rfl rfl rfl rfl rfl rfl rfl rfl rfl rfl rfl rfl ?_; first  | (with_reducible assumption))

theorem State.priNext_keeps (p : Port) (hz : Keeps z s) : Keeps z (State.priNext s p) := by
  unfold State.priNext
  repeat' first
    | (with_reducible assumption)
    | (intro (x : State); refine_lift have : Keeps z x := ?val; ?main; (case' val => subst x); (case' main => first | clear_value x | subst x))
    | (intro x; subst x)
    | intro _
    | lift_lets
    | (with_reducible apply State.atcShow_keeps)
    | (with_reducible apply State.emit_keeps)
    | (with_reducible apply Keeps.ite)
    | (with_reducible refine Keeps.foldl ?_ _ (fun _ _ _ => ?_))
    | (with_reducible refine Keeps.foldlPair ?_ _ (fun _ _ _ => ?_))
    | (refine Keeps.fst ?_ (by assumption))
    | (with_reducible refine Keeps.upd rfl rfl rfl rfl rfl rfl rfl rfl rfl rfl rfl rfl rfl rfl rfl rfl ?_; first | (with_reducible assumption) | (with_reducible apply State.atcShow_keeps) | (with_reducible apply State.emit_keeps) | (with_reducible apply Keeps.ite) | (with_reducible refine Keeps.foldl ?_ _ (fun _ _ _ => ?_)) | split)
    | split

theorem State.priSend_keeps (hz : Keeps z s) : Keeps z (State.priSend s) := by
  unfold State.priSend
  repeat' first
    | (with_reducible assumption)
    | intro _
    | (with_reducible apply State.priNext_keeps)
    | (with_reducible refine Keeps.foldl ?_ _ (fun _ _ _ => ?_))
    | (with_reducible refine Keeps.foldlPair ?_ _ (fun _ _ _ => ?_))

theorem State.priDrop_keeps (p : PageReq → Bool) (hz : Keeps z s) : Keeps z (State.priDrop s p) := by
  unfold State.priDrop
  repeat' first
    | (with_reducible assumption)
    | intro _
    | (with_reducible apply State.atcShow_keeps)
    | (with_reducible apply State.priSend_keeps)
    | (with_reducible apply Keeps.ite)
    | (with_reducible refine Keeps.upd rfl rfl rfl rfl rfl rfl rfl rfl rfl rfl rfl rfl rfl rfl rfl rfl ?_; first | (with_reducible assumption) | (with_reducible apply State.atcShow_keeps) | (with_reducible apply State.priSend_keeps) | (with_reducible apply Keeps.ite) | split)
    | split

theorem State.scPriDrop_keeps (n : Nat) (hz : Keeps z s) : Keeps z (State.scPriDrop s n) := by
  unfold State.scPriDrop
  repeat' first
    | (with_reducible assumption)
    | intro _
    | (with_reducible apply State.priDrop_keeps)

theorem State.dcPriDrop_keeps (n : Nat) (hz : Keeps z s) : Keeps z (State.dcPriDrop s n) := by
  unfold State.dcPriDrop
  repeat' first
    | (with_reducible assumption)
    | intro _
    | (with_reducible apply State.priDrop_keeps)

theorem State.ssrPriDrop_keeps (n : Nat) (hz : Keeps z s) : Keeps z (State.ssrPriDrop s n) := by
  unfold State.ssrPriDrop
  repeat' first
    | (with_reducible assumption)
    | intro _
    | (with_reducible apply State.priDrop_keeps)
    | (refine Keeps.fst ?_ (by assumption))
    | split

theorem State.recPriDrop_keeps (n : Nat) (hz : Keeps z s) : Keeps z (State.recPriDrop s n) := by
  unfold State.recPriDrop
  repeat' first
    | (with_reducible assumption)
    | intro _
    | (with_reducible apply State.priDrop_keeps)
    | (refine Keeps.fst ?_ (by assumption))
    | split

theorem State.aerReport_keeps (p : Port) (fn : Nat) (e : AerErr) (hz : Keeps z s) : Keeps z (State.aerReport s p fn e) := by
  unfold State.aerReport
  repeat' first
    | (with_reducible assumption)
    | (intro (x : State); refine_lift have : Keeps z x := ?val; ?main; (case' val => subst x); (case' main => first | clear_value x | subst x))
    | (intro x; subst x)
    | intro _
    | lift_lets
    | (with_reducible apply State.emit_keeps)
    | (with_reducible apply Keeps.ite)
    | (with_reducible refine Keeps.upd rfl rfl rfl rfl rfl rfl rfl rfl rfl rfl rfl rfl rfl rfl rfl rfl ?_; first | (with_reducible assumption) | (with_reducible apply State.emit_keeps) | (with_reducible apply Keeps.ite) | split)
    | split

theorem State.modRing_keeps (r : RingId) (f : RingX → RingX) (hz : Keeps z s) : Keeps z (State.modRing s r f) :=
  hz.same (by simp [State.kept, State.units, State.modRing, modAt])

theorem State.writeCpl_keeps (r : RingId) (c : Cpl) (hz : Keeps z s) : Keeps z (State.writeCpl s r c) := by
  unfold State.writeCpl
  repeat' first
    | (with_reducible assumption)
    | (intro (x : State); refine_lift have : Keeps z x := ?val; ?main; (case' val => subst x); (case' main => first | clear_value x | subst x))
    | (intro x; subst x)
    | intro _
    | lift_lets
    | (with_reducible apply State.hostWr_keeps)
    | (with_reducible apply State.put_keeps)
    | (with_reducible apply Keeps.ite)

theorem State.raiseRing_keeps (r : RingId) (hz : Keeps z s) : Keeps z (State.raiseRing s r) := by
  unfold State.raiseRing
  repeat' first
    | (with_reducible assumption)
    | (intro (x : State); refine_lift have : Keeps z x := ?val; ?main; (case' val => subst x); (case' main => first | clear_value x | subst x))
    | intro _
    | lift_lets
    | (with_reducible apply State.modRing_keeps)
    | (with_reducible apply State.raise_keeps)

theorem State.signal_keeps (r : RingId) (c : Cpl) (hz : Keeps z s) : Keeps z (State.signal s r c) := by
  unfold State.signal
  repeat' first
    | (with_reducible assumption)
    | (intro x; subst x)
    | intro _
    | lift_lets
    | (with_reducible apply State.modRing_keeps)
    | (with_reducible apply State.raiseRing_keeps)
    | (with_reducible apply Keeps.ite)

theorem State.post_keeps (r : RingId) (c : Cpl) (hz : Keeps z s) : Keeps z (State.post s r c) := by
  unfold State.post
  repeat' first
    | (with_reducible assumption)
    | intro _
    | (with_reducible apply State.modRing_keeps)
    | (with_reducible apply State.signal_keeps)
    | (with_reducible apply State.writeCpl_keeps)
    | (with_reducible apply Keeps.ite)
    | split

theorem State.postHeld_keeps (r : RingId) (hz : Keeps z s) : Keeps z (State.postHeld s r) := by
  unfold State.postHeld
  repeat' first
    | (with_reducible assumption)
    | (intro (x : State); refine_lift have : Keeps z x := ?val; ?main; (case' val => subst x); (case' main => first | clear_value x | subst x))
    | (intro x; subst x)
    | intro _
    | lift_lets
    | (with_reducible apply State.modRing_keeps)
    | (with_reducible apply State.signal_keeps)
    | (with_reducible apply State.writeCpl_keeps)
    | (with_reducible refine Keeps.foldl ?_ _ (fun _ _ _ => ?_))

theorem State.modCmd_keeps (t : Tag) (f : Cmd → Cmd) (hz : Keeps z s) : Keeps z (State.modCmd s t f) := by
  unfold State.modCmd
  repeat' first
    | (with_reducible assumption)
    | intro _
    | (with_reducible apply Keeps.ite)
    | (with_reducible refine Keeps.upd rfl rfl rfl rfl rfl rfl rfl rfl rfl rfl rfl rfl rfl rfl rfl rfl ?_; first  | (with_reducible assumption))

theorem State.dropCmd_keeps (t : Tag) (hz : Keeps z s) : Keeps z (State.dropCmd s t) := by
  unfold State.dropCmd
  repeat' first
    | (with_reducible assumption)
    | intro _
    | (with_reducible refine Keeps.upd rfl rfl rfl rfl rfl rfl rfl rfl rfl rfl rfl rfl rfl rfl rfl rfl ?_; first | (with_reducible assumption) | split)

theorem State.complete_keeps (t : Tag) (status : Nat) (result : Nat) (aux : Nat) (hz : Keeps z s) : Keeps z (State.complete s t status result aux) := by
  unfold State.complete
  repeat' first
    | (with_reducible assumption)
    | (intro (x : State); refine_lift have : Keeps z x := ?val; ?main; (case' val => subst x); (case' main => first | clear_value x | subst x))
    | (intro x; subst x)
    | intro _
    | lift_lets
    | (with_reducible apply State.dropCmd_keeps)
    | (with_reducible apply State.post_keeps)
    | (with_reducible apply Keeps.ite)
    | (refine Keeps.fst ?_ (by assumption))
    | split

theorem State.done_keeps (t : Tag) (result aux : Nat) (hz : Keeps z s) : Keeps z (State.done s t result aux) := by
  unfold State.done
  repeat' first
    | (with_reducible assumption)
    | intro _
    | (with_reducible apply State.complete_keeps)

theorem State.doneBuf_keeps (t : Tag) (bytes : List Byte) (result aux : Nat) (hz : Keeps z s) : Keeps z (State.doneBuf s t bytes result aux) := by
  unfold State.doneBuf
  repeat' first
    | (with_reducible assumption)
    | (intro (x : State); refine_lift have : Keeps z x := ?val; ?main; (case' val => subst x); (case' main => first | clear_value x | subst x))
    | (intro x; subst x)
    | intro _
    | lift_lets
    | (with_reducible apply State.complete_keeps)
    | (with_reducible apply State.hostPut_keeps)
    | (with_reducible apply Keeps.ite)
    | (refine Keeps.fst ?_ (by assumption))
    | (with_reducible refine Keeps.upd rfl rfl rfl rfl rfl rfl rfl rfl rfl rfl rfl rfl rfl rfl rfl rfl ?_; first | (with_reducible assumption) | (with_reducible apply State.complete_keeps) | (with_reducible apply State.hostPut_keeps) | (with_reducible apply Keeps.ite) | split)

theorem State.badAccess_keeps (w : Who) (off : Nat) (hz : Keeps z s) : Keeps z (State.badAccess s w off) := by
  unfold State.badAccess
  repeat' first
    | (with_reducible assumption)
    | intro _
    | (with_reducible apply State.log_keeps)

theorem State.writeEv_keeps (e : Ev) (logSeq : Nat) (hz : Keeps z s) : Keeps z (State.writeEv s e logSeq) := by
  unfold State.writeEv
  repeat' first
    | (with_reducible assumption)
    | (intro (x : State); refine_lift have : Keeps z x := ?val; ?main; (case' val => subst x); (case' main => first | clear_value x | subst x))
    | (intro x; subst x)
    | intro _
    | lift_lets
    | (with_reducible apply State.hostWr_keeps)
    | (with_reducible apply State.put_keeps)
    | (with_reducible apply State.raise_keeps)
    | (with_reducible apply Keeps.ite)

theorem State.evQueue_keeps (e : Ev) (logSeq : Nat) (hz : Keeps z s) : Keeps z (State.evQueue s e logSeq) := by
  unfold State.evQueue
  repeat' first
    | (with_reducible assumption)
    | intro _
    | (with_reducible apply State.count_keeps)
    | (with_reducible apply Keeps.ite)
    | (with_reducible refine Keeps.upd rfl rfl rfl rfl rfl rfl rfl rfl rfl rfl rfl rfl rfl rfl rfl rfl ?_; first  | (with_reducible assumption))

theorem State.evDropEntry_keeps (hz : Keeps z s) : Keeps z (State.evDropEntry s) := by
  unfold State.evDropEntry
  repeat' first
    | (with_reducible assumption)
    | (intro x; subst x)
    | intro _
    | lift_lets
    | (with_reducible apply State.put_keeps)
    | (with_reducible apply State.writeEv_keeps)
    | (with_reducible apply Keeps.ite)

theorem State.evFlush_keeps (x0 : Nat) (hz : Keeps z s) : Keeps z (State.evFlush s x0) := by
  induction x0 generalizing s with
  | zero => unfold State.evFlush; (try split) <;> exact hz
  | succ n ih =>
  unfold State.evFlush
  repeat' first
    | (with_reducible assumption)
    | (with_reducible apply ih)
    | intro _
    | (with_reducible apply State.writeEv_keeps)
    | (with_reducible apply Keeps.ite)
    | (refine Keeps.fst ?_ (by assumption))
    | (with_reducible refine Keeps.upd rfl rfl rfl rfl rfl rfl rfl rfl rfl rfl rfl rfl rfl rfl rfl rfl ?_; first | (with_reducible assumption) | (with_reducible apply State.writeEv_keeps) | (with_reducible apply Keeps.ite) | split)

theorem State.evPost_keeps (hz : Keeps z s) : Keeps z (State.evPost s) := by
  unfold State.evPost
  repeat' first
    | (with_reducible assumption)
    | intro _
    | (with_reducible apply State.evDropEntry_keeps)
    | (with_reducible apply State.evFlush_keeps)
    | (with_reducible apply State.touch_keeps)

theorem State.evWaiting_keeps (hz : Keeps z s) : Keeps z (State.evWaiting s) := by
  unfold State.evWaiting
  repeat' first
    | (with_reducible assumption)
    | intro _
    | (with_reducible apply State.evPost_keeps)
    | (with_reducible apply Keeps.ite)
    | split

theorem State.evRecord_keeps (e : Ev) (q : Nat) (hz : Keeps z s) : Keeps z (State.evRecord s e q) := by
  unfold State.evRecord
  repeat' first
    | (with_reducible assumption)
    | intro _
    | (with_reducible apply State.evPost_keeps)
    | (with_reducible apply State.evQueue_keeps)
    | (with_reducible apply Keeps.ite)

end Sys2Proof.Machine
end

