-- ==== Sys2Proof/Laws/KeepsChainCache.lean ====
section
/-!
SUPPORT. Every operation of Machine/ChainCache.lean keeps (Laws/Keeps.lean).
-/

namespace Sys2Proof.Machine

variable {z s : State}

set_option maxRecDepth 8000

theorem State.cchShow_keeps (hz : Keeps z s) : Keeps z (State.cchShow s) := by
  unfold State.cchShow
  repeat' first
    | (with_reducible assumption)
    | (intro (x : State); refine_lift have : Keeps z x := ?val; ?main; (case' val => subst x); (case' main => first | clear_value x | subst x))
    | (intro x; subst x)
    | intro _
    | lift_lets
    | (with_reducible apply State.putB_keeps)
    | (with_reducible apply State.put_keeps)

theorem State.modCch_keeps (f : Cch → Cch) (hz : Keeps z s) : Keeps z (State.modCch s f) := by
  unfold State.modCch
  repeat' first
    | (with_reducible assumption)
    | intro _
    | (with_reducible apply State.cchShow_keeps)
    | (with_reducible refine Keeps.upd rfl rfl rfl rfl rfl rfl rfl rfl rfl rfl rfl rfl rfl rfl rfl rfl ?_; first  | (with_reducible assumption))

theorem State.cchLook_keeps (o a : Nat) (hz : Keeps z s) : Keeps z (State.cchLook s o a).1 := by
  unfold State.cchLook
  repeat' first
    | (with_reducible assumption)
    | (intro (x : State); refine_lift have : Keeps z x := ?val; ?main; (case' val => subst x); (case' main => first | clear_value x | subst x))
    | intro _
    | lift_lets
    | (with_reducible apply State.count_keeps)
    | (with_reducible apply State.modCch_keeps)
    | (with_reducible apply Keeps.ite)
    | (refine Keeps.fst ?_ (by assumption))
    | (with_reducible refine Keeps.upd rfl rfl rfl rfl rfl rfl rfl rfl rfl rfl rfl rfl rfl rfl rfl rfl ?_; first | (with_reducible assumption) | (with_reducible apply State.count_keeps) | (with_reducible apply State.modCch_keeps) | (with_reducible apply Keeps.ite) | split)

theorem State.cchMiss_keeps (sub o a : Nat) (install : Bool) (hz : Keeps z s) : Keeps z (State.cchMiss s sub o a install) := by
  unfold State.cchMiss
  repeat' first
    | (with_reducible assumption)
    | (intro (x : State); refine_lift have : Keeps z x := ?val; ?main; (case' val => subst x); (case' main => first | clear_value x | subst x))
    | (intro x; subst x)
    | intro _
    | lift_lets
    | (with_reducible apply State.count_keeps)
    | (with_reducible apply State.hostRd_keeps)
    | (with_reducible apply State.modCch_keeps)

theorem State.cchStore_keeps (o a : Nat) (bytes : List Byte) (hz : Keeps z s) : Keeps z (State.cchStore s o a bytes) := by
  unfold State.cchStore
  repeat' first
    | (with_reducible assumption)
    | intro _
    | lift_lets
    | (with_reducible apply State.modCch_keeps)

theorem State.storeDrain1_keeps (hz : Keeps z s) : Keeps z (State.storeDrain1 s) := by
  unfold State.storeDrain1
  repeat' first
    | (with_reducible assumption)
    | intro _
    | (with_reducible apply State.hostPut_keeps)
    | (with_reducible apply State.modCch_keeps)
    | (refine Keeps.fst ?_ (by assumption))
    | (with_reducible refine Keeps.upd rfl rfl rfl rfl rfl rfl rfl rfl rfl rfl rfl rfl rfl rfl rfl rfl ?_; first | (with_reducible assumption) | (with_reducible apply State.hostPut_keeps) | (with_reducible apply State.modCch_keeps) | split)

theorem State.storeDrainAll_keeps (hz : Keeps z s) : Keeps z (State.storeDrainAll s) := by
  unfold State.storeDrainAll
  repeat' first
    | (with_reducible assumption)
    | intro _
    | (with_reducible apply State.storeDrain1_keeps)
    | (with_reducible refine Keeps.foldl ?_ _ (fun _ _ _ => ?_))

theorem execStoreDrain_keeps (hz : Keeps z s) : ∃ y, execStoreDrain s = .next y ∧ Keeps z y := by
  unfold execStoreDrain
  refine ⟨_, rfl, ?_⟩
  repeat' first
    | (with_reducible assumption)
    | intro _
    | (with_reducible apply State.storeDrain1_keeps)

theorem State.cchTouch_keeps (o a n : Nat) (hz : Keeps z s) : Keeps z (State.cchTouch s o a n) := by
  unfold State.cchTouch
  repeat' first
    | (with_reducible assumption)
    | (intro x; subst x)
    | intro _
    | lift_lets
    | (with_reducible apply State.modCch_keeps)
    | (with_reducible apply Keeps.ite)

theorem State.cchInval_keeps (scope o a : Nat) (hz : Keeps z s) : Keeps z (State.cchInval s scope o a).1 := by
  unfold State.cchInval
  repeat' first
    | (with_reducible assumption)
    | (intro x; subst x)
    | intro _
    | lift_lets
    | (with_reducible apply State.modCch_keeps)

theorem execCchInvalAll_keeps (hz : Keeps z s) : ∃ y, execCchInvalAll s = .next y ∧ Keeps z y := by
  unfold execCchInvalAll
  refine ⟨_, rfl, ?_⟩
  repeat' first
    | (with_reducible assumption)
    | intro _
    | (with_reducible apply State.cchInval_keeps)
    | (with_reducible apply Keeps.ite)
    | split

theorem execCchCtlDrain_keeps (hz : Keeps z s) : ∃ y, execCchCtlDrain s = .next y ∧ Keeps z y := by
  unfold execCchCtlDrain
  refine ⟨_, rfl, ?_⟩
  repeat' first
    | (with_reducible assumption)
    | intro _
    | (with_reducible apply State.storeDrainAll_keeps)
    | (with_reducible apply Keeps.ite)
    | split

theorem execCchCntClr_keeps (hz : Keeps z s) : ∃ y, execCchCntClr s = .next y ∧ Keeps z y := by
  unfold execCchCntClr
  refine ⟨_, rfl, ?_⟩
  repeat' first
    | (with_reducible assumption)
    | intro _
    | (with_reducible apply State.put_keeps)
    | (with_reducible apply Keeps.ite)
    | split

theorem State.cchClear_keeps (hz : Keeps z s) : Keeps z (State.cchClear s) := by
  unfold State.cchClear
  repeat' first
    | (with_reducible assumption)
    | intro _
    | (with_reducible apply State.modCch_keeps)

theorem State.storesDrop_keeps (p : Nat → Bool) (hz : Keeps z s) : Keeps z (State.storesDrop s p).1 := by
  unfold State.storesDrop
  repeat' first
    | (with_reducible assumption)
    | (intro x; subst x)
    | intro _
    | lift_lets
    | (with_reducible apply State.modCch_keeps)

end Sys2Proof.Machine
end

