-- ==== Sys2Proof/Laws/KeepsCpe.lean ====
section
/-!
SUPPORT. Every operation of Machine/Cpe.lean keeps (Laws/Keeps.lean).
-/

namespace Sys2Proof.Machine

variable {z s : State}

set_option maxRecDepth 8000

theorem State.modSub_keeps (n : Nat) (f : Sub → Sub) (hz : Keeps z s) : Keeps z (State.modSub s n f) :=
  hz.same (by simp [State.kept, State.units, State.modSub, modAt])

theorem State.setScAddr_keeps (n a : Nat) (hz : Keeps z s) : Keeps z (State.setScAddr s n a) := by
  unfold State.setScAddr
  repeat' first
    | (with_reducible assumption)
    | intro _
    | (with_reducible apply State.put_keeps)

theorem State.scShow_keeps (n : Nat) (hz : Keeps z s) : Keeps z (State.scShow s n) := by
  unfold State.scShow
  repeat' first
    | (with_reducible assumption)
    | intro _
    | (with_reducible apply State.put_keeps)

theorem State.portRelease_keeps (n : Nat) (hz : Keeps z s) : Keeps z (State.portRelease s n) := by
  unfold State.portRelease
  repeat' first
    | (with_reducible assumption)
    | (intro (x : State); refine_lift have : Keeps z x := ?val; ?main; (case' val => subst x); (case' main => first | clear_value x | subst x))
    | (intro x; subst x)
    | intro _
    | lift_lets
    | (with_reducible apply State.emit_keeps)
    | (with_reducible apply State.modSub_keeps)
    | (with_reducible apply State.put_keeps)
    | (with_reducible apply Keeps.ite)
    | split

theorem State.ssr_keeps (n : Nat) (reason : Nat) (status : Nat) (resid : Nat) (fault : Nat) (hz : Keeps z s) : Keeps z (State.ssr s n reason status resid fault) := by
  unfold State.ssr
  repeat' first
    | (with_reducible assumption)
    | (intro (x : State); refine_lift have : Keeps z x := ?val; ?main; (case' val => subst x); (case' main => first | clear_value x | subst x))
    | (intro x; subst x)
    | intro _
    | lift_lets
    | (with_reducible apply State.hostPut_keeps)
    | (with_reducible apply State.modSub_keeps)
    | (with_reducible apply State.put_keeps)
    | (with_reducible apply State.storeDrainAll_keeps)
    | (with_reducible apply State.touch_keeps)
    | (with_reducible apply Keeps.ite)
    | split

theorem State.scStop_keeps (n : Nat) (reason : Nat) (status : Nat) (resid : Nat) (fault : Nat) (hz : Keeps z s) : Keeps z (State.scStop s n reason status resid fault) := by
  unfold State.scStop
  repeat' first
    | (with_reducible assumption)
    | (intro (x : State); refine_lift have : Keeps z x := ?val; ?main; (case' val => subst x); (case' main => first | clear_value x | subst x))
    | (intro x; subst x)
    | intro _
    | lift_lets
    | (with_reducible apply State.admDrop_keeps)
    | (with_reducible apply State.modSub_keeps)
    | (with_reducible apply State.portRelease_keeps)
    | (with_reducible apply State.put_keeps)
    | (with_reducible apply State.ssr_keeps)
    | (with_reducible apply Keeps.ite)
    | split

theorem State.scFail_keeps (n status fault : Nat) (hz : Keeps z s) : Keeps z (State.scFail s n status fault) := by
  unfold State.scFail
  repeat' first
    | (with_reducible assumption)
    | intro _
    | (with_reducible apply State.scStop_keeps)

theorem State.scIdle_keeps (n : Nat) (hz : Keeps z s) : Keeps z (State.scIdle s n) := by
  unfold State.scIdle
  repeat' first
    | (with_reducible assumption)
    | (intro (x : State); refine_lift have : Keeps z x := ?val; ?main; (case' val => subst x); (case' main => first | clear_value x | subst x))
    | (intro x; subst x)
    | intro _
    | lift_lets
    | (with_reducible apply State.admDrop_keeps)
    | (with_reducible apply State.modSub_keeps)
    | (with_reducible apply State.portRelease_keeps)
    | (with_reducible apply State.put_keeps)
    | (with_reducible apply State.setReg_keeps)
    | (with_reducible apply State.setScAddr_keeps)

theorem State.scLeave_keeps (n : Nat) (hz : Keeps z s) : Keeps z (State.scLeave s n) := by
  unfold State.scLeave
  repeat' first
    | (with_reducible assumption)
    | intro _
    | (with_reducible apply State.modSub_keeps)
    | (with_reducible apply State.scIdle_keeps)
    | (with_reducible apply State.scPriDrop_keeps)
    | (with_reducible apply State.ssrPriDrop_keeps)

theorem State.scHalt_keeps (n : Nat) (hz : Keeps z s) : Keeps z (State.scHalt s n) := by
  unfold State.scHalt
  repeat' first
    | (with_reducible assumption)
    | (intro (x : State); refine_lift have : Keeps z x := ?val; ?main; (case' val => subst x); (case' main => first | clear_value x | subst x))
    | (intro x; subst x)
    | intro _
    | lift_lets
    | (with_reducible apply State.admDrop_keeps)
    | (with_reducible apply State.portRelease_keeps)
    | (with_reducible apply State.put_keeps)
    | (with_reducible apply State.scIdle_keeps)
    | (with_reducible apply State.setScAddr_keeps)
    | (with_reducible apply State.ssr_keeps)
    | (with_reducible apply Keeps.ite)

theorem State.scNext_keeps (n : Nat) (a : Nat) (hz : Keeps z s) : Keeps z (State.scNext s n a) := by
  unfold State.scNext
  repeat' first
    | (with_reducible assumption)
    | (intro (x : State); refine_lift have : Keeps z x := ?val; ?main; (case' val => subst x); (case' main => first | clear_value x | subst x))
    | (intro x; subst x)
    | intro _
    | lift_lets
    | (with_reducible apply State.modSub_keeps)
    | (with_reducible apply State.put_keeps)
    | (with_reducible apply State.setScAddr_keeps)
    | (with_reducible apply Keeps.ite)
    | split

theorem State.scEntryDone_keeps (n st next : Nat) (hz : Keeps z s) : Keeps z (State.scEntryDone s n st next) := by
  unfold State.scEntryDone
  repeat' first
    | (with_reducible assumption)
    | (intro (x : State); refine_lift have : Keeps z x := ?val; ?main; (case' val => subst x); (case' main => first | clear_value x | subst x))
    | (intro x; subst x)
    | intro _
    | lift_lets
    | (with_reducible apply State.modSub_keeps)
    | (with_reducible apply State.scNext_keeps)
    | (with_reducible apply State.scStop_keeps)
    | (with_reducible apply State.ssr_keeps)
    | (with_reducible apply Keeps.ite)

theorem State.scSuspendNow_keeps (n : Nat) (status : Option Nat) (hz : Keeps z s) : Keeps z (State.scSuspendNow s n status) := by
  unfold State.scSuspendNow
  repeat' first
    | (with_reducible assumption)
    | (intro (x : State); refine_lift have : Keeps z x := ?val; ?main; (case' val => subst x); (case' main => first | clear_value x | subst x))
    | (intro x; subst x)
    | intro _
    | lift_lets
    | (with_reducible apply State.admDrop_keeps)
    | (with_reducible apply State.modSub_keeps)
    | (with_reducible apply State.portRelease_keeps)
    | (with_reducible apply State.put_keeps)
    | (with_reducible apply State.scPriDrop_keeps)
    | (with_reducible apply State.ssr_keeps)
    | (refine Keeps.fst ?_ (by assumption))
    | split

theorem State.scHoldTake_keeps (n : Nat) (hz : Keeps z s) : Keeps z (State.scHoldTake s n) := by
  unfold State.scHoldTake
  repeat' first
    | (with_reducible assumption)
    | intro _
    | (with_reducible apply State.scSuspendNow_keeps)
    | (refine Keeps.fst ?_ (by assumption))
    | split

theorem State.scHold_keeps (n : Nat) (bit : Nat) (status : Option Nat) (hz : Keeps z s) : Keeps z (State.scHold s n bit status) := by
  unfold State.scHold
  repeat' first
    | (with_reducible assumption)
    | (intro (x : State); refine_lift have : Keeps z x := ?val; ?main; (case' val => subst x); (case' main => first | clear_value x | subst x))
    | (intro x; subst x)
    | intro _
    | lift_lets
    | (with_reducible apply State.modSub_keeps)
    | (with_reducible apply State.put_keeps)
    | (with_reducible apply State.scSuspendNow_keeps)
    | (with_reducible apply Keeps.ite)
    | split

theorem State.scGo_keeps (n : Nat) (hz : Keeps z s) : Keeps z (State.scGo s n) := by
  unfold State.scGo
  repeat' first
    | (with_reducible assumption)
    | (intro (x : State); refine_lift have : Keeps z x := ?val; ?main; (case' val => subst x); (case' main => first | clear_value x | subst x))
    | (intro x; subst x)
    | intro _
    | lift_lets
    | (with_reducible apply State.modSub_keeps)
    | (with_reducible apply State.put_keeps)
    | (with_reducible apply Keeps.ite)
    | split

theorem State.scUnhold_keeps (n : Nat) (mask : Nat) (hz : Keeps z s) : Keeps z (State.scUnhold s n mask) := by
  unfold State.scUnhold
  repeat' first
    | (with_reducible assumption)
    | (intro (x : State); refine_lift have : Keeps z x := ?val; ?main; (case' val => subst x); (case' main => first | clear_value x | subst x))
    | (intro x; subst x)
    | intro _
    | lift_lets
    | (with_reducible apply State.modSub_keeps)
    | (with_reducible apply State.put_keeps)
    | (with_reducible apply State.scGo_keeps)
    | (with_reducible apply Keeps.ite)
    | split

theorem State.scReread_keeps (n : Nat) (hz : Keeps z s) : Keeps z (State.scReread s n) := by
  unfold State.scReread
  repeat' first
    | (with_reducible assumption)
    | (intro (x : State); refine_lift have : Keeps z x := ?val; ?main; (case' val => subst x); (case' main => first | clear_value x | subst x))
    | intro _
    | lift_lets
    | (with_reducible apply State.cchInval_keeps)
    | (with_reducible apply State.modSub_keeps)
    | (with_reducible apply State.put_keeps)

theorem State.scTailWait_keeps (n : Nat) (hz : Keeps z s) : Keeps z (State.scTailWait s n) := by
  unfold State.scTailWait
  repeat' first
    | (with_reducible assumption)
    | (intro (x : State); refine_lift have : Keeps z x := ?val; ?main; (case' val => subst x); (case' main => first | clear_value x | subst x))
    | (intro x; subst x)
    | intro _
    | lift_lets
    | (with_reducible apply State.modSub_keeps)
    | (with_reducible apply State.put_keeps)
    | (with_reducible apply State.ssr_keeps)
    | (with_reducible apply Keeps.ite)

theorem State.scJudge_keeps (n : Nat) (b : List Byte) (mem : Bool) (hz : Keeps z s) : Keeps z (State.scJudge s n b mem) := by
  unfold State.scJudge
  repeat' first
    | (with_reducible assumption)
    | (intro (x : State); refine_lift have : Keeps z x := ?val; ?main; (case' val => subst x); (case' main => first | clear_value x | subst x))
    | (intro x; subst x)
    | intro _
    | lift_lets
    | (with_reducible apply State.cchInval_keeps)
    | (with_reducible apply State.count_keeps)
    | (with_reducible apply State.log_keeps)
    | (with_reducible apply State.modSub_keeps)
    | (with_reducible apply State.portRelease_keeps)
    | (with_reducible apply State.scFail_keeps)
    | (with_reducible apply State.scShow_keeps)
    | (with_reducible apply State.scStop_keeps)
    | (with_reducible apply State.scTailWait_keeps)
    | (with_reducible apply Keeps.ite)
    | (refine Keeps.fst ?_ (by assumption))
    | split

theorem State.missWait_keeps (n : Nat) (hz : Keeps z s) : Keeps z (State.missWait s n) := by
  unfold State.missWait
  repeat' first
    | (with_reducible assumption)
    | intro _
    | (with_reducible apply Keeps.ite)
    | (with_reducible refine Keeps.upd rfl rfl rfl rfl rfl rfl rfl rfl rfl rfl rfl rfl rfl rfl rfl rfl ?_; first | (with_reducible assumption) | (with_reducible apply Keeps.ite) | split)
    | split

theorem State.missEnd_keeps (n : Nat) (hz : Keeps z s) : Keeps z (State.missEnd s n) := by
  unfold State.missEnd
  repeat' first
    | (with_reducible assumption)
    | intro _
    | (with_reducible refine Keeps.upd rfl rfl rfl rfl rfl rfl rfl rfl rfl rfl rfl rfl rfl rfl rfl rfl ?_; first | (with_reducible assumption) | split)

theorem State.scIssue_keeps (n : Nat) (hz : Keeps z s) : Keeps z (State.scIssue s n) := by
  unfold State.scIssue
  repeat' first
    | (with_reducible assumption)
    | (intro (x : State); refine_lift have : Keeps z x := ?val; ?main; (case' val => subst x); (case' main => first | clear_value x | subst x))
    | (intro x; subst x)
    | intro _
    | lift_lets
    | (with_reducible apply State.cchMiss_keeps)
    | (with_reducible apply State.missEnd_keeps)
    | (with_reducible apply State.missWait_keeps)
    | (with_reducible apply State.put_keeps)
    | (with_reducible apply Keeps.ite)
    | (with_reducible refine Keeps.upd rfl rfl rfl rfl rfl rfl rfl rfl rfl rfl rfl rfl rfl rfl rfl rfl ?_; first | (with_reducible assumption) | (with_reducible apply State.cchMiss_keeps) | (with_reducible apply State.missEnd_keeps) | (with_reducible apply State.missWait_keeps) | (with_reducible apply State.put_keeps) | (with_reducible apply Keeps.ite) | split)
    | split

theorem execCceFetch_keeps (n : Fin 32) (hz : Keeps z s) : ∃ y, execCceFetch n s = .next y ∧ Keeps z y := by
  unfold execCceFetch
  refine ⟨_, rfl, ?_⟩
  repeat' first
    | (with_reducible assumption)
    | (intro (x : State); refine_lift have : Keeps z x := ?val; ?main; (case' val => subst x); (case' main => first | clear_value x | subst x))
    | (intro x; subst x)
    | intro _
    | lift_lets
    | (with_reducible apply State.cchInval_keeps)
    | (with_reducible apply State.cchLook_keeps)
    | (with_reducible apply State.missEnd_keeps)
    | (with_reducible apply State.missWait_keeps)
    | (with_reducible apply State.scIssue_keeps)
    | (with_reducible apply State.scJudge_keeps)
    | (with_reducible apply Keeps.ite)
    | (refine Keeps.fst ?_ (by assumption))
    | split

theorem execChainCacheFill_keeps (bytes : List Byte) (err : Bool) (hz : Keeps z s) : ∃ y, execChainCacheFill bytes err s = .next y ∧ Keeps z y := by
  unfold execChainCacheFill
  refine ⟨_, rfl, ?_⟩
  repeat' first
    | (with_reducible assumption)
    | (intro (x : State); refine_lift have : Keeps z x := ?val; ?main; (case' val => subst x); (case' main => first | clear_value x | subst x))
    | (intro x; subst x)
    | intro _
    | lift_lets
    | (with_reducible apply State.modCch_keeps)
    | (with_reducible apply State.modSub_keeps)
    | (with_reducible apply State.scStop_keeps)
    | (with_reducible apply Keeps.ite)
    | (refine Keeps.fst ?_ (by assumption))
    | (with_reducible refine Keeps.upd rfl rfl rfl rfl rfl rfl rfl rfl rfl rfl rfl rfl rfl rfl rfl rfl ?_; first | (with_reducible assumption) | (with_reducible apply State.modCch_keeps) | (with_reducible apply State.modSub_keeps) | (with_reducible apply State.scStop_keeps) | (with_reducible apply Keeps.ite) | split)

theorem execCceNop_keeps (n : Fin 32) (hz : Keeps z s) : ∃ y, execCceNop n s = .next y ∧ Keeps z y := by
  unfold execCceNop
  refine ⟨_, rfl, ?_⟩
  repeat' first
    | (with_reducible assumption)
    | intro _
    | (with_reducible apply State.scEntryDone_keeps)
    | (with_reducible apply Keeps.ite)

theorem execCceWait_keeps (n : Fin 32) (ph1 : Bool) (hz : Keeps z s) : ∃ y, execCceWait n ph1 s = .next y ∧ Keeps z y := by
  unfold execCceWait
  refine ⟨_, rfl, ?_⟩
  repeat' first
    | (with_reducible assumption)
    | intro _
    | (with_reducible apply State.modSub_keeps)
    | (with_reducible apply State.put_keeps)
    | (with_reducible apply Keeps.ite)
    | split

theorem execWaitEnd_keeps (n : Fin 32) (hz : Keeps z s) : ∃ y, execWaitEnd n s = .next y ∧ Keeps z y := by
  unfold execWaitEnd
  refine ⟨_, rfl, ?_⟩
  repeat' first
    | (with_reducible assumption)
    | intro _
    | (with_reducible apply State.put_keeps)
    | (with_reducible apply State.scEntryDone_keeps)
    | (with_reducible apply Keeps.ite)

theorem execCcePost_keeps (n : Fin 32) (hz : Keeps z s) : ∃ y, execCcePost n s = .next y ∧ Keeps z y := by
  unfold execCcePost
  refine ⟨_, rfl, ?_⟩
  repeat' first
    | (with_reducible assumption)
    | (intro (x : State); refine_lift have : Keeps z x := ?val; ?main; (case' val => subst x); (case' main => first | clear_value x | subst x))
    | (intro x; subst x)
    | intro _
    | lift_lets
    | (with_reducible apply State.cchStore_keeps)
    | (with_reducible apply State.count_keeps)
    | (with_reducible apply State.scEntryDone_keeps)
    | (with_reducible apply State.touch_keeps)
    | (with_reducible apply Keeps.ite)

theorem execCceJump_keeps (n : Fin 32) (hz : Keeps z s) : ∃ y, execCceJump n s = .next y ∧ Keeps z y := by
  unfold execCceJump
  refine ⟨_, rfl, ?_⟩
  repeat' first
    | (with_reducible assumption)
    | (intro (x : State); refine_lift have : Keeps z x := ?val; ?main; (case' val => subst x); (case' main => first | clear_value x | subst x))
    | (intro x; subst x)
    | intro _
    | lift_lets
    | (with_reducible apply State.modSub_keeps)
    | (with_reducible apply State.scEntryDone_keeps)
    | (with_reducible apply Keeps.ite)

theorem execScDoorbell_keeps (who : Sender) (n : Fin 32) (hz : Keeps z s) : ∃ y, execScDoorbell who n s = .next y ∧ Keeps z y := by
  unfold execScDoorbell
  refine ⟨_, rfl, ?_⟩
  repeat' first
    | (with_reducible assumption)
    | (intro (x : State); refine_lift have : Keeps z x := ?val; ?main; (case' val => subst x); (case' main => first | clear_value x | subst x))
    | (intro x; subst x)
    | intro _
    | lift_lets
    | (with_reducible apply State.badAccess_keeps)
    | (with_reducible apply State.count_keeps)
    | (with_reducible apply State.put_keeps)
    | (with_reducible apply State.scReread_keeps)
    | (with_reducible apply Keeps.ite)
    | split

end Sys2Proof.Machine
end

