-- ==== Sys2Proof/Laws/KeepsBmv.lean ====
section
/-!
SUPPORT. Every operation of Machine/Bmv.lean keeps (Laws/Keeps.lean).
-/

namespace Sys2Proof.Machine

variable {z s : State}

set_option maxRecDepth 8000

theorem State.modChan_keeps (n : Nat) (f : Chan → Chan) (hz : Keeps z s) : Keeps z (State.modChan s n f) :=
  hz.same (by simp [State.kept, State.units, State.modChan, modAt])

theorem State.setDcAddr_keeps (n a : Nat) (hz : Keeps z s) : Keeps z (State.setDcAddr s n a) := by
  unfold State.setDcAddr
  repeat' first
    | (with_reducible assumption)
    | intro _
    | (with_reducible apply State.put_keeps)

theorem State.xwrite_keeps (o off : Nat) (x0 : List Byte) (hz : Keeps z s) : Keeps z (State.xwrite s o off x0) := by
  induction x0 generalizing s off with
  | nil => exact hz
  | cons b l ih =>
    unfold State.xwrite
    apply ih
    split
    · exact ⟨hz.pending, hz.frame, hz.ticks, hz.sub, hz.early, hz.out, hz.free, hz.regs, fun w => cellWf_set _ (hz.xmem w) _ _,
        hz.mram, hz.units⟩
    · exact hz

theorem State.xzero_keeps (b : Nat) (hz : Keeps z s) : Keeps z (State.xzero s b) :=
  ⟨hz.pending, hz.frame, hz.ticks, hz.sub, hz.early, hz.out, hz.free, hz.regs, fun w => cellWf_filter _ (hz.xmem w) _, hz.mram, hz.units⟩

theorem State.setXowner_keeps (b o : Nat) (hz : Keeps z s) : Keeps z (State.setXowner s b o) := by
  unfold State.setXowner
  repeat' first
    | (with_reducible assumption)
    | intro _
    | (with_reducible apply State.put_keeps)

theorem State.xSettle_keeps (hz : Keeps z s) : Keeps z (State.xSettle s) := by
  unfold State.xSettle
  repeat' first
    | (with_reducible assumption)
    | (intro (x : State); refine_lift have : Keeps z x := ?val; ?main; (case' val => subst x); (case' main => first | clear_value x | subst x))
    | (intro x; subst x)
    | intro _
    | lift_lets
    | (with_reducible apply State.setXowner_keeps)
    | (with_reducible apply State.xzero_keeps)
    | (with_reducible apply Keeps.ite)
    | (with_reducible refine Keeps.foldl ?_ _ (fun _ _ _ => ?_))
    | (with_reducible refine Keeps.upd rfl rfl rfl rfl rfl rfl rfl rfl rfl rfl rfl rfl rfl rfl rfl rfl ?_; first  | (with_reducible assumption))

theorem State.dcRecord_keeps (n : Nat) (residue : Nat) (tag : Nat) (status : Nat) (flags : Nat) (loud : Bool) (hz : Keeps z s) : Keeps z (State.dcRecord s n residue tag status flags loud) := by
  unfold State.dcRecord
  repeat' first
    | (with_reducible assumption)
    | (intro (x : State); refine_lift have : Keeps z x := ?val; ?main; (case' val => subst x); (case' main => first | clear_value x | subst x))
    | (intro x; subst x)
    | intro _
    | lift_lets
    | (with_reducible apply State.hostPut_keeps)
    | (with_reducible apply State.modChan_keeps)
    | (with_reducible apply State.put_keeps)
    | (with_reducible apply State.touch_keeps)
    | (with_reducible apply Keeps.ite)
    | split

theorem State.dcShow_keeps (n : Nat) (hz : Keeps z s) : Keeps z (State.dcShow s n) := by
  unfold State.dcShow
  repeat' first
    | (with_reducible assumption)
    | intro _
    | (with_reducible apply State.put_keeps)

theorem State.dcIdle_keeps (n : Nat) (hz : Keeps z s) : Keeps z (State.dcIdle s n) := by
  unfold State.dcIdle
  repeat' first
    | (with_reducible assumption)
    | (intro (x : State); refine_lift have : Keeps z x := ?val; ?main; (case' val => subst x); (case' main => first | clear_value x | subst x))
    | (intro x; subst x)
    | intro _
    | lift_lets
    | (with_reducible apply State.admDrop_keeps)
    | (with_reducible apply State.modChan_keeps)
    | (with_reducible apply State.put_keeps)
    | (with_reducible apply State.setDcAddr_keeps)

theorem State.dcLeave_keeps (n : Nat) (hz : Keeps z s) : Keeps z (State.dcLeave s n) := by
  unfold State.dcLeave
  repeat' first
    | (with_reducible assumption)
    | intro _
    | (with_reducible apply State.dcIdle_keeps)
    | (with_reducible apply State.dcPriDrop_keeps)
    | (with_reducible apply State.modChan_keeps)
    | (with_reducible apply State.recPriDrop_keeps)

theorem State.dcAdmit_keeps (n : Nat) (d : Desc) (hz : Keeps z s) : Keeps z (State.dcAdmit s n d) := by
  unfold State.dcAdmit
  repeat' first
    | (with_reducible assumption)
    | (intro (x : State); refine_lift have : Keeps z x := ?val; ?main; (case' val => subst x); (case' main => first | clear_value x | subst x))
    | (intro x; subst x)
    | intro _
    | lift_lets
    | (with_reducible apply State.modChan_keeps)
    | (with_reducible apply State.present_keeps)
    | (with_reducible apply Keeps.ite)
    | split

theorem State.dcKick_keeps (n : Nat) (hz : Keeps z s) : Keeps z (State.dcKick s n) := by
  unfold State.dcKick
  repeat' first
    | (with_reducible assumption)
    | (intro (x : State); refine_lift have : Keeps z x := ?val; ?main; (case' val => subst x); (case' main => first | clear_value x | subst x))
    | (intro x; subst x)
    | intro _
    | lift_lets
    | (with_reducible apply State.dcAdmit_keeps)
    | (with_reducible apply State.hostRd_keeps)
    | (with_reducible apply State.modChan_keeps)
    | (with_reducible apply State.put_keeps)
    | (with_reducible apply Keeps.ite)
    | (refine Keeps.fst ?_ (by assumption))
    | split

theorem State.dcFetch_keeps (n : Nat) (a : Nat) (hz : Keeps z s) : Keeps z (State.dcFetch s n a) := by
  unfold State.dcFetch
  repeat' first
    | (with_reducible assumption)
    | (intro (x : State); refine_lift have : Keeps z x := ?val; ?main; (case' val => subst x); (case' main => first | clear_value x | subst x))
    | (intro x; subst x)
    | intro _
    | lift_lets
    | (with_reducible apply State.dcKick_keeps)
    | (with_reducible apply State.modChan_keeps)
    | (with_reducible apply State.setDcAddr_keeps)

theorem State.dcPrefetch_keeps (n : Nat) (hz : Keeps z s) : Keeps z (State.dcPrefetch s n) := by
  unfold State.dcPrefetch
  repeat' first
    | (with_reducible assumption)
    | (intro (x : State); refine_lift have : Keeps z x := ?val; ?main; (case' val => subst x); (case' main => first | clear_value x | subst x))
    | (intro x; subst x)
    | intro _
    | lift_lets
    | (with_reducible apply State.hostRd_keeps)
    | (with_reducible apply State.modChan_keeps)
    | (with_reducible apply Keeps.ite)
    | (refine Keeps.fst ?_ (by assumption))
    | split

theorem State.dcTailWait_keeps (n : Nat) (d : Desc) (hz : Keeps z s) : Keeps z (State.dcTailWait s n d) := by
  unfold State.dcTailWait
  repeat' first
    | (with_reducible assumption)
    | intro _
    | (with_reducible apply State.dcShow_keeps)
    | (with_reducible apply State.modChan_keeps)
    | (with_reducible apply State.put_keeps)

theorem State.dcJudge_keeps (n : Nat) (b : List Byte) (pre : Bool) (hz : Keeps z s) : Keeps z (State.dcJudge s n b pre) := by
  unfold State.dcJudge
  repeat' first
    | (with_reducible assumption)
    | (intro (x : State); refine_lift have : Keeps z x := ?val; ?main; (case' val => subst x); (case' main => first | clear_value x | subst x))
    | (intro x; subst x)
    | intro _
    | lift_lets
    | (with_reducible apply State.dcAdmit_keeps)
    | (with_reducible apply State.dcKick_keeps)
    | (with_reducible apply State.dcPrefetch_keeps)
    | (with_reducible apply State.dcRecord_keeps)
    | (with_reducible apply State.dcShow_keeps)
    | (with_reducible apply State.dcTailWait_keeps)
    | (with_reducible apply State.modChan_keeps)
    | (with_reducible apply State.put_keeps)
    | (with_reducible apply Keeps.ite)
    | (refine Keeps.fst ?_ (by assumption))
    | split

theorem State.dcContinue_keeps (n : Nat) (d : Desc) (hz : Keeps z s) : Keeps z (State.dcContinue s n d) := by
  unfold State.dcContinue
  repeat' first
    | (with_reducible assumption)
    | (intro (x : State); refine_lift have : Keeps z x := ?val; ?main; (case' val => subst x); (case' main => first | clear_value x | subst x))
    | (intro x; subst x)
    | intro _
    | lift_lets
    | (with_reducible apply State.dcFetch_keeps)
    | (with_reducible apply State.dcIdle_keeps)
    | (with_reducible apply State.dcJudge_keeps)
    | (with_reducible apply State.modChan_keeps)
    | (with_reducible apply State.setDcAddr_keeps)
    | (with_reducible apply Keeps.ite)
    | (refine Keeps.fst ?_ (by assumption))
    | (with_reducible refine Keeps.upd rfl rfl rfl rfl rfl rfl rfl rfl rfl rfl rfl rfl rfl rfl rfl rfl ?_; first | (with_reducible assumption) | (with_reducible apply State.dcFetch_keeps) | (with_reducible apply State.dcIdle_keeps) | (with_reducible apply State.dcJudge_keeps) | (with_reducible apply State.modChan_keeps) | (with_reducible apply State.setDcAddr_keeps) | (with_reducible apply Keeps.ite) | split)

theorem State.dcWaitsDone_keeps (n aux : Nat) (hz : Keeps z s) : Keeps z (State.dcWaitsDone s n aux) := by
  unfold State.dcWaitsDone
  repeat' first
    | (with_reducible assumption)
    | (intro (x : State); refine_lift have : Keeps z x := ?val; ?main; (case' val => subst x); (case' main => first | clear_value x | subst x))
    | (intro x; subst x)
    | intro _
    | lift_lets
    | (with_reducible apply State.done_keeps)
    | (with_reducible apply State.modChan_keeps)
    | (with_reducible refine Keeps.foldl ?_ _ (fun _ _ _ => ?_))

theorem State.dcStopEnd_keeps (n : Nat) (k : DcStop) (hz : Keeps z s) : Keeps z (State.dcStopEnd s n k) := by
  unfold State.dcStopEnd
  repeat' first
    | (with_reducible assumption)
    | (intro (x : State); refine_lift have : Keeps z x := ?val; ?main; (case' val => subst x); (case' main => first | clear_value x | subst x))
    | (intro x; subst x)
    | intro _
    | lift_lets
    | (with_reducible apply State.admDrop_keeps)
    | (with_reducible apply State.complete_keeps)
    | (with_reducible apply State.dcContinue_keeps)
    | (with_reducible apply State.dcIdle_keeps)
    | (with_reducible apply State.dcLeave_keeps)
    | (with_reducible apply State.dcRecord_keeps)
    | (with_reducible apply State.dcShow_keeps)
    | (with_reducible apply State.dcWaitsDone_keeps)
    | (with_reducible apply State.log_keeps)
    | (with_reducible apply State.modChan_keeps)
    | (with_reducible apply State.put_keeps)
    | (with_reducible apply Keeps.ite)
    | (with_reducible refine Keeps.foldl ?_ _ (fun _ _ _ => ?_))
    | (with_reducible refine Keeps.foldlPair ?_ _ (fun _ _ _ => ?_))
    | (refine Keeps.fst ?_ (by assumption))
    | split

theorem State.dcConfirm_keeps (n : Nat) (d : Desc) (hz : Keeps z s) : Keeps z (State.dcConfirm s n d) := by
  unfold State.dcConfirm
  repeat' first
    | (with_reducible assumption)
    | (intro x; subst x)
    | intro _
    | lift_lets
    | (with_reducible apply State.hostRd_keeps)
    | (with_reducible apply State.modChan_keeps)

theorem State.dcDone_keeps (n : Nat) (d : Desc) (hz : Keeps z s) : Keeps z (State.dcDone s n d) := by
  unfold State.dcDone
  repeat' first
    | (with_reducible assumption)
    | (intro (x : State); refine_lift have : Keeps z x := ?val; ?main; (case' val => subst x); (case' main => first | clear_value x | subst x))
    | (intro x; subst x)
    | intro _
    | lift_lets
    | (with_reducible apply State.dcContinue_keeps)
    | (with_reducible apply State.dcRecord_keeps)

theorem State.dcWaitEnd_keeps (l : List Tag) (hz : Keeps z s) : Keeps z (State.dcWaitEnd s l) := by
  unfold State.dcWaitEnd
  repeat' first
    | (with_reducible assumption)
    | intro _
    | (with_reducible apply State.done_keeps)
    | (with_reducible refine Keeps.foldl ?_ _ (fun _ _ _ => ?_))

theorem State.dcStopNow_keeps (n : Nat) (k : DcStop) (hz : Keeps z s) : Keeps z (State.dcStopNow s n k) := by
  unfold State.dcStopNow
  repeat' first
    | (with_reducible assumption)
    | (intro (x : State); refine_lift have : Keeps z x := ?val; ?main; (case' val => subst x); (case' main => first | clear_value x | subst x))
    | (intro x; subst x)
    | intro _
    | lift_lets
    | (with_reducible apply State.dcStopEnd_keeps)
    | (with_reducible apply State.modChan_keeps)
    | (with_reducible apply Keeps.ite)

theorem State.dcBadEnd_keeps (n : Nat) (k : DcStop) (hz : Keeps z s) : Keeps z (State.dcBadEnd s n k) := by
  unfold State.dcBadEnd
  repeat' first
    | (with_reducible assumption)
    | (intro (x : State); refine_lift have : Keeps z x := ?val; ?main; (case' val => subst x); (case' main => first | clear_value x | subst x))
    | (intro x; subst x)
    | intro _
    | lift_lets
    | (with_reducible apply State.dcStopEnd_keeps)
    | (with_reducible apply State.dcStopNow_keeps)
    | (with_reducible apply State.dcWaitEnd_keeps)
    | (with_reducible apply State.modChan_keeps)
    | (with_reducible apply State.put_keeps)
    | (with_reducible apply Keeps.ite)
    | split

theorem State.dcDoneStop_keeps (n : Nat) (d : Desc) (k : DcStop) (hz : Keeps z s) : Keeps z (State.dcDoneStop s n d k) := by
  unfold State.dcDoneStop
  repeat' first
    | (with_reducible assumption)
    | (intro (x : State); refine_lift have : Keeps z x := ?val; ?main; (case' val => subst x); (case' main => first | clear_value x | subst x))
    | (intro x; subst x)
    | intro _
    | lift_lets
    | (with_reducible apply State.dcDone_keeps)
    | (with_reducible apply State.dcStopNow_keeps)
    | (with_reducible apply State.dcWaitEnd_keeps)
    | (with_reducible apply State.modChan_keeps)
    | (with_reducible apply Keeps.ite)

theorem State.dcProgress_keeps (n : Nat) (hz : Keeps z s) : Keeps z (State.dcProgress s n) := by
  unfold State.dcProgress
  repeat' first
    | (with_reducible assumption)
    | (intro (x : State); refine_lift have : Keeps z x := ?val; ?main; (case' val => subst x); (case' main => first | clear_value x | subst x))
    | (intro x; subst x)
    | intro _
    | lift_lets
    | (with_reducible apply State.dcBadEnd_keeps)
    | (with_reducible apply State.dcConfirm_keeps)
    | (with_reducible apply State.dcDoneStop_keeps)
    | (with_reducible apply State.dcDone_keeps)
    | (with_reducible apply State.dcStopEnd_keeps)
    | (with_reducible apply State.dcStopNow_keeps)
    | (with_reducible apply Keeps.ite)
    | (refine Keeps.fst ?_ (by assumption))
    | split

theorem State.dcBegin_keeps (n : Nat) (k : DcStop) (hz : Keeps z s) : Keeps z (State.dcBegin s n k) := by
  unfold State.dcBegin
  repeat' first
    | (with_reducible assumption)
    | intro _
    | (with_reducible apply State.dcProgress_keeps)
    | (with_reducible apply State.modChan_keeps)
    | (with_reducible apply Keeps.ite)
    | split

theorem State.dcHold_keeps (n bit : Nat) (status : Option Nat) (hz : Keeps z s) : Keeps z (State.dcHold s n bit status) := by
  unfold State.dcHold
  repeat' first
    | (with_reducible assumption)
    | (intro (x : State); refine_lift have : Keeps z x := ?val; ?main; (case' val => subst x); (case' main => first | clear_value x | subst x))
    | (intro x; subst x)
    | intro _
    | lift_lets
    | (with_reducible apply State.dcBegin_keeps)
    | (with_reducible apply State.dcPriDrop_keeps)
    | (with_reducible apply State.put_keeps)
    | (with_reducible apply Keeps.ite)

theorem State.dcGo_keeps (n : Nat) (hz : Keeps z s) : Keeps z (State.dcGo s n) := by
  unfold State.dcGo
  repeat' first
    | (with_reducible assumption)
    | (intro (x : State); refine_lift have : Keeps z x := ?val; ?main; (case' val => subst x); (case' main => first | clear_value x | subst x))
    | (intro x; subst x)
    | intro _
    | lift_lets
    | (with_reducible apply State.dcAdmit_keeps)
    | (with_reducible apply State.dcKick_keeps)
    | (with_reducible apply State.modChan_keeps)
    | (with_reducible apply State.put_keeps)
    | (with_reducible apply Keeps.ite)
    | (refine Keeps.fst ?_ (by assumption))
    | split

theorem State.dcUnhold_keeps (n mask : Nat) (hz : Keeps z s) : Keeps z (State.dcUnhold s n mask) := by
  unfold State.dcUnhold
  repeat' first
    | (with_reducible assumption)
    | (intro (x : State); refine_lift have : Keeps z x := ?val; ?main; (case' val => subst x); (case' main => first | clear_value x | subst x))
    | (intro x; subst x)
    | intro _
    | lift_lets
    | (with_reducible apply State.dcGo_keeps)
    | (with_reducible apply State.dcWaitsDone_keeps)
    | (with_reducible apply State.modChan_keeps)
    | (with_reducible apply State.put_keeps)
    | (with_reducible apply Keeps.ite)
    | (refine Keeps.fst ?_ (by assumption))
    | (with_reducible refine Keeps.upd rfl rfl rfl rfl rfl rfl rfl rfl rfl rfl rfl rfl rfl rfl rfl rfl ?_; first | (with_reducible assumption) | (with_reducible apply State.dcGo_keeps) | (with_reducible apply State.dcWaitsDone_keeps) | (with_reducible apply State.modChan_keeps) | (with_reducible apply State.put_keeps) | (with_reducible apply Keeps.ite) | split)

theorem State.dcReread_keeps (n : Nat) (hz : Keeps z s) : Keeps z (State.dcReread s n) := by
  unfold State.dcReread
  repeat' first
    | (with_reducible assumption)
    | intro _
    | (with_reducible apply State.dcKick_keeps)
    | (with_reducible apply State.modChan_keeps)
    | (with_reducible apply State.put_keeps)

theorem State.dcHead_keeps (w : Who) (off : Nat) (n : Nat) (h : Nat) (hz : Keeps z s) : Keeps z (State.dcHead s w off n h) := by
  unfold State.dcHead
  repeat' first
    | (with_reducible assumption)
    | (intro (x : State); refine_lift have : Keeps z x := ?val; ?main; (case' val => subst x); (case' main => first | clear_value x | subst x))
    | (intro x; subst x)
    | intro _
    | lift_lets
    | (with_reducible apply State.badAccess_keeps)
    | (with_reducible apply State.dcPrefetch_keeps)
    | (with_reducible apply State.dcProgress_keeps)
    | (with_reducible apply State.put_keeps)
    | (with_reducible apply Keeps.ite)
    | split

theorem execDcDoorbell_keeps (who : Sender) (n : Fin 16) (v : Word) (hz : Keeps z s) : ∃ y, execDcDoorbell who n v s = .next y ∧ Keeps z y := by
  unfold execDcDoorbell
  refine ⟨_, rfl, ?_⟩
  repeat' first
    | (with_reducible assumption)
    | (intro (x : State); refine_lift have : Keeps z x := ?val; ?main; (case' val => subst x); (case' main => first | clear_value x | subst x))
    | (intro x; subst x)
    | intro _
    | lift_lets
    | (with_reducible apply State.badAccess_keeps)
    | (with_reducible apply State.count_keeps)
    | (with_reducible apply State.dcHead_keeps)
    | (with_reducible apply State.dcKick_keeps)
    | (with_reducible apply State.dcReread_keeps)
    | (with_reducible apply State.put_keeps)
    | (with_reducible apply Keeps.ite)
    | (refine Keeps.fst ?_ (by assumption))
    | split

theorem execDescriptorFetch_keeps (n : Fin 16) (bytes : List Byte) (hz : Keeps z s) : ∃ y, execDescriptorFetch n bytes s = .next y ∧ Keeps z y := by
  unfold execDescriptorFetch
  refine ⟨_, rfl, ?_⟩
  repeat' first
    | (with_reducible assumption)
    | (intro x; subst x)
    | intro _
    | lift_lets
    | (with_reducible apply State.dcJudge_keeps)
    | (with_reducible apply State.modChan_keeps)
    | (with_reducible apply Keeps.ite)

theorem execBmvBurstGrant_keeps (hz : Keeps z s) : ∃ y, execBmvBurstGrant s = .next y ∧ Keeps z y := by
  unfold execBmvBurstGrant
  refine ⟨_, rfl, ?_⟩
  repeat' first
    | (with_reducible assumption)
    | (intro (x : State); refine_lift have : Keeps z x := ?val; ?main; (case' val => subst x); (case' main => first | clear_value x | subst x))
    | (intro x; subst x)
    | intro _
    | lift_lets
    | (with_reducible apply State.admDrop_keeps)
    | (with_reducible apply State.dcBegin_keeps)
    | (with_reducible apply State.dcPrefetch_keeps)
    | (with_reducible apply State.hostRd_keeps)
    | (with_reducible apply State.modChan_keeps)
    | (with_reducible apply Keeps.ite)
    | (refine Keeps.fst ?_ (by assumption))
    | (with_reducible refine Keeps.upd rfl rfl rfl rfl rfl rfl rfl rfl rfl rfl rfl rfl rfl rfl rfl rfl ?_; first | (with_reducible assumption) | (with_reducible apply State.admDrop_keeps) | (with_reducible apply State.dcBegin_keeps) | (with_reducible apply State.dcPrefetch_keeps) | (with_reducible apply State.hostRd_keeps) | (with_reducible apply State.modChan_keeps) | (with_reducible apply Keeps.ite) | split)
    | split

theorem State.dcDataError_keeps (n kind a : Nat) (hz : Keeps z s) : Keeps z (State.dcDataError s n kind a) := by
  unfold State.dcDataError
  repeat' first
    | (with_reducible assumption)
    | intro _
    | (with_reducible apply State.dcBegin_keeps)
    | (with_reducible apply State.modChan_keeps)

theorem State.burstRead_keeps (n : Nat) (data : List Byte) (err : Bool) (hz : Keeps z s) :
    Keeps z (State.burstRead s n data err) := by
  unfold State.burstRead
  dsimp only
  generalize (s.chan n).desc = o
  generalize (s.chan n).flight = l
  split
  · refine Keeps.ite hz (Keeps.ite (State.dcDataError_keeps _ _ _ hz) ?_)
    refine State.dcProgress_keeps _ (State.dcShow_keeps _ (State.modChan_keeps _ _ (Keeps.ite ?_ ?_)))
    · exact State.xwrite_keeps _ _ _ hz
    · exact State.hostPut_keeps _ _ _ _ hz
  · exact hz

theorem execBmvBurstRead_keeps (n : Fin 16) (data : List Byte) (err : Bool) (hz : Keeps z s) : ∃ y, execBmvBurstRead n data err s = .next y ∧ Keeps z y := by
  unfold execBmvBurstRead
  refine ⟨_, rfl, ?_⟩
  repeat' first
    | (with_reducible assumption)
    | intro _
    | (with_reducible apply State.burstRead_keeps)
    | (with_reducible apply State.xSettle_keeps)

theorem execWriteResponse_keeps (n : Fin 16) (ok : Bool) (hz : Keeps z s) : ∃ y, execWriteResponse n ok s = .next y ∧ Keeps z y := by
  unfold execWriteResponse
  refine ⟨_, rfl, ?_⟩
  repeat' first
    | (with_reducible assumption)
    | (intro (x : State); refine_lift have : Keeps z x := ?val; ?main; (case' val => subst x); (case' main => first | clear_value x | subst x))
    | (intro x; subst x)
    | intro _
    | lift_lets
    | (with_reducible apply State.dcDataError_keeps)
    | (with_reducible apply State.dcProgress_keeps)
    | (with_reducible apply State.dcShow_keeps)
    | (with_reducible apply State.modChan_keeps)
    | (with_reducible apply Keeps.ite)
    | (refine Keeps.fst ?_ (by assumption))
    | (with_reducible refine Keeps.upd rfl rfl rfl rfl rfl rfl rfl rfl rfl rfl rfl rfl rfl rfl rfl rfl ?_; first | (with_reducible assumption) | (with_reducible apply State.dcDataError_keeps) | (with_reducible apply State.dcProgress_keeps) | (with_reducible apply State.dcShow_keeps) | (with_reducible apply State.modChan_keeps) | (with_reducible apply Keeps.ite) | split)

theorem State.engineStop_keeps (n : Nat) (timeout : Bool) (hz : Keeps z s) : Keeps z (State.engineStop s n timeout) := by
  unfold State.engineStop
  repeat' first
    | (with_reducible assumption)
    | (intro (x : State); refine_lift have : Keeps z x := ?val; ?main; (case' val => subst x); (case' main => first | clear_value x | subst x))
    | (intro x; subst x)
    | intro _
    | lift_lets
    | (with_reducible apply State.dcBegin_keeps)
    | (with_reducible apply State.log_keeps)
    | (with_reducible apply State.modChan_keeps)
    | (with_reducible apply State.put_keeps)
    | (with_reducible apply Keeps.ite)
    | (with_reducible refine Keeps.foldl ?_ _ (fun _ _ _ => ?_))

theorem execBmvEngineStop_keeps (n : Fin 16) (timeout : Bool) (hz : Keeps z s) : ∃ y, execBmvEngineStop n timeout s = .next y ∧ Keeps z y := by
  unfold execBmvEngineStop
  refine ⟨_, rfl, ?_⟩
  repeat' first
    | (with_reducible assumption)
    | intro _
    | (with_reducible apply State.engineStop_keeps)

end Sys2Proof.Machine
end

