-- ==== Sys2Proof/Laws/KeepsPower.lean ====
section
/-!
SUPPORT. Every operation of Machine/Power.lean keeps (Laws/Keeps.lean).
-/

namespace Sys2Proof.Machine

variable {z s : State}

set_option maxRecDepth 8000

theorem State.setRail_keeps (n st : Nat) (hz : Keeps z s) : Keeps z (State.setRail s n st) := by
  unfold State.setRail
  repeat' first
    | (with_reducible assumption)
    | (intro (x : State); refine_lift have : Keeps z x := ?val; ?main; (case' val => subst x); (case' main => first | clear_value x | subst x))
    | (intro x; subst x)
    | intro _
    | lift_lets
    | (with_reducible apply State.put_keeps)
    | (with_reducible apply Keeps.ite)
    | (with_reducible refine Keeps.upd rfl rfl rfl rfl rfl rfl rfl rfl rfl rfl rfl rfl rfl rfl rfl rfl ?_; first  | (with_reducible assumption))

theorem State.startRail_keeps (n : Nat) (hz : Keeps z s) : Keeps z (State.startRail s n) := by
  unfold State.startRail
  repeat' first
    | (with_reducible assumption)
    | intro _
    | (with_reducible apply State.modRail_keeps)
    | (with_reducible apply State.setRail_keeps)

theorem State.startRails_keeps (p : Nat → Bool) (hz : Keeps z s) : Keeps z (State.startRails s p) := by
  unfold State.startRails
  repeat' first
    | (with_reducible assumption)
    | (intro (x : State); refine_lift have : Keeps z x := ?val; ?main; (case' val => subst x); (case' main => first | clear_value x | subst x))
    | (intro x; subst x)
    | intro _
    | lift_lets
    | (with_reducible apply State.forRails_keeps)
    | (with_reducible apply State.modRail_keeps)
    | (with_reducible apply State.put_keeps)
    | (with_reducible apply State.startRail_keeps)
    | (with_reducible apply Keeps.ite)
    | (with_reducible refine Keeps.upd rfl rfl rfl rfl rfl rfl rfl rfl rfl rfl rfl rfl rfl rfl rfl rfl ?_; first | (with_reducible assumption) | (with_reducible apply State.forRails_keeps) | (with_reducible apply State.modRail_keeps) | (with_reducible apply State.put_keeps) | (with_reducible apply State.startRail_keeps) | (with_reducible apply Keeps.ite) | split)
    | split

theorem State.snapAsk_keeps (k : Nat) (cause : Nat) (subject : Nat) (hz : Keeps z s) : Keeps z (State.snapAsk s k cause subject) := by
  unfold State.snapAsk
  repeat' first
    | (with_reducible assumption)
    | intro _
    | (with_reducible apply State.count_keeps)
    | (with_reducible apply Keeps.ite)
    | (with_reducible refine Keeps.upd rfl rfl rfl rfl rfl rfl rfl rfl rfl rfl rfl rfl rfl rfl rfl rfl ?_; first | (with_reducible assumption) | (with_reducible apply State.count_keeps) | (with_reducible apply Keeps.ite) | split)
    | split

theorem State.gateOff_keeps (hz : Keeps z s) : Keeps z (State.gateOff s) := by
  unfold State.gateOff
  repeat' first
    | (with_reducible assumption)
    | intro _
    | (with_reducible refine Keeps.upd rfl rfl rfl rfl rfl rfl rfl rfl rfl rfl rfl rfl rfl rfl rfl rfl ?_; first | (with_reducible assumption) | split)

theorem State.hsFault_keeps (cause : Nat) (arg : Option Nat) (hz : Keeps z s) : Keeps z (State.hsFault s cause arg) := by
  unfold State.hsFault
  repeat' first
    | (with_reducible assumption)
    | (intro (x : State); refine_lift have : Keeps z x := ?val; ?main; (case' val => subst x); (case' main => first | clear_value x | subst x))
    | (intro x; subst x)
    | intro _
    | lift_lets
    | (with_reducible apply State.gateOff_keeps)
    | (with_reducible apply State.log_keeps)
    | (with_reducible apply State.put_keeps)
    | (with_reducible apply State.snapAsk_keeps)

theorem State.hsClear_keeps (hz : Keeps z s) : Keeps z (State.hsClear s) := by
  unfold State.hsClear
  repeat' first
    | (with_reducible assumption)
    | (intro (x : State); refine_lift have : Keeps z x := ?val; ?main; (case' val => subst x); (case' main => first | clear_value x | subst x))
    | (intro x; subst x)
    | intro _
    | lift_lets
    | (with_reducible apply State.put_keeps)
    | (with_reducible apply Keeps.ite)
    | (with_reducible refine Keeps.upd rfl rfl rfl rfl rfl rfl rfl rfl rfl rfl rfl rfl rfl rfl rfl rfl ?_; first | (with_reducible assumption) | (with_reducible apply State.put_keeps) | (with_reducible apply Keeps.ite) | split)
    | split

theorem State.shutdownFront_keeps (off : Bool) (hz : Keeps z s) : Keeps z (State.shutdownFront s off) := by
  unfold State.shutdownFront
  repeat' first
    | (with_reducible assumption)
    | intro _
    | (with_reducible apply State.gateOff_keeps)
    | (with_reducible apply State.hsFault_keeps)
    | (with_reducible apply State.put_keeps)
    | (with_reducible apply Keeps.ite)
    | split

theorem State.partsEnd_keeps (hz : Keeps z s) : Keeps z (State.partsEnd s) := by
  unfold State.partsEnd
  repeat' first
    | (with_reducible assumption)
    | intro _
    | (with_reducible apply State.forRails_keeps)
    | (with_reducible apply State.modRail_keeps)

theorem State.teardownEnd_keeps (hz : Keeps z s) : Keeps z (State.teardownEnd s) := by
  unfold State.teardownEnd
  dsimp only
  repeat' first
    | (with_reducible assumption)
    | intro _
    | (with_reducible apply State.forRails_keeps)
    | (with_reducible apply State.log_keeps)
    | (with_reducible apply State.modRail_keeps)
    | (with_reducible apply State.put_keeps)
    | (with_reducible apply Keeps.ite)
    | (with_reducible refine Keeps.upd rfl rfl rfl rfl rfl rfl rfl rfl rfl rfl rfl rfl rfl rfl rfl rfl ?_; first | (with_reducible assumption) | (with_reducible apply State.forRails_keeps) | (with_reducible apply State.log_keeps) | (with_reducible apply State.modRail_keeps) | (with_reducible apply State.put_keeps) | (with_reducible apply Keeps.ite) | split)
    | split

theorem State.downEnd_keeps (hz : Keeps z s) : Keeps z (State.downEnd s) := by
  unfold State.downEnd
  repeat' first
    | (with_reducible assumption)
    | (intro (x : State); refine_lift have : Keeps z x := ?val; ?main; (case' val => subst x); (case' main => first | clear_value x | subst x))
    | (intro x; subst x)
    | intro _
    | lift_lets
    | (with_reducible apply State.put_keeps)
    | (with_reducible apply State.shutdownFront_keeps)
    | (with_reducible apply Keeps.ite)
    | (with_reducible refine Keeps.upd rfl rfl rfl rfl rfl rfl rfl rfl rfl rfl rfl rfl rfl rfl rfl rfl ?_; first | (with_reducible assumption) | (with_reducible apply State.put_keeps) | (with_reducible apply State.shutdownFront_keeps) | (with_reducible apply Keeps.ite) | split)
    | split

theorem State.shutdownEnd_keeps (hz : Keeps z s) : Keeps z (State.shutdownEnd s) := by
  unfold State.shutdownEnd
  repeat' first
    | (with_reducible assumption)
    | (intro (x : State); refine_lift have : Keeps z x := ?val; ?main; (case' val => subst x); (case' main => first | clear_value x | subst x))
    | (intro x; subst x)
    | intro _
    | lift_lets
    | (with_reducible apply State.downEnd_keeps)
    | (with_reducible apply State.partsEnd_keeps)
    | (with_reducible apply State.shutdownFront_keeps)
    | (with_reducible apply State.teardownEnd_keeps)
    | (with_reducible apply Keeps.ite)
    | split

theorem State.shutdown_keeps (p : Nat → Bool) (cause : Nat) (hz : Keeps z s) : Keeps z (State.shutdown s p cause) := by
  unfold State.shutdown
  repeat' first
    | (with_reducible assumption)
    | (intro (x : State); refine_lift have : Keeps z x := ?val; ?main; (case' val => subst x); (case' main => first | clear_value x | subst x))
    | (intro x; subst x)
    | intro _
    | lift_lets
    | (with_reducible apply State.forRails_keeps)
    | (with_reducible apply State.modRail_keeps)
    | (with_reducible apply State.put_keeps)
    | (with_reducible apply State.setRail_keeps)
    | (with_reducible apply State.shutdownEnd_keeps)
    | (with_reducible apply Keeps.ite)

theorem State.seqComplete_keeps (hz : Keeps z s) : Keeps z (State.seqComplete s) := by
  unfold State.seqComplete
  repeat' first
    | (with_reducible assumption)
    | (intro (x : State); refine_lift have : Keeps z x := ?val; ?main; (case' val => subst x); (case' main => first | clear_value x | subst x))
    | (intro x; subst x)
    | intro _
    | lift_lets
    | (with_reducible apply State.log_keeps)
    | (with_reducible apply State.put_keeps)
    | (with_reducible apply Keeps.ite)
    | (with_reducible refine Keeps.upd rfl rfl rfl rfl rfl rfl rfl rfl rfl rfl rfl rfl rfl rfl rfl rfl ?_; first | (with_reducible assumption) | (with_reducible apply State.log_keeps) | (with_reducible apply State.put_keeps) | (with_reducible apply Keeps.ite) | split)
    | split

theorem State.railUnuse_keeps (n : Nat) (hz : Keeps z s) : Keeps z (State.railUnuse s n) := by
  unfold State.railUnuse
  repeat' first
    | (with_reducible assumption)
    | intro _
    | (with_reducible apply State.modRail_keeps)
    | (with_reducible apply State.setRail_keeps)

end Sys2Proof.Machine
end

