-- ==== Sys2Proof/Laws/KeepsHolds.lean ====
section
/-!
SUPPORT. Every operation of Machine/Holds.lean keeps (Laws/Keeps.lean).
-/

namespace Sys2Proof.Machine

variable {z s : State}

set_option maxRecDepth 8000

theorem State.holdAll_keeps (bit : Nat) (status : Option Nat) (p q : Nat → Bool) (hz : Keeps z s) : Keeps z (State.holdAll s bit status p q) := by
  unfold State.holdAll
  repeat' first
    | (with_reducible assumption)
    | (intro (x : State); refine_lift have : Keeps z x := ?val; ?main; (case' val => subst x); (case' main => first | clear_value x | subst x))
    | intro _
    | lift_lets
    | (with_reducible apply State.dcHold_keeps)
    | (with_reducible apply State.scHold_keeps)
    | (with_reducible apply Keeps.ite)
    | (with_reducible refine Keeps.foldl ?_ _ (fun _ _ _ => ?_))

theorem State.unholdAll_keeps (mask : Nat) (p q : Nat → Bool) (hz : Keeps z s) : Keeps z (State.unholdAll s mask p q) := by
  unfold State.unholdAll
  repeat' first
    | (with_reducible assumption)
    | (intro (x : State); refine_lift have : Keeps z x := ?val; ?main; (case' val => subst x); (case' main => first | clear_value x | subst x))
    | intro _
    | lift_lets
    | (with_reducible apply State.dcUnhold_keeps)
    | (with_reducible apply State.scUnhold_keeps)
    | (with_reducible apply Keeps.ite)
    | (with_reducible refine Keeps.foldl ?_ _ (fun _ _ _ => ?_))

theorem State.claimSP0_keeps (hz : Keeps z s) : Keeps z (State.claimSP0 s) := by
  unfold State.claimSP0
  repeat' first
    | (with_reducible assumption)
    | intro _
    | (with_reducible apply State.holdAll_keeps)

theorem State.freeSP0_keeps (hz : Keeps z s) : Keeps z (State.freeSP0 s) := by
  unfold State.freeSP0
  repeat' first
    | (with_reducible assumption)
    | intro _
    | (with_reducible apply State.unholdAll_keeps)
    | (with_reducible apply Keeps.ite)
    | split

theorem State.scClaimed_keeps (n : Nat) (hz : Keeps z s) : Keeps z (State.scClaimed s n) := by
  unfold State.scClaimed
  repeat' first
    | (with_reducible assumption)
    | intro _
    | (with_reducible apply State.scHold_keeps)
    | (with_reducible apply Keeps.ite)
    | split

theorem State.powerHold_keeps (asserted : Bool) (hz : Keeps z s) : Keeps z (State.powerHold s asserted) := by
  unfold State.powerHold
  repeat' first
    | (with_reducible assumption)
    | intro _
    | (with_reducible apply State.holdAll_keeps)
    | (with_reducible apply State.unholdAll_keeps)
    | (with_reducible apply Keeps.ite)

end Sys2Proof.Machine
end

