-- ==== Sys2Proof/Laws/KeepsPsq.lean ====
section
/-!
SUPPORT. Every operation of Machine/Psq.lean keeps (Laws/Keeps.lean).
-/

namespace Sys2Proof.Machine

variable {z s : State}

set_option maxRecDepth 8000

theorem State.pfwAssert_keeps (pred : Bool) (hz : Keeps z s) : Keeps z (State.pfwAssert s pred) := by
  unfold State.pfwAssert
  repeat' first
    | (with_reducible assumption)
    | (intro (x : State); refine_lift have : Keeps z x := ?val; ?main; (case' val => subst x); (case' main => first | clear_value x | subst x))
    | (intro x; subst x)
    | intro _
    | lift_lets
    | (with_reducible apply State.powerHold_keeps)
    | (with_reducible apply Keeps.ite)
    | (with_reducible refine Keeps.upd rfl rfl rfl rfl rfl rfl rfl rfl rfl rfl rfl rfl rfl rfl rfl rfl ?_; first  | (with_reducible assumption))

theorem State.pfwRelease_keeps (hz : Keeps z s) : Keeps z (State.pfwRelease s) := by
  unfold State.pfwRelease
  repeat' first
    | (with_reducible assumption)
    | intro _
    | (with_reducible apply State.powerHold_keeps)
    | (with_reducible apply Keeps.ite)
    | (with_reducible refine Keeps.upd rfl rfl rfl rfl rfl rfl rfl rfl rfl rfl rfl rfl rfl rfl rfl rfl ?_; first  | (with_reducible assumption))

theorem execSequenceStart_keeps (hz : Keeps z s) : ∃ y, execSequenceStart s = .next y ∧ Keeps z y := by
  unfold execSequenceStart
  refine ⟨_, rfl, ?_⟩
  repeat' first
    | (with_reducible assumption)
    | (intro (x : State); refine_lift have : Keeps z x := ?val; ?main; (case' val => subst x); (case' main => first | clear_value x | subst x))
    | (intro x; subst x)
    | intro _
    | lift_lets
    | (with_reducible apply State.startRails_keeps)
    | (with_reducible apply Keeps.ite)
    | (with_reducible refine Keeps.upd rfl rfl rfl rfl rfl rfl rfl rfl rfl rfl rfl rfl rfl rfl rfl rfl ?_; first  | (with_reducible assumption))

theorem execRailEnable_keeps (hz : Keeps z s) : ∃ y, execRailEnable s = .next y ∧ Keeps z y := by
  unfold execRailEnable
  refine ⟨_, rfl, ?_⟩
  repeat' first
    | (with_reducible assumption)
    | intro _
    | (with_reducible apply State.forRails_keeps)
    | (with_reducible apply State.modRail_keeps)
    | (with_reducible apply State.setRail_keeps)
    | (with_reducible apply Keeps.ite)

theorem State.riseFail_keeps (n : Nat) (hz : Keeps z s) : Keeps z (State.riseFail s n) := by
  unfold State.riseFail
  repeat' first
    | (with_reducible assumption)
    | intro _
    | (with_reducible apply State.log_keeps)
    | (with_reducible apply State.put_keeps)

theorem execRiseTimeout_keeps (hz : Keeps z s) : ∃ y, execRiseTimeout s = .next y ∧ Keeps z y := by
  unfold execRiseTimeout
  refine ⟨_, rfl, ?_⟩
  repeat' first
    | (with_reducible assumption)
    | (intro (x : State); refine_lift have : Keeps z x := ?val; ?main; (case' val => subst x); (case' main => first | clear_value x | subst x))
    | (intro x; subst x)
    | intro _
    | lift_lets
    | (with_reducible apply State.forRails_keeps)
    | (with_reducible apply State.riseFail_keeps)
    | (with_reducible apply State.seqComplete_keeps)
    | (with_reducible apply State.setRail_keeps)
    | (with_reducible apply State.shutdown_keeps)
    | (with_reducible apply Keeps.ite)
    | (with_reducible refine Keeps.upd rfl rfl rfl rfl rfl rfl rfl rfl rfl rfl rfl rfl rfl rfl rfl rfl ?_; first  | (with_reducible assumption))

theorem execCoolDownEnd_keeps (hz : Keeps z s) : ∃ y, execCoolDownEnd s = .next y ∧ Keeps z y := by
  unfold execCoolDownEnd
  refine ⟨_, rfl, ?_⟩
  repeat' first
    | (with_reducible assumption)
    | (intro (x : State); refine_lift have : Keeps z x := ?val; ?main; (case' val => subst x); (case' main => first | clear_value x | subst x))
    | (intro x; subst x)
    | intro _
    | lift_lets
    | (with_reducible apply State.put_keeps)
    | (with_reducible apply State.startRails_keeps)
    | (with_reducible apply Keeps.ite)
    | split

theorem execRailDeassert_keeps (hz : Keeps z s) : ∃ y, execRailDeassert s = .next y ∧ Keeps z y := by
  unfold execRailDeassert
  refine ⟨_, rfl, ?_⟩
  repeat' first
    | (with_reducible assumption)
    | intro _
    | (with_reducible apply State.forRails_keeps)
    | (with_reducible apply State.modRail_keeps)
    | (with_reducible apply State.setRail_keeps)
    | (with_reducible apply Keeps.ite)

theorem execFallTimeout_keeps (hz : Keeps z s) : ∃ y, execFallTimeout s = .next y ∧ Keeps z y := by
  unfold execFallTimeout
  refine ⟨_, rfl, ?_⟩
  repeat' first
    | (with_reducible assumption)
    | (intro (x : State); refine_lift have : Keeps z x := ?val; ?main; (case' val => subst x); (case' main => first | clear_value x | subst x))
    | (intro x; subst x)
    | intro _
    | lift_lets
    | (with_reducible apply State.forRails_keeps)
    | (with_reducible apply State.log_keeps)
    | (with_reducible apply State.put_keeps)
    | (with_reducible apply State.setRail_keeps)
    | (with_reducible apply State.shutdownEnd_keeps)
    | (with_reducible apply Keeps.ite)

theorem State.retryRail_keeps (n : Nat) (hz : Keeps z s) : Keeps z (State.retryRail s n) := by
  unfold State.retryRail
  repeat' first
    | (with_reducible assumption)
    | intro _
    | (with_reducible apply State.startRails_keeps)
    | (with_reducible apply Keeps.ite)

theorem execRailctlRetry_keeps (n : Fin 24) (hz : Keeps z s) : ∃ y, execRailctlRetry n s = .next y ∧ Keeps z y := by
  unfold execRailctlRetry
  refine ⟨_, rfl, ?_⟩
  repeat' first
    | (with_reducible assumption)
    | intro _
    | (with_reducible apply State.retryRail_keeps)

end Sys2Proof.Machine
end

