-- ==== Sys2Proof/Laws/KeepsFrontEnd.lean ====
section
/-!
SUPPORT. Every operation of Machine/FrontEnd.lean keeps (Laws/Keeps.lean).
-/

namespace Sys2Proof.Machine

variable {z s : State}

set_option maxRecDepth 8000

theorem State.faultShutdown_keeps (cause : Nat) (hz : Keeps z s) : Keeps z (State.faultShutdown s cause) := by
  unfold State.faultShutdown
  repeat' first
    | (with_reducible assumption)
    | (intro (x : State); refine_lift have : Keeps z x := ?val; ?main; (case' val => subst x); (case' main => first | clear_value x | subst x))
    | (intro x; subst x)
    | intro _
    | lift_lets
    | (with_reducible apply State.pfwAssert_keeps)
    | (with_reducible apply Keeps.ite)
    | (with_reducible refine Keeps.upd rfl rfl rfl rfl rfl rfl rfl rfl rfl rfl rfl rfl rfl rfl rfl rfl ?_; first  | (with_reducible assumption))

theorem State.railFault_keeps (n kind : Nat) (hw : Bool) (hz : Keeps z s) : Keeps z (State.railFault s n kind hw) := by
  unfold State.railFault
  repeat' first
    | (with_reducible assumption)
    | (intro (x : State); refine_lift have : Keeps z x := ?val; ?main; (case' val => subst x); (case' main => first | clear_value x | subst x))
    | (intro x; subst x)
    | intro _
    | lift_lets
    | (with_reducible apply State.faultShutdown_keeps)
    | (with_reducible apply State.modRail_keeps)
    | (with_reducible apply State.put_keeps)
    | (with_reducible apply State.setRail_keeps)
    | (with_reducible apply Keeps.ite)

theorem State.uvInDown_keeps (n : Nat) (hz : Keeps z s) : Keeps z (State.uvInDown s n) := by
  unfold State.uvInDown
  repeat' first
    | (with_reducible assumption)
    | intro _
    | (with_reducible apply State.log_keeps)
    | (with_reducible apply State.put_keeps)
    | (with_reducible apply Keeps.ite)

theorem State.hwLatch_keeps (n : Nat) (c : RailCross) (hz : Keeps z s) : Keeps z (State.hwLatch s n c) := by
  unfold State.hwLatch
  repeat' first
    | (with_reducible assumption)
    | (intro (x : State); refine_lift have : Keeps z x := ?val; ?main; (case' val => subst x); (case' main => first | clear_value x | subst x))
    | (intro x; subst x)
    | intro _
    | lift_lets
    | (with_reducible apply State.modRail_keeps)
    | (with_reducible apply State.touch_keeps)
    | (with_reducible apply Keeps.ite)
    | split

theorem execRailFault_keeps (n : Fin 24) (cause : RailCross) (hz : Keeps z s) : ∃ y, execRailFault n cause s = .next y ∧ Keeps z y := by
  unfold execRailFault
  refine ⟨_, rfl, ?_⟩
  repeat' first
    | (with_reducible assumption)
    | (intro (x : State); refine_lift have : Keeps z x := ?val; ?main; (case' val => subst x); (case' main => first | clear_value x | subst x))
    | (intro x; subst x)
    | intro _
    | lift_lets
    | (with_reducible apply State.hwLatch_keeps)
    | (with_reducible apply State.pfwAssert_keeps)
    | (with_reducible apply State.put_keeps)
    | (with_reducible apply State.railFault_keeps)
    | (with_reducible apply State.uvInDown_keeps)
    | (with_reducible apply Keeps.ite)
    | (with_reducible refine Keeps.upd rfl rfl rfl rfl rfl rfl rfl rfl rfl rfl rfl rfl rfl rfl rfl rfl ?_; first | (with_reducible assumption) | (with_reducible apply State.hwLatch_keeps) | (with_reducible apply State.pfwAssert_keeps) | (with_reducible apply State.put_keeps) | (with_reducible apply State.railFault_keeps) | (with_reducible apply State.uvInDown_keeps) | (with_reducible apply Keeps.ite) | split)
    | split

theorem execPfwLeadEnd_keeps (hz : Keeps z s) : ∃ y, execPfwLeadEnd s = .next y ∧ Keeps z y := by
  unfold execPfwLeadEnd
  refine ⟨_, rfl, ?_⟩
  repeat' first
    | (with_reducible assumption)
    | (intro (x : State); refine_lift have : Keeps z x := ?val; ?main; (case' val => subst x); (case' main => first | clear_value x | subst x))
    | (intro x; subst x)
    | intro _
    | lift_lets
    | (with_reducible apply State.shutdown_keeps)
    | (with_reducible apply Keeps.ite)
    | (refine Keeps.fst ?_ (by assumption))
    | (with_reducible refine Keeps.upd rfl rfl rfl rfl rfl rfl rfl rfl rfl rfl rfl rfl rfl rfl rfl rfl ?_; first | (with_reducible assumption) | (with_reducible apply State.shutdown_keeps) | (with_reducible apply Keeps.ite) | split)
    | split

theorem State.busbarPresent_keeps (hz : Keeps z s) : Keeps z (State.busbarPresent s) := by
  unfold State.busbarPresent
  repeat' first
    | (with_reducible assumption)
    | (intro (x : State); refine_lift have : Keeps z x := ?val; ?main; (case' val => subst x); (case' main => first | clear_value x | subst x))
    | (intro x; subst x)
    | intro _
    | lift_lets
    | (with_reducible apply State.hsClear_keeps)
    | (with_reducible apply State.put_keeps)
    | (with_reducible apply Keeps.ite)
    | (with_reducible refine Keeps.upd rfl rfl rfl rfl rfl rfl rfl rfl rfl rfl rfl rfl rfl rfl rfl rfl ?_; first  | (with_reducible assumption) | (with_reducible apply State.hsClear_keeps) | (with_reducible apply State.put_keeps) | (with_reducible apply Keeps.ite))

theorem execBusbarAbsent_keeps (hz : Keeps z s) : ∃ y, execBusbarAbsent s = .next y ∧ Keeps z y := by
  unfold execBusbarAbsent
  refine ⟨_, rfl, ?_⟩
  repeat' first
    | (with_reducible assumption)
    | (intro (x : State); refine_lift have : Keeps z x := ?val; ?main; (case' val => subst x); (case' main => first | clear_value x | subst x))
    | (intro x; subst x)
    | intro _
    | lift_lets
    | (with_reducible apply State.put_keeps)
    | (with_reducible apply Keeps.ite)
    | (with_reducible refine Keeps.upd rfl rfl rfl rfl rfl rfl rfl rfl rfl rfl rfl rfl rfl rfl rfl rfl ?_; first  | (with_reducible assumption))

theorem execHsChargeStart_keeps (hz : Keeps z s) : ∃ y, execHsChargeStart s = .next y ∧ Keeps z y := by
  unfold execHsChargeStart
  refine ⟨_, rfl, ?_⟩
  repeat' first
    | (with_reducible assumption)
    | (intro (x : State); refine_lift have : Keeps z x := ?val; ?main; (case' val => subst x); (case' main => first | clear_value x | subst x))
    | (intro x; subst x)
    | intro _
    | lift_lets
    | (with_reducible apply State.put_keeps)
    | (with_reducible apply Keeps.ite)
    | (with_reducible refine Keeps.upd rfl rfl rfl rfl rfl rfl rfl rfl rfl rfl rfl rfl rfl rfl rfl rfl ?_; first  | (with_reducible assumption))

theorem State.hsOn_keeps (hz : Keeps z s) : Keeps z (State.hsOn s) := by
  unfold State.hsOn
  repeat' first
    | (with_reducible assumption)
    | intro _
    | (with_reducible apply State.put_keeps)
    | (with_reducible refine Keeps.upd rfl rfl rfl rfl rfl rfl rfl rfl rfl rfl rfl rfl rfl rfl rfl rfl ?_; first | (with_reducible assumption) | (with_reducible apply State.put_keeps) | split)

theorem execHsFullyEnhanced_keeps (hz : Keeps z s) : ∃ y, execHsFullyEnhanced s = .next y ∧ Keeps z y := by
  unfold execHsFullyEnhanced
  refine ⟨_, rfl, ?_⟩
  repeat' first
    | (with_reducible assumption)
    | intro _
    | (with_reducible apply State.hsOn_keeps)
    | (with_reducible apply Keeps.ite)
    | split

theorem execInrushTmo_keeps (hz : Keeps z s) : ∃ y, execInrushTmo s = .next y ∧ Keeps z y := by
  unfold execInrushTmo
  refine ⟨_, rfl, ?_⟩
  repeat' first
    | (with_reducible assumption)
    | intro _
    | (with_reducible apply State.hsFault_keeps)
    | (with_reducible apply Keeps.ite)

theorem execOvercurrent_keeps (hz : Keeps z s) : ∃ y, execOvercurrent s = .next y ∧ Keeps z y := by
  unfold execOvercurrent
  refine ⟨_, rfl, ?_⟩
  repeat' first
    | (with_reducible assumption)
    | intro _
    | (with_reducible apply State.hsFault_keeps)
    | (with_reducible apply Keeps.ite)

theorem execHsShort_keeps (uv : Nat) (hz : Keeps z s) : ∃ y, execHsShort uv s = .next y ∧ Keeps z y := by
  unfold execHsShort
  refine ⟨_, rfl, ?_⟩
  repeat' first
    | (with_reducible assumption)
    | intro _
    | (with_reducible apply State.hsFault_keeps)
    | (with_reducible apply Keeps.ite)
    | split

theorem State.fastSample_keeps (x : Fast) (hz : Keeps z s) : Keeps z (State.fastSample s x) := by
  unfold State.fastSample
  repeat' first
    | (with_reducible assumption)
    | (intro (x : State); refine_lift have : Keeps z x := ?val; ?main; (case' val => subst x); (case' main => first | clear_value x | subst x))
    | (intro x; subst x)
    | intro _
    | lift_lets
    | (with_reducible apply Keeps.ite)
    | (with_reducible refine Keeps.upd rfl rfl rfl rfl rfl rfl rfl rfl rfl rfl rfl rfl rfl rfl rfl rfl ?_; first | (with_reducible assumption) | (with_reducible apply Keeps.ite) | split)
    | split

theorem State.fastRun_keeps (l : List Fast) (hz : Keeps z s) : Keeps z (State.fastRun s l) := by
  unfold State.fastRun
  repeat' first
    | (with_reducible assumption)
    | intro _
    | (with_reducible apply State.fastSample_keeps)
    | (with_reducible refine Keeps.foldl ?_ _ (fun _ _ _ => ?_))
    | (with_reducible refine Keeps.foldlPair ?_ _ (fun _ _ _ => ?_))

theorem execSoaTrip_keeps (l : List Fast) (hz : Keeps z s) : ∃ y, execSoaTrip l s = .next y ∧ Keeps z y := by
  unfold execSoaTrip
  refine ⟨_, rfl, ?_⟩
  repeat' first
    | (with_reducible assumption)
    | (intro (x : State); refine_lift have : Keeps z x := ?val; ?main; (case' val => subst x); (case' main => first | clear_value x | subst x))
    | (intro x; subst x)
    | intro _
    | lift_lets
    | (with_reducible apply State.fastRun_keeps)
    | (with_reducible apply State.hsFault_keeps)
    | (with_reducible apply Keeps.ite)
    | (refine Keeps.fst ?_ (by assumption))
    | (with_reducible refine Keeps.upd rfl rfl rfl rfl rfl rfl rfl rfl rfl rfl rfl rfl rfl rfl rfl rfl ?_; first | (with_reducible assumption) | (with_reducible apply State.fastRun_keeps) | (with_reducible apply State.hsFault_keeps) | (with_reducible apply Keeps.ite) | split)
    | split

theorem execReverseCurrent_keeps (uv : Nat) (hz : Keeps z s) : ∃ y, execReverseCurrent uv s = .next y ∧ Keeps z y := by
  unfold execReverseCurrent
  refine ⟨_, rfl, ?_⟩
  repeat' first
    | (with_reducible assumption)
    | (intro (x : State); refine_lift have : Keeps z x := ?val; ?main; (case' val => subst x); (case' main => first | clear_value x | subst x))
    | (intro x; subst x)
    | intro _
    | lift_lets
    | (with_reducible apply State.gateOff_keeps)
    | (with_reducible apply State.put_keeps)
    | (with_reducible apply Keeps.ite)
    | split

theorem execHsctlClr_keeps (hz : Keeps z s) : ∃ y, execHsctlClr s = .next y ∧ Keeps z y := by
  unfold execHsctlClr
  refine ⟨_, rfl, ?_⟩
  repeat' first
    | (with_reducible assumption)
    | intro _
    | (with_reducible apply State.hsClear_keeps)

theorem execInterlockTrip_keeps (l : List Fast) (hz : Keeps z s) : ∃ y, execInterlockTrip l s = .next y ∧ Keeps z y := by
  unfold execInterlockTrip
  refine ⟨_, rfl, ?_⟩
  repeat' first
    | (with_reducible assumption)
    | (intro (x : State); refine_lift have : Keeps z x := ?val; ?main; (case' val => subst x); (case' main => first | clear_value x | subst x))
    | (intro x; subst x)
    | intro _
    | lift_lets
    | (with_reducible apply State.fastRun_keeps)
    | (with_reducible apply State.hsFault_keeps)
    | (with_reducible apply State.snapAsk_keeps)
    | (with_reducible apply Keeps.ite)
    | (refine Keeps.fst ?_ (by assumption))
    | (with_reducible refine Keeps.upd rfl rfl rfl rfl rfl rfl rfl rfl rfl rfl rfl rfl rfl rfl rfl rfl ?_; first | (with_reducible assumption) | (with_reducible apply State.fastRun_keeps) | (with_reducible apply State.hsFault_keeps) | (with_reducible apply State.snapAsk_keeps) | (with_reducible apply Keeps.ite) | split)
    | split

theorem execShelfChange_keeps (fail : Bool) (hz : Keeps z s) : ∃ y, execShelfChange fail s = .next y ∧ Keeps z y := by
  unfold execShelfChange
  refine ⟨_, rfl, ?_⟩
  repeat' first
    | (with_reducible assumption)
    | (intro (x : State); refine_lift have : Keeps z x := ?val; ?main; (case' val => subst x); (case' main => first | clear_value x | subst x))
    | (intro x; subst x)
    | intro _
    | lift_lets
    | (with_reducible apply State.log_keeps)
    | (with_reducible apply State.putB_keeps)
    | (with_reducible apply State.put_keeps)
    | (with_reducible apply Keeps.ite)

theorem execRideThroughEnd_keeps (hz : Keeps z s) : ∃ y, execRideThroughEnd s = .next y ∧ Keeps z y := by
  unfold execRideThroughEnd
  refine ⟨_, rfl, ?_⟩
  repeat' first
    | (with_reducible assumption)
    | intro _
    | (with_reducible apply State.put_keeps)
    | (with_reducible apply Keeps.ite)

theorem execDischargeStart_keeps (hz : Keeps z s) : ∃ y, execDischargeStart s = .next y ∧ Keeps z y := by
  unfold execDischargeStart
  refine ⟨_, rfl, ?_⟩
  repeat' first
    | (with_reducible assumption)
    | (intro (x : State); refine_lift have : Keeps z x := ?val; ?main; (case' val => subst x); (case' main => first | clear_value x | subst x))
    | (intro x; subst x)
    | intro _
    | lift_lets
    | (with_reducible apply State.setReg_keeps)
    | (with_reducible apply Keeps.ite)
    | (with_reducible refine Keeps.upd rfl rfl rfl rfl rfl rfl rfl rfl rfl rfl rfl rfl rfl rfl rfl rfl ?_; first  | (with_reducible assumption))

theorem execDisFail_keeps (hz : Keeps z s) : ∃ y, execDisFail s = .next y ∧ Keeps z y := by
  unfold execDisFail
  refine ⟨_, rfl, ?_⟩
  repeat' first
    | (with_reducible assumption)
    | (intro (x : State); refine_lift have : Keeps z x := ?val; ?main; (case' val => subst x); (case' main => first | clear_value x | subst x))
    | (intro x; subst x)
    | intro _
    | lift_lets
    | (with_reducible apply State.hsFault_keeps)
    | (with_reducible apply State.log_keeps)
    | (with_reducible apply State.put_keeps)
    | (with_reducible apply State.snapAsk_keeps)
    | (with_reducible apply Keeps.ite)
    | split

theorem execCocOvercap_keeps (mv : Nat) (hz : Keeps z s) : ∃ y, execCocOvercap mv s = .next y ∧ Keeps z y := by
  unfold execCocOvercap
  refine ⟨_, rfl, ?_⟩
  repeat' first
    | (with_reducible assumption)
    | (intro (x : State); refine_lift have : Keeps z x := ?val; ?main; (case' val => subst x); (case' main => first | clear_value x | subst x))
    | (intro x; subst x)
    | intro _
    | lift_lets
    | (with_reducible apply State.log_keeps)
    | (with_reducible apply State.put_keeps)
    | (with_reducible apply Keeps.ite)
    | (with_reducible refine Keeps.upd rfl rfl rfl rfl rfl rfl rfl rfl rfl rfl rfl rfl rfl rfl rfl rfl ?_; first  | (with_reducible assumption) | (with_reducible apply State.log_keeps) | (with_reducible apply State.put_keeps))

theorem State.releaseOutputs_keeps (hz : Keeps z s) : Keeps z (State.releaseOutputs s) := by
  unfold State.releaseOutputs
  repeat' first
    | (with_reducible assumption)
    | intro _
    | (with_reducible refine Keeps.upd rfl rfl rfl rfl rfl rfl rfl rfl rfl rfl rfl rfl rfl rfl rfl rfl ?_; first | (with_reducible assumption) | split)

end Sys2Proof.Machine
end

