-- ==== Sys2Proof/Laws/KeepsThermal.lean ====
section
/-!
SUPPORT. Every operation of Machine/Thermal.lean keeps (Laws/Keeps.lean).
-/

namespace Sys2Proof.Machine

variable {z s : State}

set_option maxRecDepth 8000

theorem State.hotNow_keeps (i : Nat) (hz : Keeps z s) : Keeps z (State.hotNow s i) := by
  unfold State.hotNow
  repeat' first
    | (with_reducible assumption)
    | intro _
    | (with_reducible apply State.putS_keeps)
    | (with_reducible apply State.put_keeps)

theorem State.postRemote_keeps (r : Nat) (v : Nat) (hz : Keeps z s) : Keeps z (State.postRemote s r v) := by
  unfold State.postRemote
  repeat' first
    | (with_reducible assumption)
    | (intro (x : State); refine_lift have : Keeps z x := ?val; ?main; (case' val => subst x); (case' main => first | clear_value x | subst x))
    | (intro x; subst x)
    | intro _
    | lift_lets
    | (with_reducible apply State.hotNow_keeps)
    | (with_reducible apply State.putB_keeps)
    | (with_reducible apply State.putS_keeps)
    | (with_reducible apply State.put_keeps)
    | (with_reducible apply Keeps.ite)
    | (with_reducible refine Keeps.upd rfl rfl rfl rfl rfl rfl rfl rfl rfl rfl rfl rfl rfl rfl rfl rfl ?_; first | (with_reducible assumption) | (with_reducible apply State.hotNow_keeps) | (with_reducible apply State.putB_keeps) | (with_reducible apply State.putS_keeps) | (with_reducible apply State.put_keeps) | (with_reducible apply Keeps.ite) | split)
    | split

theorem execThmRemoteWrite_keeps (_p : Port) (r : Fin 8) (v : BitVec 16) (hz : Keeps z s) : ∃ y, execThmRemoteWrite _p r v s = .next y ∧ Keeps z y := by
  unfold execThmRemoteWrite
  refine ⟨_, rfl, ?_⟩
  repeat' first
    | (with_reducible assumption)
    | intro _
    | (with_reducible apply State.postRemote_keeps)

theorem State.judgeStale_keeps (r : Nat) (hz : Keeps z s) : Keeps z (State.judgeStale s r) := by
  unfold State.judgeStale
  repeat' first
    | (with_reducible assumption)
    | (intro (x : State); refine_lift have : Keeps z x := ?val; ?main; (case' val => subst x); (case' main => first | clear_value x | subst x))
    | (intro x; subst x)
    | intro _
    | lift_lets
    | (with_reducible apply State.log_keeps)
    | (with_reducible apply State.put_keeps)
    | (with_reducible apply Keeps.ite)
    | (with_reducible refine Keeps.upd rfl rfl rfl rfl rfl rfl rfl rfl rfl rfl rfl rfl rfl rfl rfl rfl ?_; first | (with_reducible assumption) | (with_reducible apply State.log_keeps) | (with_reducible apply State.put_keeps) | (with_reducible apply Keeps.ite) | split)
    | split

theorem execSrcStale_keeps (r : Fin 8) (hz : Keeps z s) : ∃ y, execSrcStale r s = .next y ∧ Keeps z y := by
  unfold execSrcStale
  refine ⟨_, rfl, ?_⟩
  repeat' first
    | (with_reducible assumption)
    | intro _
    | (with_reducible apply State.log_keeps)
    | (with_reducible apply Keeps.ite)
    | (with_reducible refine Keeps.upd rfl rfl rfl rfl rfl rfl rfl rfl rfl rfl rfl rfl rfl rfl rfl rfl ?_; first | (with_reducible assumption) | (with_reducible apply State.log_keeps) | (with_reducible apply Keeps.ite) | split)
    | split

theorem execDiodeConversion_keeps (uv : Nat) (temp : Int) (tempCal : Int) (hz : Keeps z s) : ∃ y, execDiodeConversion uv temp tempCal s = .next y ∧ Keeps z y := by
  unfold execDiodeConversion
  refine ⟨_, rfl, ?_⟩
  repeat' first
    | (with_reducible assumption)
    | (intro (x : State); refine_lift have : Keeps z x := ?val; ?main; (case' val => subst x); (case' main => first | clear_value x | subst x))
    | (intro x; subst x)
    | intro _
    | lift_lets
    | (with_reducible apply State.hotNow_keeps)
    | (with_reducible apply State.log_keeps)
    | (with_reducible apply State.put_keeps)
    | (with_reducible apply Keeps.ite)
    | (with_reducible refine Keeps.upd rfl rfl rfl rfl rfl rfl rfl rfl rfl rfl rfl rfl rfl rfl rfl rfl ?_; first | (with_reducible assumption) | (with_reducible apply State.hotNow_keeps) | (with_reducible apply State.log_keeps) | (with_reducible apply State.put_keeps) | (with_reducible apply Keeps.ite) | split)
    | split

theorem State.diodeClear_keeps (hz : Keeps z s) : Keeps z (State.diodeClear s) := by
  unfold State.diodeClear
  repeat' first
    | (with_reducible assumption)
    | intro _
    | (with_reducible apply State.put_keeps)

theorem execThmFailClr_keeps (hz : Keeps z s) : ∃ y, execThmFailClr s = .next y ∧ Keeps z y := by
  unfold execThmFailClr
  refine ⟨_, rfl, ?_⟩
  repeat' first
    | (with_reducible assumption)
    | intro _
    | (with_reducible apply State.diodeClear_keeps)

theorem State.setAlarm_keeps (crit : Bool) (i : Nat) (a : Alarm) (hz : Keeps z s) : Keeps z (State.setAlarm s crit i a) := by
  unfold State.setAlarm
  repeat' first
    | (with_reducible assumption)
    | intro _
    | (with_reducible apply Keeps.ite)
    | (with_reducible refine Keeps.upd rfl rfl rfl rfl rfl rfl rfl rfl rfl rfl rfl rfl rfl rfl rfl rfl ?_; first  | (with_reducible assumption))

theorem State.almClearBit_keeps (crit : Bool) (i : Nat) (hz : Keeps z s) : Keeps z (State.almClearBit s crit i) := by
  unfold State.almClearBit
  repeat' first
    | (with_reducible assumption)
    | intro _
    | (with_reducible apply State.put_keeps)
    | (with_reducible apply Keeps.ite)

theorem State.almClear_keeps (mask : Nat) (hz : Keeps z s) : Keeps z (State.almClear s mask) := by
  unfold State.almClear
  repeat' first
    | (with_reducible assumption)
    | (intro (x : State); refine_lift have : Keeps z x := ?val; ?main; (case' val => subst x); (case' main => first | clear_value x | subst x))
    | intro _
    | lift_lets
    | (with_reducible apply State.almClearBit_keeps)
    | (with_reducible apply Keeps.ite)
    | (with_reducible refine Keeps.foldl ?_ _ (fun _ _ _ => ?_))

theorem execAlmstatClear_keeps (mask : Word) (hz : Keeps z s) : ∃ y, execAlmstatClear mask s = .next y ∧ Keeps z y := by
  unfold execAlmstatClear
  refine ⟨_, rfl, ?_⟩
  repeat' first
    | (with_reducible assumption)
    | intro _
    | (with_reducible apply State.almClear_keeps)

theorem State.thmTick_keeps (hz : Keeps z s) : Keeps z (State.thmTick s) := by
  unfold State.thmTick
  repeat' first
    | (with_reducible assumption)
    | intro _
    | (with_reducible refine Keeps.upd rfl rfl rfl rfl rfl rfl rfl rfl rfl rfl rfl rfl rfl rfl rfl rfl ?_; first | (with_reducible assumption) | split)

theorem State.judgeAlarm_keeps (crit : Bool) (i : Nat) (v : Int) (hz : Keeps z s) : Keeps z (State.judgeAlarm s crit i v) := by
  unfold State.judgeAlarm
  repeat' first
    | (with_reducible assumption)
    | (intro (x : State); refine_lift have : Keeps z x := ?val; ?main; (case' val => subst x); (case' main => first | clear_value x | subst x))
    | (intro x; subst x)
    | intro _
    | lift_lets
    | (with_reducible apply State.faultShutdown_keeps)
    | (with_reducible apply State.judge_keeps)
    | (with_reducible apply State.log_keeps)
    | (with_reducible apply State.put_keeps)
    | (with_reducible apply State.setAlarm_keeps)
    | (with_reducible apply State.snapAsk_keeps)
    | (with_reducible apply Keeps.ite)

theorem State.throttleOut_keeps (o : Nat) (hz : Keeps z s) : Keeps z (State.throttleOut s o) := by
  unfold State.throttleOut
  repeat' first
    | (with_reducible assumption)
    | (intro x; subst x)
    | intro _
    | lift_lets
    | (with_reducible apply State.putB_keeps)
    | (with_reducible apply State.put_keeps)

theorem State.thmEff_keeps (hz : Keeps z s) : Keeps z (State.thmEff s) := by
  unfold State.thmEff
  repeat' first
    | (with_reducible assumption)
    | (intro (x : State); refine_lift have : Keeps z x := ?val; ?main; (case' val => subst x); (case' main => first | clear_value x | subst x))
    | (intro x; subst x)
    | intro _
    | lift_lets
    | (with_reducible apply State.putS_keeps)
    | (with_reducible apply State.put_keeps)
    | (with_reducible apply Keeps.ite)
    | (with_reducible refine Keeps.foldl ?_ _ (fun _ _ _ => ?_))
    | (refine Keeps.fst ?_ (by assumption))
    | (with_reducible refine Keeps.upd rfl rfl rfl rfl rfl rfl rfl rfl rfl rfl rfl rfl rfl rfl rfl rfl ?_; first | (with_reducible assumption) | (with_reducible apply State.putS_keeps) | (with_reducible apply State.put_keeps) | (with_reducible apply Keeps.ite) | split)

theorem State.thmPhase3_keeps (hz : Keeps z s) : Keeps z (State.thmPhase3 s) := by
  unfold State.thmPhase3
  repeat' first
    | (with_reducible assumption)
    | (intro (x : State); refine_lift have : Keeps z x := ?val; ?main; (case' val => subst x); (case' main => first | clear_value x | subst x))
    | (intro x; subst x)
    | intro _
    | lift_lets
    | (with_reducible apply State.judgeAlarm_keeps)
    | (with_reducible apply State.judgeStale_keeps)
    | (with_reducible apply State.putB_keeps)
    | (with_reducible apply State.putS_keeps)
    | (with_reducible apply State.thmEff_keeps)
    | (with_reducible apply State.throttleOut_keeps)
    | (with_reducible apply Keeps.ite)
    | (with_reducible refine Keeps.foldl ?_ _ (fun _ _ _ => ?_))
    | (with_reducible refine Keeps.foldlPair ?_ _ (fun _ _ _ => ?_))
    | split

theorem State.crossCheck_keeps (t : Int) (ref : Option Int) (hz : Keeps z s) : Keeps z (State.crossCheck s t ref) := by
  unfold State.crossCheck
  repeat' first
    | (with_reducible assumption)
    | (intro (x : State); refine_lift have : Keeps z x := ?val; ?main; (case' val => subst x); (case' main => first | clear_value x | subst x))
    | (intro x; subst x)
    | intro _
    | lift_lets
    | (with_reducible apply State.hotNow_keeps)
    | (with_reducible apply State.log_keeps)
    | (with_reducible apply State.putS_keeps)
    | (with_reducible apply State.put_keeps)
    | (with_reducible apply Keeps.ite)
    | (refine Keeps.fst ?_ (by assumption))
    | split

end Sys2Proof.Machine
end

