-- ==== Sys2Proof/Laws/KeepsAdmission.lean ====
section
/-!
SUPPORT. Every operation of Machine/Admission.lean keeps (Laws/Keeps.lean).
-/

namespace Sys2Proof.Machine

variable {z s : State}

set_option maxRecDepth 8000

theorem State.judgeHard_keeps (hz : Keeps z s) : Keeps z (State.judgeHard s) := by
  unfold State.judgeHard
  repeat' first
    | (with_reducible assumption)
    | (intro (x : State); refine_lift have : Keeps z x := ?val; ?main; (case' val => subst x); (case' main => first | clear_value x | subst x))
    | (intro x; subst x)
    | intro _
    | lift_lets
    | (with_reducible apply State.putB_keeps)

theorem State.setItem_keeps (i : AdmItem) (hz : Keeps z s) : Keeps z (State.setItem s i) := by
  unfold State.setItem
  repeat' first
    | (with_reducible assumption)
    | intro _
    | (with_reducible apply State.admShow_keeps)
    | (with_reducible apply Keeps.ite)
    | (with_reducible refine Keeps.upd rfl rfl rfl rfl rfl rfl rfl rfl rfl rfl rfl rfl rfl rfl rfl rfl ?_; first  | (with_reducible assumption))

theorem State.admitItem_keeps (i : AdmItem) (forced : Bool) (hz : Keeps z s) : Keeps z (State.admitItem s i forced) := by
  unfold State.admitItem
  repeat' first
    | (with_reducible assumption)
    | (intro (x : State); refine_lift have : Keeps z x := ?val; ?main; (case' val => subst x); (case' main => first | clear_value x | subst x))
    | (intro x; subst x)
    | intro _
    | lift_lets
    | (with_reducible apply State.reqWait_keeps)
    | (with_reducible apply State.setItem_keeps)
    | (with_reducible apply Keeps.ite)
    | (with_reducible refine Keeps.upd rfl rfl rfl rfl rfl rfl rfl rfl rfl rfl rfl rfl rfl rfl rfl rfl ?_; first | (with_reducible assumption) | (with_reducible apply State.reqWait_keeps) | (with_reducible apply State.setItem_keeps) | (with_reducible apply Keeps.ite) | split)
    | split

theorem State.admDefer_keeps (i : AdmItem) (hz : Keeps z s) : Keeps z (State.admDefer s i) := by
  unfold State.admDefer
  repeat' first
    | (with_reducible assumption)
    | (intro (x : State); refine_lift have : Keeps z x := ?val; ?main; (case' val => subst x); (case' main => first | clear_value x | subst x))
    | intro _
    | lift_lets
    | (with_reducible apply State.reqWait_keeps)
    | (with_reducible apply State.setItem_keeps)

theorem State.judgeItem_keeps (i : AdmItem) (he : Int) (hz : Keeps z s) : Keeps z (State.judgeItem s i he).1 := by
  unfold State.judgeItem
  repeat' first
    | (with_reducible assumption)
    | intro _
    | (with_reducible apply State.admDefer_keeps)
    | (with_reducible apply State.admDrop_keeps)
    | (with_reducible apply State.admitItem_keeps)
    | (with_reducible apply State.count_keeps)
    | (with_reducible apply Keeps.ite)
    | split

theorem State.judge_keeps (hz : Keeps z s) : Keeps z (State.judge s).1 := by
  unfold State.judge
  repeat' first
    | (with_reducible assumption)
    | (intro (x : State); refine_lift have : Keeps z x := ?val; ?main; (case' val => subst x); (case' main => first | clear_value x | subst x))
    | (intro x; subst x)
    | intro _
    | lift_lets
    | (with_reducible apply State.judgeHard_keeps)
    | (with_reducible apply State.judgeItem_keeps)
    | (with_reducible apply State.putS_keeps)
    | (with_reducible apply State.put_keeps)
    | (with_reducible apply Keeps.ite)
    | (with_reducible refine Keeps.foldl ?_ _ (fun _ _ _ => ?_))
    | (with_reducible refine Keeps.foldlPair ?_ _ (fun _ _ _ => ?_))
    | (refine Keeps.fst ?_ (by assumption))
    | split

theorem State.judgeAbandoned_keeps (hz : Keeps z s) : Keeps z (State.judgeAbandoned s) := by
  unfold State.judgeAbandoned
  repeat' first
    | (with_reducible assumption)
    | intro _
    | (with_reducible apply State.admDefer_keeps)
    | (with_reducible refine Keeps.foldl ?_ _ (fun _ _ _ => ?_))

theorem execReservationLapse_keeps (hz : Keeps z s) : ∃ y, execReservationLapse s = .next y ∧ Keeps z y := by
  unfold execReservationLapse
  refine ⟨_, rfl, ?_⟩
  repeat' first
    | (with_reducible assumption)
    | intro _
    | (with_reducible refine Keeps.upd rfl rfl rfl rfl rfl rfl rfl rfl rfl rfl rfl rfl rfl rfl rfl rfl ?_; first | (with_reducible assumption))

end Sys2Proof.Machine
end

