-- ==== Sys2Proof/Laws/KeepsStore.lean ====
section
/-!
SUPPORT. Every operation of Machine/Store.lean keeps (Laws/Keeps.lean).
-/

namespace Sys2Proof.Machine

variable {z s : State}

set_option maxRecDepth 8000

theorem cellWf_putBytes {m : List (Nat × Byte)} (h : cellWf (fun _ => (0 : Byte)) m = true) (a : Nat) (l : List Byte) :
    cellWf (fun _ => (0 : Byte)) (putBytes m a l) = true := by
  induction l generalizing m a with
  | nil => exact h
  | cons b l ih => exact ih (cellWf_set _ h a b) (a + 1)

theorem Store.setStream_mem (t : Store) (i : StreamId) (x : Stream) : (t.setStream i x).mem = t.mem := by cases i <;> rfl

theorem Keeps.setStream (i : StreamId) (x : Stream) (h : Keeps z s) : Keeps z { s with st := s.st.setStream i x } :=
  h.same (by cases i <;> rfl)

theorem keepRegs_wf (p : Nat → RField → Bool) {l : List (Nat × Word)} (h : cellWf resetWord l = true) :
    cellWf resetWord (keepRegs p l) = true := by
  refine (cellWf_iff _ _).2 ⟨cellSorted_filterMap ((cellWf_iff _ _).1 h).1 _ ?_, ?_⟩
  · intro c x e
    dsimp only at e
    split at e
    · cases e
    · cases e; rfl
  · intro c hc
    obtain ⟨y, -, e⟩ := List.mem_filterMap.1 hc
    dsimp only at e
    split at e
    · cases e
    · cases e; assumption

/-- A reset of part of the register file. -/
theorem Keeps.keepRegs (p : Nat → RField → Bool) (h : Keeps z s) : Keeps z { s with regs := keepRegs p s.regs } :=
  h.setRegs _ (keepRegs_wf p)

theorem State.mramPut_keeps (a : Nat) (l : List Byte) (hz : Keeps z s) : Keeps z (State.mramPut s a l) :=
  ⟨hz.pending, hz.frame, hz.ticks, hz.sub, hz.early, hz.out, hz.free, hz.regs, hz.xmem, fun w => cellWf_putBytes (hz.mram w) a l, hz.units⟩

theorem State.jnlBounds_keeps (i : StreamId) (hz : Keeps z s) : Keeps z (State.jnlBounds s i) := by
  unfold State.jnlBounds
  repeat' first
    | (with_reducible assumption)
    | (intro (x : State); refine_lift have : Keeps z x := ?val; ?main; (case' val => subst x); (case' main => first | clear_value x | subst x))
    | (intro x; subst x)
    | intro _
    | lift_lets
    | (with_reducible apply State.journal_keeps)
    | (with_reducible apply State.log_keeps)
    | (with_reducible apply State.put_keeps)

theorem State.padRing_keeps (i : StreamId) (len : Nat) (hz : Keeps z s) : Keeps z (State.padRing s i len) := by
  unfold State.padRing
  dsimp only
  split
  · exact (State.mramPut_keeps _ _ (State.touch_keeps hz)).setStream i _
  · exact hz

theorem State.claimRec_keeps (i : StreamId) (len : Nat) (hz : Keeps z s) : Keeps z (State.claimRec s i len) :=
  hz.setStream i _

theorem State.recSteps_keeps (a : Nat) (body : List Byte) (e : WriteEnd) (hz : Keeps z s) : Keeps z (State.recSteps s a body e) := by
  unfold State.recSteps
  repeat' first
    | (with_reducible assumption)
    | (intro (x : State); refine_lift have : Keeps z x := ?val; ?main; (case' val => subst x); (case' main => first | clear_value x | subst x))
    | (intro x; subst x)
    | intro _
    | lift_lets
    | (with_reducible apply State.mramPut_keeps)
    | (refine Keeps.fst ?_ (by assumption))
    | (with_reducible refine Keeps.upd rfl rfl rfl rfl rfl rfl rfl rfl rfl rfl rfl rfl rfl rfl rfl rfl ?_; first | (with_reducible assumption) | (with_reducible apply State.mramPut_keeps) | split)
    | split

theorem State.writeRec_keeps (i : StreamId) (len : Nat) (e : WriteEnd) (body : Nat → List Byte) (hz : Keeps z s) : Keeps z (State.writeRec s i len e body).1 := by
  unfold State.writeRec
  repeat' first
    | (with_reducible assumption)
    | (intro (x : State); refine_lift have : Keeps z x := ?val; ?main; (case' val => subst x); (case' main => first | clear_value x | subst x))
    | (intro x; subst x)
    | intro _
    | lift_lets
    | (with_reducible apply State.claimRec_keeps)
    | (with_reducible apply State.jnlBounds_keeps)
    | (with_reducible apply State.padRing_keeps)
    | (with_reducible apply State.recSteps_keeps)

theorem State.nvWrite_keeps (seq : Nat) (hz : Keeps z s) : Keeps z (State.nvWrite s seq) := by
  unfold State.nvWrite
  repeat' first
    | (with_reducible assumption)
    | (intro (x : State); refine_lift have : Keeps z x := ?val; ?main; (case' val => subst x); (case' main => first | clear_value x | subst x))
    | (intro x; subst x)
    | intro _
    | lift_lets
    | (with_reducible apply Keeps.ite)
    | (with_reducible refine Keeps.upd rfl rfl rfl rfl rfl rfl rfl rfl rfl rfl rfl rfl rfl rfl rfl rfl ?_; first | (with_reducible assumption) | (with_reducible apply Keeps.ite) | split)
    | split

theorem State.evDropRecord_keeps (hz : Keeps z s) : Keeps z (State.evDropRecord s) := by
  unfold State.evDropRecord
  repeat' first
    | (with_reducible assumption)
    | (intro x; subst x)
    | intro _
    | lift_lets
    | (with_reducible apply State.log_keeps)
    | (with_reducible apply State.put_keeps)
    | (with_reducible apply Keeps.ite)

theorem State.commitDone_keeps (c : CommitFrom) (seq : Nat) (hz : Keeps z s) : Keeps z (State.commitDone s c seq) := by
  unfold State.commitDone
  repeat' first
    | (with_reducible assumption)
    | intro _
    | (with_reducible apply State.done_keeps)
    | (refine Keeps.fst ?_ (by assumption))
    | (with_reducible refine Keeps.upd rfl rfl rfl rfl rfl rfl rfl rfl rfl rfl rfl rfl rfl rfl rfl rfl ?_; first | (with_reducible assumption) | (with_reducible apply State.done_keeps) | split)

theorem State.writeJournal_keeps (we : WriteEnd) (hz : Keeps z s) : Keeps z (State.writeJournal s we) := by
  unfold State.writeJournal
  repeat' first
    | (with_reducible assumption)
    | (intro (x : State); refine_lift have : Keeps z x := ?val; ?main; (case' val => subst x); (case' main => first | clear_value x | subst x))
    | (intro x; subst x)
    | intro _
    | lift_lets
    | (with_reducible apply State.commitDone_keeps)
    | (with_reducible apply State.log_keeps)
    | (with_reducible apply State.nvWrite_keeps)
    | (with_reducible apply State.put_keeps)
    | (with_reducible apply State.writeRec_keeps)
    | (with_reducible apply Keeps.ite)
    | (refine Keeps.fst ?_ (by assumption))
    | (with_reducible refine Keeps.upd rfl rfl rfl rfl rfl rfl rfl rfl rfl rfl rfl rfl rfl rfl rfl rfl ?_; first | (with_reducible assumption) | (with_reducible apply State.commitDone_keeps) | (with_reducible apply State.log_keeps) | (with_reducible apply State.nvWrite_keeps) | (with_reducible apply State.put_keeps) | (with_reducible apply State.writeRec_keeps) | (with_reducible apply Keeps.ite) | split)
    | split

theorem State.writeLog_keeps (we : WriteEnd) (hz : Keeps z s) : Keeps z (State.writeLog s we) := by
  unfold State.writeLog
  repeat' first
    | (with_reducible assumption)
    | (intro (x : State); refine_lift have : Keeps z x := ?val; ?main; (case' val => subst x); (case' main => first | clear_value x | subst x))
    | (intro x; subst x)
    | intro _
    | lift_lets
    | (with_reducible apply State.evDropRecord_keeps)
    | (with_reducible apply State.evRecord_keeps)
    | (with_reducible apply State.writeRec_keeps)
    | (with_reducible apply Keeps.ite)
    | (refine Keeps.fst ?_ (by assumption))
    | (with_reducible refine Keeps.upd rfl rfl rfl rfl rfl rfl rfl rfl rfl rfl rfl rfl rfl rfl rfl rfl ?_; first | (with_reducible assumption) | (with_reducible apply State.evDropRecord_keeps) | (with_reducible apply State.evRecord_keeps) | (with_reducible apply State.writeRec_keeps) | (with_reducible apply Keeps.ite) | split)
    | split

theorem execRecordWrite_keeps (stream : StreamId) (bad : Option (BitVec 7)) (hz : Keeps z s) : ∃ y, execRecordWrite stream bad s = .next y ∧ Keeps z y := by
  unfold execRecordWrite
  refine ⟨_, rfl, ?_⟩
  repeat' first
    | (with_reducible assumption)
    | intro _
    | (with_reducible apply State.writeJournal_keeps)
    | (with_reducible apply State.writeLog_keeps)
    | (with_reducible apply Keeps.ite)
    | (refine Keeps.fst ?_ (by assumption))
    | split

theorem State.snapCapture_keeps (cause : Nat) (subject : Nat) (tag : Option Nat) (hz : Keeps z s) : Keeps z (State.snapCapture s cause subject tag) := by
  unfold State.snapCapture
  repeat' first
    | (with_reducible assumption)
    | intro _
    | (with_reducible refine Keeps.upd rfl rfl rfl rfl rfl rfl rfl rfl rfl rfl rfl rfl rfl rfl rfl rfl ?_; first | (with_reducible assumption) | split)

theorem State.writeSnap_keeps (we : WriteEnd) (hz : Keeps z s) : Keeps z (State.writeSnap s we) := by
  unfold State.writeSnap
  repeat' first
    | (with_reducible assumption)
    | (intro (x : State); refine_lift have : Keeps z x := ?val; ?main; (case' val => subst x); (case' main => first | clear_value x | subst x))
    | (intro x; subst x)
    | intro _
    | lift_lets
    | (with_reducible apply State.done_keeps)
    | (with_reducible apply State.writeRec_keeps)
    | (with_reducible apply Keeps.ite)
    | (refine Keeps.fst ?_ (by assumption))
    | (with_reducible refine Keeps.upd rfl rfl rfl rfl rfl rfl rfl rfl rfl rfl rfl rfl rfl rfl rfl rfl ?_; first | (with_reducible assumption) | (with_reducible apply State.done_keeps) | (with_reducible apply State.writeRec_keeps) | (with_reducible apply Keeps.ite) | split)
    | split

theorem execSnapshotWrite_keeps (bad : Option (BitVec 7)) (hz : Keeps z s) : ∃ y, execSnapshotWrite bad s = .next y ∧ Keeps z y := by
  unfold execSnapshotWrite
  refine ⟨_, rfl, ?_⟩
  repeat' first
    | (with_reducible assumption)
    | intro _
    | (with_reducible apply State.writeSnap_keeps)
    | (with_reducible apply Keeps.ite)
    | split

theorem State.jnlLoad_keeps (hz : Keeps z s) : Keeps z (State.jnlLoad s) := by
  unfold State.jnlLoad
  repeat' first
    | (with_reducible assumption)
    | (intro (x : State); refine_lift have : Keeps z x := ?val; ?main; (case' val => subst x); (case' main => first | clear_value x | subst x))
    | (intro x; subst x)
    | intro _
    | lift_lets
    | (with_reducible apply State.put_keeps)
    | (with_reducible refine Keeps.foldl ?_ _ (fun _ _ _ => ?_))
    | (with_reducible refine Keeps.foldlPair ?_ _ (fun _ _ _ => ?_))
    | (refine Keeps.fst ?_ (by assumption))

theorem execJnlReadSelect_keeps (ofs : Bool) (v : Word) (hz : Keeps z s) : ∃ y, execJnlReadSelect ofs v s = .next y ∧ Keeps z y := by
  unfold execJnlReadSelect
  refine ⟨_, rfl, ?_⟩
  repeat' first
    | (with_reducible assumption)
    | intro _
    | (with_reducible apply State.jnlLoad_keeps)
    | (with_reducible apply State.put_keeps)
    | (with_reducible apply Keeps.ite)

end Sys2Proof.Machine
end

