-- ==== Sys2Proof/Laws/KeepsAuth.lean ====
section
/-!
SUPPORT. Every operation of Machine/Auth.lean keeps (Laws/Keeps.lean).
-/

namespace Sys2Proof.Machine

variable {z s : State}

set_option maxRecDepth 8000

theorem State.authShowEnd_keeps (t : Nat) (hz : Keeps z s) : Keeps z (State.authShowEnd s t) := by
  unfold State.authShowEnd
  repeat' first
    | (with_reducible assumption)
    | intro _
    | (with_reducible apply State.put_keeps)

theorem State.authJournal_keeps (kind : JKind) (cause : Nat) (hz : Keeps z s) : Keeps z (State.authJournal s kind cause) := by
  unfold State.authJournal
  repeat' first
    | (with_reducible assumption)
    | (intro (x : State); refine_lift have : Keeps z x := ?val; ?main; (case' val => subst x); (case' main => first | clear_value x | subst x))
    | intro _
    | lift_lets
    | (with_reducible apply State.journal_keeps)
    | (with_reducible apply State.touch_keeps)

theorem State.attemptEnd_keeps (hz : Keeps z s) : Keeps z (State.attemptEnd s) := by
  unfold State.attemptEnd
  repeat' first
    | (with_reducible assumption)
    | intro _
    | (with_reducible refine Keeps.upd rfl rfl rfl rfl rfl rfl rfl rfl rfl rfl rfl rfl rfl rfl rfl rfl ?_; first | (with_reducible assumption))

theorem State.authFail_keeps (hz : Keeps z s) : Keeps z (State.authFail s) := by
  unfold State.authFail
  dsimp only
  repeat' first
    | (with_reducible assumption)
    | intro _
    | (with_reducible apply State.attemptEnd_keeps)
    | (with_reducible apply State.authShowEnd_keeps)
    | (with_reducible apply State.complete_keeps)
    | (with_reducible apply State.log_keeps)
    | (with_reducible apply State.put_keeps)
    | (with_reducible apply Keeps.ite)
    | (refine Keeps.fst ?_ (by assumption))
    | (with_reducible refine Keeps.upd rfl rfl rfl rfl rfl rfl rfl rfl rfl rfl rfl rfl rfl rfl rfl rfl ?_; first | (with_reducible assumption) | (with_reducible apply State.attemptEnd_keeps) | (with_reducible apply State.authShowEnd_keeps) | (with_reducible apply State.complete_keeps) | (with_reducible apply State.log_keeps) | (with_reducible apply State.put_keeps) | (with_reducible apply Keeps.ite) | split)

theorem State.authOpen_keeps (hz : Keeps z s) : Keeps z (State.authOpen s) := by
  unfold State.authOpen
  dsimp only
  repeat' first
    | (with_reducible assumption)
    | intro _
    | (with_reducible apply State.attemptEnd_keeps)
    | (with_reducible apply State.authJournal_keeps)
    | (with_reducible apply State.authShowEnd_keeps)
    | (with_reducible apply State.done_keeps)
    | (with_reducible apply State.put_keeps)
    | (refine Keeps.fst ?_ (by assumption))
    | (with_reducible refine Keeps.upd rfl rfl rfl rfl rfl rfl rfl rfl rfl rfl rfl rfl rfl rfl rfl rfl ?_; first | (with_reducible assumption) | (with_reducible apply State.attemptEnd_keeps) | (with_reducible apply State.authJournal_keeps) | (with_reducible apply State.authShowEnd_keeps) | (with_reducible apply State.done_keeps) | (with_reducible apply State.put_keeps) | split)

theorem State.authClose_keeps (cause : Nat) (hz : Keeps z s) : Keeps z (State.authClose s cause) := by
  unfold State.authClose
  repeat' first
    | (with_reducible assumption)
    | (intro (x : State); refine_lift have : Keeps z x := ?val; ?main; (case' val => subst x); (case' main => first | clear_value x | subst x))
    | (intro x; subst x)
    | intro _
    | lift_lets
    | (with_reducible apply State.authJournal_keeps)
    | (with_reducible apply State.authShowEnd_keeps)
    | (with_reducible apply State.put_keeps)
    | (with_reducible apply Keeps.ite)
    | (with_reducible refine Keeps.upd rfl rfl rfl rfl rfl rfl rfl rfl rfl rfl rfl rfl rfl rfl rfl rfl ?_; first  | (with_reducible assumption))

theorem State.authDrop_keeps (status : Nat) (hz : Keeps z s) : Keeps z (State.authDrop s status) := by
  unfold State.authDrop
  repeat' first
    | (with_reducible assumption)
    | intro _
    | (with_reducible apply State.attemptEnd_keeps)
    | (with_reducible apply State.complete_keeps)
    | (refine Keeps.fst ?_ (by assumption))
    | split

theorem execAuthVerify_keeps (hz : Keeps z s) : ∃ y, execAuthVerify s = .next y ∧ Keeps z y := by
  unfold execAuthVerify
  refine ⟨_, rfl, ?_⟩
  repeat' first
    | (with_reducible assumption)
    | intro _
    | (with_reducible apply State.authDrop_keeps)
    | (with_reducible apply State.authFail_keeps)
    | (with_reducible apply State.authOpen_keeps)
    | (with_reducible apply Keeps.ite)
    | (refine Keeps.fst ?_ (by assumption))
    | split

theorem execAuthAttemptTimeout_keeps (hz : Keeps z s) : ∃ y, execAuthAttemptTimeout s = .next y ∧ Keeps z y := by
  unfold execAuthAttemptTimeout
  refine ⟨_, rfl, ?_⟩
  repeat' first
    | (with_reducible assumption)
    | intro _
    | (with_reducible apply State.authDrop_keeps)
    | (with_reducible apply Keeps.ite)
    | (refine Keeps.fst ?_ (by assumption))
    | split

theorem execAuthExpire_keeps (hz : Keeps z s) : ∃ y, execAuthExpire s = .next y ∧ Keeps z y := by
  unfold execAuthExpire
  refine ⟨_, rfl, ?_⟩
  repeat' first
    | (with_reducible assumption)
    | intro _
    | (with_reducible apply State.authClose_keeps)
    | (with_reducible apply Keeps.ite)

theorem execAuthLockEnd_keeps (hz : Keeps z s) : ∃ y, execAuthLockEnd s = .next y ∧ Keeps z y := by
  unfold execAuthLockEnd
  refine ⟨_, rfl, ?_⟩
  repeat' first
    | (with_reducible assumption)
    | intro _
    | (with_reducible apply State.authShowEnd_keeps)
    | (with_reducible apply State.put_keeps)
    | (with_reducible apply Keeps.ite)
    | split

end Sys2Proof.Machine
end

