-- ==== Sys2Proof/Laws/KeepsCards.lean ====
section
/-!
SUPPORT. Every operation of Machine/Cards.lean keeps (Laws/Keeps.lean).
-/

namespace Sys2Proof.Machine

variable {z s : State}

set_option maxRecDepth 8000

theorem State.modCard_keeps (n : Nat) (f : Card → Card) (hz : Keeps z s) : Keeps z (State.modCard s n f) :=
  hz.same (by simp [State.kept, State.units, State.modCard, modAt])

theorem State.sessShow_keeps (p : Nat) (hz : Keeps z s) : Keeps z (State.sessShow s p) := by
  unfold State.sessShow
  repeat' first
    | (with_reducible assumption)
    | intro _
    | (with_reducible apply State.put_keeps)

theorem State.exclEnd_keeps (p : Nat) (hz : Keeps z s) : Keeps z (State.exclEnd s p) := by
  unfold State.exclEnd
  repeat' first
    | (with_reducible assumption)
    | intro _
    | (with_reducible apply State.put_keeps)

theorem State.sessDrop_keeps (x : Sess) (hz : Keeps z s) : Keeps z (State.sessDrop s x) := by
  unfold State.sessDrop
  repeat' first
    | (with_reducible assumption)
    | (intro (x : State); refine_lift have : Keeps z x := ?val; ?main; (case' val => subst x); (case' main => first | clear_value x | subst x))
    | (intro x; subst x)
    | intro _
    | lift_lets
    | (with_reducible apply State.exclEnd_keeps)
    | (with_reducible apply State.put_keeps)
    | (with_reducible apply State.sessShow_keeps)
    | (with_reducible apply Keeps.ite)
    | (with_reducible refine Keeps.upd rfl rfl rfl rfl rfl rfl rfl rfl rfl rfl rfl rfl rfl rfl rfl rfl ?_; first  | (with_reducible assumption))

theorem State.sessMake_keeps (p c : Nat) (w : Who) (hz : Keeps z s) : Keeps z (State.sessMake s p c w).1 := by
  unfold State.sessMake
  repeat' first
    | (with_reducible assumption)
    | (intro (x : State); refine_lift have : Keeps z x := ?val; ?main; (case' val => subst x); (case' main => first | clear_value x | subst x))
    | (intro x; subst x)
    | intro _
    | lift_lets
    | (with_reducible apply State.modCard_keeps)
    | (with_reducible apply State.put_keeps)
    | (with_reducible apply State.sessShow_keeps)
    | (with_reducible refine Keeps.upd rfl rfl rfl rfl rfl rfl rfl rfl rfl rfl rfl rfl rfl rfl rfl rfl ?_; first  | (with_reducible assumption))

theorem State.exComplete_keeps (e : ExWho) (status result aux : Nat) (hz : Keeps z s) : Keeps z (State.exComplete s e status result aux) := by
  unfold State.exComplete
  repeat' first
    | (with_reducible assumption)
    | intro _
    | (with_reducible apply State.complete_keeps)
    | (refine Keeps.fst ?_ (by assumption))
    | (with_reducible refine Keeps.upd rfl rfl rfl rfl rfl rfl rfl rfl rfl rfl rfl rfl rfl rfl rfl rfl ?_; first | (with_reducible assumption) | (with_reducible apply State.complete_keeps) | split)

theorem State.sessEndAll_keeps (p : Nat) (hz : Keeps z s) : Keeps z (State.sessEndAll s p) := by
  unfold State.sessEndAll
  repeat' first
    | (with_reducible assumption)
    | (intro (x : State); refine_lift have : Keeps z x := ?val; ?main; (case' val => subst x); (case' main => first | clear_value x | subst x))
    | (intro x; subst x)
    | intro _
    | lift_lets
    | (with_reducible apply State.authFail_keeps)
    | (with_reducible apply State.complete_keeps)
    | (with_reducible apply State.exComplete_keeps)
    | (with_reducible apply State.modCard_keeps)
    | (with_reducible apply State.sessDrop_keeps)
    | (with_reducible refine Keeps.foldl ?_ _ (fun _ _ _ => ?_))
    | (refine Keeps.fst ?_ (by assumption))
    | (with_reducible refine Keeps.upd rfl rfl rfl rfl rfl rfl rfl rfl rfl rfl rfl rfl rfl rfl rfl rfl ?_; first | (with_reducible assumption) | (with_reducible apply State.authFail_keeps) | (with_reducible apply State.complete_keeps) | (with_reducible apply State.exComplete_keeps) | (with_reducible apply State.modCard_keeps) | (with_reducible apply State.sessDrop_keeps) | split)

theorem State.contactsOff_keeps (p : Nat) (hz : Keeps z s) : Keeps z (State.contactsOff s p) := by
  unfold State.contactsOff
  repeat' first
    | (with_reducible assumption)
    | intro _
    | (with_reducible apply State.modCard_keeps)

theorem State.classStart_keeps (p c : Nat) (hz : Keeps z s) : Keeps z (State.classStart s p c) := by
  unfold State.classStart
  repeat' first
    | (with_reducible assumption)
    | intro _
    | (with_reducible apply State.modCard_keeps)

theorem State.cdInactive_keeps (p st : Nat) (hz : Keeps z s) : Keeps z (State.cdInactive s p st) := by
  unfold State.cdInactive
  repeat' first
    | (with_reducible assumption)
    | (intro (x : State); refine_lift have : Keeps z x := ?val; ?main; (case' val => subst x); (case' main => first | clear_value x | subst x))
    | intro _
    | lift_lets
    | (with_reducible apply State.contactsOff_keeps)
    | (with_reducible apply State.put_keeps)
    | (with_reducible apply State.setReg_keeps)

theorem State.cdDeactivate_keeps (p : Nat) (hz : Keeps z s) : Keeps z (State.cdDeactivate s p) := by
  unfold State.cdDeactivate
  repeat' first
    | (with_reducible assumption)
    | intro _
    | (with_reducible apply State.cdInactive_keeps)
    | (with_reducible apply State.sessEndAll_keeps)

theorem State.actDone_keeps (p status result : Nat) (hz : Keeps z s) : Keeps z (State.actDone s p status result) := by
  unfold State.actDone
  repeat' first
    | (with_reducible assumption)
    | (intro (x : State); refine_lift have : Keeps z x := ?val; ?main; (case' val => subst x); (case' main => first | clear_value x | subst x))
    | (intro x; subst x)
    | intro _
    | lift_lets
    | (with_reducible apply State.complete_keeps)
    | (with_reducible apply State.modCard_keeps)
    | (with_reducible refine Keeps.foldl ?_ _ (fun _ _ _ => ?_))

theorem State.actFail_keeps (p status : Nat) (hz : Keeps z s) : Keeps z (State.actFail s p status) := by
  unfold State.actFail
  repeat' first
    | (with_reducible assumption)
    | (intro (x : State); refine_lift have : Keeps z x := ?val; ?main; (case' val => subst x); (case' main => first | clear_value x | subst x))
    | intro _
    | lift_lets
    | (with_reducible apply State.actDone_keeps)
    | (with_reducible apply State.cdInactive_keeps)
    | (with_reducible apply State.log_keeps)

theorem State.classFail_keeps (p status : Nat) (hz : Keeps z s) : Keeps z (State.classFail s p status) := by
  unfold State.classFail
  repeat' first
    | (with_reducible assumption)
    | intro _
    | (with_reducible apply State.actFail_keeps)
    | (with_reducible apply State.cdDeactivate_keeps)
    | (with_reducible apply State.contactsOff_keeps)
    | (with_reducible apply State.modCard_keeps)
    | (with_reducible apply Keeps.ite)
    | (refine Keeps.fst ?_ (by assumption))
    | (with_reducible refine Keeps.upd rfl rfl rfl rfl rfl rfl rfl rfl rfl rfl rfl rfl rfl rfl rfl rfl ?_; first | (with_reducible assumption) | (with_reducible apply State.actFail_keeps) | (with_reducible apply State.cdDeactivate_keeps) | (with_reducible apply State.contactsOff_keeps) | (with_reducible apply State.modCard_keeps) | (with_reducible apply Keeps.ite) | split)

theorem State.cdSend_keeps (p : Nat) (b : List Byte) (hz : Keeps z s) : Keeps z (State.cdSend s p b) := by
  unfold State.cdSend
  repeat' first
    | (with_reducible assumption)
    | intro _
    | (with_reducible apply State.emit_keeps)

theorem State.cdActive_keeps (p : Nat) (hz : Keeps z s) : Keeps z (State.cdActive s p) := by
  unfold State.cdActive
  repeat' first
    | (with_reducible assumption)
    | (intro (x : State); refine_lift have : Keeps z x := ?val; ?main; (case' val => subst x); (case' main => first | clear_value x | subst x))
    | (intro x; subst x)
    | intro _
    | lift_lets
    | (with_reducible apply State.actDone_keeps)
    | (with_reducible apply State.log_keeps)
    | (with_reducible apply State.modCard_keeps)
    | (with_reducible apply State.put_keeps)
    | (with_reducible apply State.run_keeps)
    | (with_reducible apply Keeps.ite)

theorem State.paramsApply_keeps (p proto : Nat) (pair : Nat × Nat) (hz : Keeps z s) : Keeps z (State.paramsApply s p proto pair) := by
  unfold State.paramsApply
  repeat' first
    | (with_reducible assumption)
    | (intro (x : State); refine_lift have : Keeps z x := ?val; ?main; (case' val => subst x); (case' main => first | clear_value x | subst x))
    | (intro x; subst x)
    | intro _
    | lift_lets
    | (with_reducible apply State.cdActive_keeps)
    | (with_reducible apply State.cdSend_keeps)
    | (with_reducible apply State.modCard_keeps)
    | (with_reducible apply State.put_keeps)
    | (with_reducible apply Keeps.ite)

theorem State.atrAccept_keeps (p : Nat) (a : Atr) (hz : Keeps z s) : Keeps z (State.atrAccept s p a) := by
  unfold State.atrAccept
  repeat' first
    | (with_reducible assumption)
    | (intro x; subst x)
    | intro _
    | lift_lets
    | (with_reducible apply State.actFail_keeps)
    | (with_reducible apply State.cdDeactivate_keeps)
    | (with_reducible apply State.cdSend_keeps)
    | (with_reducible apply State.classFail_keeps)
    | (with_reducible apply State.modCard_keeps)
    | (with_reducible apply State.paramsApply_keeps)
    | (with_reducible apply Keeps.ite)
    | (refine Keeps.fst ?_ (by assumption))
    | (with_reducible refine Keeps.upd rfl rfl rfl rfl rfl rfl rfl rfl rfl rfl rfl rfl rfl rfl rfl rfl ?_; first | (with_reducible assumption) | (with_reducible apply State.actFail_keeps) | (with_reducible apply State.cdDeactivate_keeps) | (with_reducible apply State.cdSend_keeps) | (with_reducible apply State.classFail_keeps) | (with_reducible apply State.modCard_keeps) | (with_reducible apply State.paramsApply_keeps) | (with_reducible apply Keeps.ite) | split)

theorem State.actStart_keeps (p : Nat) (forced : Bool) (hz : Keeps z s) : Keeps z (State.actStart s p forced) := by
  unfold State.actStart
  repeat' first
    | (with_reducible assumption)
    | (intro (x : State); refine_lift have : Keeps z x := ?val; ?main; (case' val => subst x); (case' main => first | clear_value x | subst x))
    | (intro x; subst x)
    | intro _
    | lift_lets
    | (with_reducible apply State.actFail_keeps)
    | (with_reducible apply State.classStart_keeps)
    | (with_reducible apply State.modCard_keeps)
    | (with_reducible apply State.put_keeps)
    | (with_reducible apply State.setReg_keeps)
    | (with_reducible refine Keeps.foldl ?_ _ (fun _ _ _ => ?_))
    | (refine Keeps.fst ?_ (by assumption))
    | (with_reducible refine Keeps.upd rfl rfl rfl rfl rfl rfl rfl rfl rfl rfl rfl rfl rfl rfl rfl rfl ?_; first | (with_reducible assumption) | (with_reducible apply State.actFail_keeps) | (with_reducible apply State.classStart_keeps) | (with_reducible apply State.modCard_keeps) | (with_reducible apply State.put_keeps) | (with_reducible apply State.setReg_keeps) | split)

theorem State.actAsk_keeps (p : Nat) (o : Origin) (hz : Keeps z s) : Keeps z (State.actAsk s p o) := by
  unfold State.actAsk
  repeat' first
    | (with_reducible assumption)
    | intro _
    | (with_reducible apply State.present_keeps)

theorem State.autoAct_keeps (p : Nat) (hz : Keeps z s) : Keeps z (State.autoAct s p) := by
  unfold State.autoAct
  repeat' first
    | (with_reducible assumption)
    | intro _
    | (with_reducible apply State.actAsk_keeps)
    | (with_reducible apply Keeps.ite)

theorem State.t1Next_keeps (p : Nat) (e : Exch) (hz : Keeps z s) : Keeps z (State.t1Next s p e) := by
  unfold State.t1Next
  repeat' first
    | (with_reducible assumption)
    | (intro x; subst x)
    | intro _
    | lift_lets
    | (with_reducible apply State.cdSend_keeps)
    | (with_reducible apply State.modCard_keeps)

theorem State.exStart_keeps (p : Nat) (w : ExWho) (a : List Byte) (hz : Keeps z s) : Keeps z (State.exStart s p w a) := by
  unfold State.exStart
  repeat' first
    | (with_reducible assumption)
    | (intro (x : State); refine_lift have : Keeps z x := ?val; ?main; (case' val => subst x); (case' main => first | clear_value x | subst x))
    | (intro x; subst x)
    | intro _
    | lift_lets
    | (with_reducible apply State.cdSend_keeps)
    | (with_reducible apply State.modCard_keeps)
    | (with_reducible apply State.t1Next_keeps)
    | (with_reducible apply Keeps.ite)
    | (refine Keeps.fst ?_ (by assumption))
    | split

theorem State.exclOpen_keeps (p h n : Nat) (t : Tag) (hz : Keeps z s) : Keeps z (State.exclOpen s p h n t) := by
  unfold State.exclOpen
  repeat' first
    | (with_reducible assumption)
    | (intro (x : State); refine_lift have : Keeps z x := ?val; ?main; (case' val => subst x); (case' main => first | clear_value x | subst x))
    | (intro x; subst x)
    | intro _
    | lift_lets
    | (with_reducible apply State.done_keeps)
    | (with_reducible apply State.modCard_keeps)
    | (with_reducible apply State.put_keeps)

theorem State.cdRestart_keeps (p : Nat) (hz : Keeps z s) : Keeps z (State.cdRestart s p) := by
  unfold State.cdRestart
  repeat' first
    | (with_reducible assumption)
    | (intro (x : State); refine_lift have : Keeps z x := ?val; ?main; (case' val => subst x); (case' main => first | clear_value x | subst x))
    | (intro x; subst x)
    | intro _
    | lift_lets
    | (with_reducible apply State.modCard_keeps)
    | (with_reducible apply State.put_keeps)

theorem State.cdFree_keeps (p : Nat) (x0 : Nat) (hz : Keeps z s) : Keeps z (State.cdFree s p x0) := by
  induction x0 generalizing s with
  | zero => unfold State.cdFree; (try split) <;> exact hz
  | succ n ih =>
  unfold State.cdFree
  repeat' first
    | (with_reducible assumption)
    | (with_reducible apply ih)
    | (intro (x : State); refine_lift have : Keeps z x := ?val; ?main; (case' val => subst x); (case' main => first | clear_value x | subst x))
    | (intro x; subst x)
    | intro _
    | lift_lets
    | (with_reducible apply State.cdDeactivate_keeps)
    | (with_reducible apply State.cdRestart_keeps)
    | (with_reducible apply State.done_keeps)
    | (with_reducible apply State.exStart_keeps)
    | (with_reducible apply State.exclOpen_keeps)
    | (with_reducible apply State.modCard_keeps)
    | (with_reducible apply State.run_keeps)
    | split
    | (with_reducible apply State.sessDrop_keeps)
    | (with_reducible apply Keeps.ite)
    | (refine Keeps.fst ?_ (by assumption))
    | (with_reducible refine Keeps.upd rfl rfl rfl rfl rfl rfl rfl rfl rfl rfl rfl rfl rfl rfl rfl rfl ?_; first | (with_reducible assumption) | (with_reducible apply State.cdDeactivate_keeps) | (with_reducible apply State.done_keeps) | (with_reducible apply State.exStart_keeps) | (with_reducible apply State.exclOpen_keeps) | (with_reducible apply State.modCard_keeps) | (with_reducible apply State.run_keeps) | (with_reducible apply State.sessDrop_keeps) | (with_reducible apply Keeps.ite) | split)

theorem State.cdGo_keeps (p : Nat) (hz : Keeps z s) : Keeps z (State.cdGo s p) := by
  unfold State.cdGo
  repeat' first
    | (with_reducible assumption)
    | intro _
    | (with_reducible apply State.cdFree_keeps)
    | (with_reducible apply Keeps.ite)
    | split

theorem State.exEnd_keeps (p status sw : Nat) (hz : Keeps z s) : Keeps z (State.exEnd s p status sw) := by
  unfold State.exEnd
  repeat' first
    | (with_reducible assumption)
    | (intro (x : State); refine_lift have : Keeps z x := ?val; ?main; (case' val => subst x); (case' main => first | clear_value x | subst x))
    | (intro x; subst x)
    | intro _
    | lift_lets
    | (with_reducible apply State.authFail_keeps)
    | (with_reducible apply State.complete_keeps)
    | (with_reducible apply State.doneBuf_keeps)
    | (with_reducible apply State.done_keeps)
    | (with_reducible apply State.modCard_keeps)
    | (with_reducible apply State.sessMake_keeps)
    | (with_reducible apply Keeps.ite)
    | (refine Keeps.fst ?_ (by assumption))
    | (with_reducible refine Keeps.upd rfl rfl rfl rfl rfl rfl rfl rfl rfl rfl rfl rfl rfl rfl rfl rfl ?_; first | (with_reducible assumption) | (with_reducible apply State.authFail_keeps) | (with_reducible apply State.complete_keeps) | (with_reducible apply State.doneBuf_keeps) | (with_reducible apply State.done_keeps) | (with_reducible apply State.modCard_keeps) | (with_reducible apply State.sessMake_keeps) | (with_reducible apply Keeps.ite) | split)

theorem State.t0End_keeps (p : Nat) (e : Exch) (s1 s2 : Byte) (hz : Keeps z s) : Keeps z (State.t0End s p e s1 s2) := by
  unfold State.t0End
  repeat' first
    | (with_reducible assumption)
    | (intro (x : State); refine_lift have : Keeps z x := ?val; ?main; (case' val => subst x); (case' main => first | clear_value x | subst x))
    | (intro x; subst x)
    | intro _
    | lift_lets
    | (with_reducible apply State.cdGo_keeps)
    | (with_reducible apply State.cdSend_keeps)
    | (with_reducible apply State.exEnd_keeps)
    | (with_reducible apply State.modCard_keeps)
    | (with_reducible apply Keeps.ite)

theorem State.t0Char_keeps (p : Nat) (b : Byte) (hz : Keeps z s) : Keeps z (State.t0Char s p b) := by
  unfold State.t0Char
  repeat' first
    | (with_reducible assumption)
    | (intro x; subst x)
    | intro _
    | lift_lets
    | (with_reducible apply State.cdSend_keeps)
    | (with_reducible apply State.modCard_keeps)
    | (with_reducible apply State.run_keeps)
    | (with_reducible apply State.t0End_keeps)
    | (with_reducible apply Keeps.ite)
    | (refine Keeps.fst ?_ (by assumption))
    | (with_reducible refine Keeps.upd rfl rfl rfl rfl rfl rfl rfl rfl rfl rfl rfl rfl rfl rfl rfl rfl ?_; first | (with_reducible assumption) | (with_reducible apply State.cdSend_keeps) | (with_reducible apply State.modCard_keeps) | (with_reducible apply State.run_keeps) | (with_reducible apply State.t0End_keeps) | (with_reducible apply Keeps.ite) | split)

theorem State.cdRecovery_keeps (p status kind : Nat) (hz : Keeps z s) : Keeps z (State.cdRecovery s p status kind) := by
  unfold State.cdRecovery
  repeat' first
    | (with_reducible assumption)
    | intro _
    | (with_reducible apply State.log_keeps)

theorem State.t0Fail_keeps (p status kind : Nat) (hz : Keeps z s) : Keeps z (State.t0Fail s p status kind) := by
  unfold State.t0Fail
  repeat' first
    | (with_reducible assumption)
    | intro _
    | (with_reducible apply State.cdDeactivate_keeps)
    | (with_reducible apply State.cdRecovery_keeps)
    | (with_reducible apply State.exEnd_keeps)

theorem State.t1Error_keeps (p status : Nat) (hz : Keeps z s) : Keeps z (State.t1Error s p status) := by
  unfold State.t1Error
  repeat' first
    | (with_reducible assumption)
    | (intro (x : State); refine_lift have : Keeps z x := ?val; ?main; (case' val => subst x); (case' main => first | clear_value x | subst x))
    | (intro x; subst x)
    | intro _
    | lift_lets
    | (with_reducible apply State.cdRecovery_keeps)
    | (with_reducible apply State.cdSend_keeps)
    | (with_reducible apply State.exEnd_keeps)
    | (with_reducible apply State.modCard_keeps)
    | (with_reducible apply State.sessEndAll_keeps)
    | (with_reducible apply Keeps.ite)
    | (refine Keeps.fst ?_ (by assumption))
    | (with_reducible refine Keeps.upd rfl rfl rfl rfl rfl rfl rfl rfl rfl rfl rfl rfl rfl rfl rfl rfl ?_; first | (with_reducible assumption) | (with_reducible apply State.cdRecovery_keeps) | (with_reducible apply State.cdSend_keeps) | (with_reducible apply State.exEnd_keeps) | (with_reducible apply State.modCard_keeps) | (with_reducible apply State.sessEndAll_keeps) | (with_reducible apply Keeps.ite) | split)

theorem State.t1Answer_keeps (p : Nat) (e : Exch) (hz : Keeps z s) : Keeps z (State.t1Answer s p e) := by
  unfold State.t1Answer
  repeat' first
    | (with_reducible assumption)
    | (intro x; subst x)
    | intro _
    | lift_lets
    | (with_reducible apply State.cdGo_keeps)
    | (with_reducible apply State.exEnd_keeps)
    | (with_reducible apply State.modCard_keeps)
    | (with_reducible apply State.t1Error_keeps)
    | (with_reducible apply Keeps.ite)

theorem State.t1Block__keeps (p pcb : Nat) (inf : List Byte) (hz : Keeps z s) : Keeps z (State.t1Block_ s p pcb inf) := by
  unfold State.t1Block_
  repeat' first
    | (with_reducible assumption)
    | (intro (x : State); refine_lift have : Keeps z x := ?val; ?main; (case' val => subst x); (case' main => first | clear_value x | subst x))
    | (intro x; subst x)
    | intro _
    | lift_lets
    | (with_reducible apply State.cdGo_keeps)
    | (with_reducible apply State.cdRecovery_keeps)
    | (with_reducible apply State.cdSend_keeps)
    | (with_reducible apply State.exEnd_keeps)
    | (with_reducible apply State.modCard_keeps)
    | (with_reducible apply State.put_keeps)
    | (with_reducible apply State.t1Answer_keeps)
    | (with_reducible apply State.t1Error_keeps)
    | (with_reducible apply State.t1Next_keeps)
    | (with_reducible apply Keeps.ite)
    | (refine Keeps.fst ?_ (by assumption))
    | (with_reducible refine Keeps.upd rfl rfl rfl rfl rfl rfl rfl rfl rfl rfl rfl rfl rfl rfl rfl rfl ?_; first | (with_reducible assumption) | (with_reducible apply State.cdGo_keeps) | (with_reducible apply State.cdRecovery_keeps) | (with_reducible apply State.cdSend_keeps) | (with_reducible apply State.exEnd_keeps) | (with_reducible apply State.modCard_keeps) | (with_reducible apply State.put_keeps) | (with_reducible apply State.t1Answer_keeps) | (with_reducible apply State.t1Error_keeps) | (with_reducible apply State.t1Next_keeps) | (with_reducible apply Keeps.ite) | split)

theorem State.ifsMiss_keeps (p n : Nat) (hz : Keeps z s) : Keeps z (State.ifsMiss s p n) := by
  unfold State.ifsMiss
  repeat' first
    | (with_reducible assumption)
    | intro _
    | (with_reducible apply State.cdActive_keeps)
    | (with_reducible apply State.cdGo_keeps)
    | (with_reducible apply State.cdSend_keeps)
    | (with_reducible apply State.modCard_keeps)
    | (with_reducible apply Keeps.ite)

theorem execCardResponseReceived_keeps (p : Fin 2) (chars : List Byte) (parity : Bool) (hz : Keeps z s) : ∃ y, execCardResponseReceived p chars parity s = .next y ∧ Keeps z y := by
  unfold execCardResponseReceived
  refine ⟨_, rfl, ?_⟩
  repeat' first
    | (with_reducible assumption)
    | intro _
    | (with_reducible apply State.cdActive_keeps)
    | (with_reducible apply State.cdGo_keeps)
    | (with_reducible apply State.ifsMiss_keeps)
    | (with_reducible apply State.run_keeps)
    | (with_reducible apply State.t0Char_keeps)
    | (with_reducible apply State.t0Fail_keeps)
    | (with_reducible apply State.t1Block__keeps)
    | (with_reducible apply State.t1Error_keeps)
    | (with_reducible apply Keeps.ite)
    | (with_reducible refine Keeps.foldl ?_ _ (fun _ _ _ => ?_))
    | (refine Keeps.fst ?_ (by assumption))
    | (with_reducible refine Keeps.upd rfl rfl rfl rfl rfl rfl rfl rfl rfl rfl rfl rfl rfl rfl rfl rfl ?_; first | (with_reducible assumption) | (with_reducible apply State.cdActive_keeps) | (with_reducible apply State.cdGo_keeps) | (with_reducible apply State.ifsMiss_keeps) | (with_reducible apply State.run_keeps) | (with_reducible apply State.t0Char_keeps) | (with_reducible apply State.t0Fail_keeps) | (with_reducible apply State.t1Block__keeps) | (with_reducible apply State.t1Error_keeps) | (with_reducible apply Keeps.ite) | split)

theorem execCardWaitTimeout_keeps (p : Fin 2) (hz : Keeps z s) : ∃ y, execCardWaitTimeout p s = .next y ∧ Keeps z y := by
  unfold execCardWaitTimeout
  refine ⟨_, rfl, ?_⟩
  repeat' first
    | (with_reducible assumption)
    | intro _
    | (with_reducible apply State.ifsMiss_keeps)
    | (with_reducible apply State.run_keeps)
    | (with_reducible apply State.t0Fail_keeps)
    | (with_reducible apply State.t1Error_keeps)
    | (with_reducible apply Keeps.ite)
    | (refine Keeps.fst ?_ (by assumption))
    | (with_reducible refine Keeps.upd rfl rfl rfl rfl rfl rfl rfl rfl rfl rfl rfl rfl rfl rfl rfl rfl ?_; first | (with_reducible assumption) | (with_reducible apply State.ifsMiss_keeps) | (with_reducible apply State.run_keeps) | (with_reducible apply State.t0Fail_keeps) | (with_reducible apply State.t1Error_keeps) | (with_reducible apply Keeps.ite) | split)

theorem execCardSupplySettled_keeps (p : Fin 2) (hz : Keeps z s) : ∃ y, execCardSupplySettled p s = .next y ∧ Keeps z y := by
  unfold execCardSupplySettled
  refine ⟨_, rfl, ?_⟩
  repeat' first
    | (with_reducible assumption)
    | intro _
    | (with_reducible apply State.modCard_keeps)
    | (with_reducible apply Keeps.ite)

theorem execCardRstRelease_keeps (p : Fin 2) (hz : Keeps z s) : ∃ y, execCardRstRelease p s = .next y ∧ Keeps z y := by
  unfold execCardRstRelease
  refine ⟨_, rfl, ?_⟩
  repeat' first
    | (with_reducible assumption)
    | intro _
    | (with_reducible apply State.modCard_keeps)
    | (with_reducible apply Keeps.ite)

theorem execCardAtr_keeps (p : Fin 2) (chars : List Byte) (parity gap : Bool) (hz : Keeps z s) : ∃ y, execCardAtr p chars parity gap s = .next y ∧ Keeps z y := by
  unfold execCardAtr
  refine ⟨_, rfl, ?_⟩
  repeat' first
    | (with_reducible assumption)
    | (intro (x : State); refine_lift have : Keeps z x := ?val; ?main; (case' val => subst x); (case' main => first | clear_value x | subst x))
    | (intro x; subst x)
    | intro _
    | lift_lets
    | (with_reducible apply State.atrAccept_keeps)
    | (with_reducible apply State.cdGo_keeps)
    | (with_reducible apply State.classFail_keeps)
    | (with_reducible apply State.modCard_keeps)
    | (with_reducible apply State.put_keeps)
    | (with_reducible apply State.setReg_keeps)
    | (with_reducible apply Keeps.ite)
    | (with_reducible refine Keeps.foldl ?_ _ (fun _ _ _ => ?_))
    | (refine Keeps.fst ?_ (by assumption))
    | (with_reducible refine Keeps.upd rfl rfl rfl rfl rfl rfl rfl rfl rfl rfl rfl rfl rfl rfl rfl rfl ?_; first | (with_reducible assumption) | (with_reducible apply State.atrAccept_keeps) | (with_reducible apply State.cdGo_keeps) | (with_reducible apply State.classFail_keeps) | (with_reducible apply State.modCard_keeps) | (with_reducible apply State.put_keeps) | (with_reducible apply State.setReg_keeps) | (with_reducible apply Keeps.ite) | split)

theorem execCardAtrWindowEnd_keeps (p : Fin 2) (hz : Keeps z s) : ∃ y, execCardAtrWindowEnd p s = .next y ∧ Keeps z y := by
  unfold execCardAtrWindowEnd
  refine ⟨_, rfl, ?_⟩
  repeat' first
    | (with_reducible assumption)
    | intro _
    | (with_reducible apply State.classFail_keeps)
    | (with_reducible apply Keeps.ite)

theorem execCardClassNext_keeps (p : Fin 2) (hz : Keeps z s) : ∃ y, execCardClassNext p s = .next y ∧ Keeps z y := by
  unfold execCardClassNext
  refine ⟨_, rfl, ?_⟩
  repeat' first
    | (with_reducible assumption)
    | intro _
    | (with_reducible apply State.classStart_keeps)
    | (with_reducible apply Keeps.ite)
    | (refine Keeps.fst ?_ (by assumption))
    | (with_reducible refine Keeps.upd rfl rfl rfl rfl rfl rfl rfl rfl rfl rfl rfl rfl rfl rfl rfl rfl ?_; first | (with_reducible assumption) | (with_reducible apply State.classStart_keeps) | (with_reducible apply Keeps.ite) | split)

theorem execCardPpsResponse_keeps (p : Fin 2) (resp : Option (List Byte)) (hz : Keeps z s) : ∃ y, execCardPpsResponse p resp s = .next y ∧ Keeps z y := by
  unfold execCardPpsResponse
  refine ⟨_, rfl, ?_⟩
  repeat' first
    | (with_reducible assumption)
    | (intro (x : State); refine_lift have : Keeps z x := ?val; ?main; (case' val => subst x); (case' main => first | clear_value x | subst x))
    | (intro x; subst x)
    | intro _
    | lift_lets
    | (with_reducible apply State.actFail_keeps)
    | (with_reducible apply State.cdDeactivate_keeps)
    | (with_reducible apply State.cdGo_keeps)
    | (with_reducible apply State.classStart_keeps)
    | (with_reducible apply State.contactsOff_keeps)
    | (with_reducible apply State.log_keeps)
    | (with_reducible apply State.modCard_keeps)
    | (with_reducible apply State.paramsApply_keeps)
    | (with_reducible apply Keeps.ite)

theorem execCardClockStop_keeps (p : Fin 2) (hz : Keeps z s) : ∃ y, execCardClockStop p s = .next y ∧ Keeps z y := by
  unfold execCardClockStop
  refine ⟨_, rfl, ?_⟩
  repeat' first
    | (with_reducible assumption)
    | (intro x; subst x)
    | intro _
    | lift_lets
    | (with_reducible apply State.modCard_keeps)
    | (with_reducible apply State.put_keeps)
    | (with_reducible apply Keeps.ite)

theorem execCardExclExpired_keeps (p : Fin 2) (hz : Keeps z s) : ∃ y, execCardExclExpired p s = .next y ∧ Keeps z y := by
  unfold execCardExclExpired
  refine ⟨_, rfl, ?_⟩
  repeat' first
    | (with_reducible assumption)
    | (intro (x : State); refine_lift have : Keeps z x := ?val; ?main; (case' val => subst x); (case' main => first | clear_value x | subst x))
    | (intro x; subst x)
    | intro _
    | lift_lets
    | (with_reducible apply State.cdGo_keeps)
    | (with_reducible apply State.exclEnd_keeps)
    | (with_reducible apply State.log_keeps)
    | (with_reducible apply Keeps.ite)
    | (with_reducible refine Keeps.upd rfl rfl rfl rfl rfl rfl rfl rfl rfl rfl rfl rfl rfl rfl rfl rfl ?_; first  | (with_reducible assumption))

theorem State.cdCut_keeps (p status : Nat) (hz : Keeps z s) : Keeps z (State.cdCut s p status) := by
  unfold State.cdCut
  repeat' first
    | (with_reducible assumption)
    | (intro (x : State); refine_lift have : Keeps z x := ?val; ?main; (case' val => subst x); (case' main => first | clear_value x | subst x))
    | (intro x; subst x)
    | intro _
    | lift_lets
    | (with_reducible apply State.actDone_keeps)
    | (with_reducible apply State.admDrop_keeps)
    | (with_reducible apply State.authFail_keeps)
    | (with_reducible apply State.done_keeps)
    | (with_reducible apply State.exComplete_keeps)
    | (with_reducible apply State.modCard_keeps)
    | (with_reducible apply State.sessEndAll_keeps)
    | (with_reducible apply Keeps.ite)
    | (with_reducible refine Keeps.foldl ?_ _ (fun _ _ _ => ?_))
    | (refine Keeps.fst ?_ (by assumption))
    | (with_reducible refine Keeps.upd rfl rfl rfl rfl rfl rfl rfl rfl rfl rfl rfl rfl rfl rfl rfl rfl ?_; first | (with_reducible assumption) | (with_reducible apply State.actDone_keeps) | (with_reducible apply State.admDrop_keeps) | (with_reducible apply State.authFail_keeps) | (with_reducible apply State.done_keeps) | (with_reducible apply State.exComplete_keeps) | (with_reducible apply State.modCard_keeps) | (with_reducible apply State.sessEndAll_keeps) | (with_reducible apply Keeps.ite) | split)

theorem State.emergency_keeps (p cause st : Nat) (hz : Keeps z s) : Keeps z (State.emergency s p cause st) := by
  unfold State.emergency
  repeat' first
    | (with_reducible assumption)
    | (intro (x : State); refine_lift have : Keeps z x := ?val; ?main; (case' val => subst x); (case' main => first | clear_value x | subst x))
    | intro _
    | lift_lets
    | (with_reducible apply State.cdInactive_keeps)
    | (with_reducible apply State.log_keeps)
    | (with_reducible apply State.put_keeps)
    | (with_reducible apply Keeps.ite)

theorem State.cdRemove_keeps (p : Nat) (hz : Keeps z s) : Keeps z (State.cdRemove s p) := by
  unfold State.cdRemove
  repeat' first
    | (with_reducible assumption)
    | (intro (x : State); refine_lift have : Keeps z x := ?val; ?main; (case' val => subst x); (case' main => first | clear_value x | subst x))
    | (intro x; subst x)
    | intro _
    | lift_lets
    | (with_reducible apply State.attemptEnd_keeps)
    | (with_reducible apply State.authClose_keeps)
    | (with_reducible apply State.cdCut_keeps)
    | (with_reducible apply State.complete_keeps)
    | (with_reducible apply State.emergency_keeps)
    | (with_reducible apply State.log_keeps)
    | (with_reducible apply State.modCard_keeps)
    | (with_reducible apply State.put_keeps)
    | (with_reducible apply State.setReg_keeps)
    | (with_reducible apply Keeps.ite)
    | (with_reducible refine Keeps.foldl ?_ _ (fun _ _ _ => ?_))
    | (refine Keeps.fst ?_ (by assumption))
    | (with_reducible refine Keeps.upd rfl rfl rfl rfl rfl rfl rfl rfl rfl rfl rfl rfl rfl rfl rfl rfl ?_; first | (with_reducible assumption) | (with_reducible apply State.attemptEnd_keeps) | (with_reducible apply State.authClose_keeps) | (with_reducible apply State.cdCut_keeps) | (with_reducible apply State.complete_keeps) | (with_reducible apply State.emergency_keeps) | (with_reducible apply State.log_keeps) | (with_reducible apply State.modCard_keeps) | (with_reducible apply State.put_keeps) | (with_reducible apply State.setReg_keeps) | (with_reducible apply Keeps.ite) | split)

theorem execCardInsert_keeps (p : Fin 2) (hz : Keeps z s) : ∃ y, execCardInsert p s = .next y ∧ Keeps z y := by
  unfold execCardInsert
  refine ⟨_, rfl, ?_⟩
  repeat' first
    | (with_reducible assumption)
    | (intro (x : State); refine_lift have : Keeps z x := ?val; ?main; (case' val => subst x); (case' main => first | clear_value x | subst x))
    | (intro x; subst x)
    | intro _
    | lift_lets
    | (with_reducible apply State.autoAct_keeps)
    | (with_reducible apply State.log_keeps)
    | (with_reducible apply State.put_keeps)
    | (with_reducible apply Keeps.ite)
    | split

theorem execCardEmergency_keeps (p : Fin 2) (hz : Keeps z s) : ∃ y, execCardEmergency p s = .next y ∧ Keeps z y := by
  unfold execCardEmergency
  refine ⟨_, rfl, ?_⟩
  repeat' first
    | (with_reducible assumption)
    | intro _
    | (with_reducible apply State.cdRemove_keeps)
    | (with_reducible apply Keeps.ite)

theorem execCardSupplyFault_keeps (p : Fin 2) (short : Bool) (hz : Keeps z s) : ∃ y, execCardSupplyFault p short s = .next y ∧ Keeps z y := by
  unfold execCardSupplyFault
  refine ⟨_, rfl, ?_⟩
  repeat' first
    | (with_reducible assumption)
    | (intro x; subst x)
    | intro _
    | lift_lets
    | (with_reducible apply State.cdCut_keeps)
    | (with_reducible apply State.emergency_keeps)
    | (with_reducible apply Keeps.ite)

theorem State.cardTick_keeps (p : Nat) (hz : Keeps z s) : Keeps z (State.cardTick s p) := by
  unfold State.cardTick
  repeat' first
    | (with_reducible assumption)
    | (intro (x : State); refine_lift have : Keeps z x := ?val; ?main; (case' val => subst x); (case' main => first | clear_value x | subst x))
    | (intro x; subst x)
    | intro _
    | lift_lets
    | (with_reducible apply State.actStart_keeps)
    | (with_reducible apply State.admDrop_keeps)
    | (with_reducible apply State.cdGo_keeps)
    | (with_reducible apply State.done_keeps)
    | (with_reducible apply State.modCard_keeps)
    | (with_reducible apply State.put_keeps)
    | (with_reducible apply Keeps.ite)
    | (with_reducible refine Keeps.foldl ?_ _ (fun _ _ _ => ?_))
    | (with_reducible refine Keeps.foldlPair ?_ _ (fun _ _ _ => ?_))
    | (refine Keeps.fst ?_ (by assumption))
    | split

theorem State.cardRefused_keeps (p : Nat) (hz : Keeps z s) : Keeps z (State.cardRefused s p) := by
  unfold State.cardRefused
  repeat' first
    | (with_reducible assumption)
    | intro _
    | (with_reducible apply State.actDone_keeps)
    | (with_reducible apply State.put_keeps)

theorem State.cardOwnerReset_keeps (w : Who) (hz : Keeps z s) : Keeps z (State.cardOwnerReset s w) := by
  unfold State.cardOwnerReset
  repeat' first
    | (with_reducible assumption)
    | (intro (x : State); refine_lift have : Keeps z x := ?val; ?main; (case' val => subst x); (case' main => first | clear_value x | subst x))
    | (intro x; subst x)
    | intro _
    | lift_lets
    | (with_reducible apply State.cdGo_keeps)
    | (with_reducible apply State.modCard_keeps)
    | (with_reducible apply State.sessDrop_keeps)
    | (with_reducible apply Keeps.ite)
    | (with_reducible refine Keeps.foldl ?_ _ (fun _ _ _ => ?_))

theorem State.cardDown_keeps (p : Nat) (hz : Keeps z s) : Keeps z (State.cardDown s p) := by
  unfold State.cardDown
  repeat' first
    | (with_reducible assumption)
    | (intro (x : State); refine_lift have : Keeps z x := ?val; ?main; (case' val => subst x); (case' main => first | clear_value x | subst x))
    | intro _
    | lift_lets
    | (with_reducible apply State.actDone_keeps)
    | (with_reducible apply State.admDrop_keeps)
    | (with_reducible apply State.cdDeactivate_keeps)
    | (with_reducible apply Keeps.ite)

theorem State.cardDeadline_keeps (p : Nat) (hz : Keeps z s) : Keeps z (State.cardDeadline s p) := by
  unfold State.cardDeadline
  repeat' first
    | (with_reducible assumption)
    | intro _
    | (with_reducible apply State.cardDown_keeps)
    | (with_reducible apply State.cdCut_keeps)
    | (with_reducible apply State.emergency_keeps)
    | (with_reducible apply Keeps.ite)
    | split

theorem State.cardCoreStop_keeps (p : Nat) (hz : Keeps z s) : Keeps z (State.cardCoreStop s p) := by
  unfold State.cardCoreStop
  repeat' first
    | (with_reducible assumption)
    | (intro (x : State); refine_lift have : Keeps z x := ?val; ?main; (case' val => subst x); (case' main => first | clear_value x | subst x))
    | (intro x; subst x)
    | intro _
    | lift_lets
    | (with_reducible apply State.admDrop_keeps)
    | (with_reducible apply State.emergency_keeps)
    | (with_reducible apply State.exclEnd_keeps)
    | (with_reducible apply State.modCard_keeps)
    | (with_reducible apply State.sessShow_keeps)
    | (with_reducible apply State.setReg_keeps)
    | (with_reducible apply Keeps.ite)
    | (with_reducible refine Keeps.foldl ?_ _ (fun _ _ _ => ?_))
    | (with_reducible refine Keeps.upd rfl rfl rfl rfl rfl rfl rfl rfl rfl rfl rfl rfl rfl rfl rfl rfl ?_; first  | (with_reducible assumption))

end Sys2Proof.Machine
end

