-- ==== Sys2Proof/Laws/KeepsChrysalis.lean ====
section
/-!
SUPPORT. Every operation of Machine/Chrysalis.lean keeps (Laws/Keeps.lean).
-/

namespace Sys2Proof.Machine

variable {z s : State}

set_option maxRecDepth 8000

theorem State.stageShow_keeps (w : Who) (hz : Keeps z s) : Keeps z (State.stageShow s w) := by
  unfold State.stageShow
  repeat' first
    | (with_reducible assumption)
    | (intro (x : State); refine_lift have : Keeps z x := ?val; ?main; (case' val => subst x); (case' main => first | clear_value x | subst x))
    | (intro x; subst x)
    | intro _
    | lift_lets
    | (with_reducible apply State.putB_keeps)
    | (with_reducible apply State.put_keeps)
    | (with_reducible apply State.setReg_keeps)
    | (with_reducible apply Keeps.ite)
    | (refine Keeps.fst ?_ (by assumption))
    | (with_reducible refine Keeps.upd rfl rfl rfl rfl rfl rfl rfl rfl rfl rfl rfl rfl rfl rfl rfl rfl ?_; first | (with_reducible assumption) | (with_reducible apply State.putB_keeps) | (with_reducible apply State.put_keeps) | (with_reducible apply State.setReg_keeps) | (with_reducible apply Keeps.ite) | split)

theorem State.setStage_keeps (w : Who) (x : Stage) (hz : Keeps z s) : Keeps z (State.setStage s w x) := by
  unfold State.setStage
  repeat' first
    | (with_reducible assumption)
    | (intro x; subst x)
    | intro _
    | lift_lets
    | (with_reducible apply State.stageShow_keeps)
    | (refine Keeps.fst ?_ (by assumption))
    | (with_reducible refine Keeps.upd rfl rfl rfl rfl rfl rfl rfl rfl rfl rfl rfl rfl rfl rfl rfl rfl ?_; first  | (with_reducible assumption))

theorem State.stageClear_keeps (w : Who) (hz : Keeps z s) : Keeps z (State.stageClear s w) := by
  unfold State.stageClear
  repeat' first
    | (with_reducible assumption)
    | intro _
    | (with_reducible apply State.setStage_keeps)

theorem State.stageDeny_keeps (o : Origin) (off : Nat) (m : Word) (hz : Keeps z s) : Keeps z (State.stageDeny s o off m) := by
  unfold State.stageDeny
  repeat' first
    | (with_reducible assumption)
    | intro _
    | (with_reducible apply State.count_keeps)
    | (with_reducible apply State.log_keeps)

theorem State.stageWrite_keeps (o : Origin) (w : Who) (off : Nat) (m v : Word) (hz : Keeps z s) : Keeps z (State.stageWrite s o w off m v).1 := by
  unfold State.stageWrite
  repeat' first
    | (with_reducible assumption)
    | (intro x; subst x)
    | intro _
    | lift_lets
    | (with_reducible apply State.count_keeps)
    | (with_reducible apply State.setStage_keeps)
    | (with_reducible apply State.stageDeny_keeps)
    | (with_reducible apply Keeps.ite)
    | (refine Keeps.fst ?_ (by assumption))
    | (with_reducible refine Keeps.upd rfl rfl rfl rfl rfl rfl rfl rfl rfl rfl rfl rfl rfl rfl rfl rfl ?_; first | (with_reducible assumption) | (with_reducible apply State.count_keeps) | (with_reducible apply State.setStage_keeps) | (with_reducible apply State.stageDeny_keeps) | (with_reducible apply Keeps.ite) | split)

theorem execStagedRegisterWrite_keeps (o : Origin) (off : Nat) (v : Word) (hz : Keeps z s) : ∃ y, execStagedRegisterWrite o off v s = .next y ∧ Keeps z y := by
  unfold execStagedRegisterWrite
  refine ⟨_, rfl, ?_⟩
  repeat' first
    | (with_reducible assumption)
    | (intro x; subst x)
    | intro _
    | lift_lets
    | (with_reducible apply State.stageWrite_keeps)
    | (with_reducible apply Keeps.ite)

theorem State.checkShow_keeps (w : Who) (v : Option (Nat × Nat)) (hz : Keeps z s) : Keeps z (State.checkShow s w v) := by
  unfold State.checkShow
  repeat' first
    | (with_reducible assumption)
    | (intro x; subst x)
    | intro _
    | lift_lets
    | (with_reducible apply State.put_keeps)
    | (with_reducible apply State.setReg_keeps)
    | (refine Keeps.fst ?_ (by assumption))
    | (with_reducible refine Keeps.upd rfl rfl rfl rfl rfl rfl rfl rfl rfl rfl rfl rfl rfl rfl rfl rfl ?_; first | (with_reducible assumption) | (with_reducible apply State.put_keeps) | (with_reducible apply State.setReg_keeps) | split)

theorem execChrCtlCheck_keeps (who : Sender) (hz : Keeps z s) : ∃ y, execChrCtlCheck who s = .next y ∧ Keeps z y := by
  unfold execChrCtlCheck
  refine ⟨_, rfl, ?_⟩
  repeat' first
    | (with_reducible assumption)
    | intro _
    | (with_reducible apply State.checkShow_keeps)
    | (with_reducible apply Keeps.ite)
    | split

theorem State.discardStage_keeps (w : Who) (hz : Keeps z s) : Keeps z (State.discardStage s w).1 := by
  unfold State.discardStage
  repeat' first
    | (with_reducible assumption)
    | intro _
    | (with_reducible apply State.stageClear_keeps)
    | (with_reducible apply Keeps.ite)
    | split

theorem execChrCtlDiscard_keeps (who : Sender) (hz : Keeps z s) : ∃ y, execChrCtlDiscard who s = .next y ∧ Keeps z y := by
  unfold execChrCtlDiscard
  refine ⟨_, rfl, ?_⟩
  repeat' first
    | (with_reducible assumption)
    | intro _
    | (with_reducible apply State.discardStage_keeps)
    | (with_reducible apply Keeps.ite)
    | split

theorem State.commitAsk_keeps (c : Commit) (hz : Keeps z s) : Keeps z (State.commitAsk s c) := by
  unfold State.commitAsk
  repeat' first
    | (with_reducible assumption)
    | intro _
    | (with_reducible refine Keeps.upd rfl rfl rfl rfl rfl rfl rfl rfl rfl rfl rfl rfl rfl rfl rfl rfl ?_; first | (with_reducible assumption))

theorem execChrCtlCommit_keeps (who : Sender) (hz : Keeps z s) : ∃ y, execChrCtlCommit who s = .next y ∧ Keeps z y := by
  unfold execChrCtlCommit
  refine ⟨_, rfl, ?_⟩
  repeat' first
    | (with_reducible assumption)
    | intro _
    | (with_reducible apply State.commitAsk_keeps)
    | (with_reducible apply State.put_keeps)
    | (with_reducible apply Keeps.ite)
    | split

theorem State.commitRefuse_keeps (c : Commit) (status : Nat) (r : Nat × Nat) (hz : Keeps z s) : Keeps z (State.commitRefuse s c status r) := by
  unfold State.commitRefuse
  repeat' first
    | (with_reducible assumption)
    | intro _
    | (with_reducible apply State.complete_keeps)
    | (with_reducible apply State.put_keeps)
    | (refine Keeps.fst ?_ (by assumption))
    | split

theorem execCommitTake_keeps (hz : Keeps z s) : ∃ y, execCommitTake s = .next y ∧ Keeps z y := by
  unfold execCommitTake
  refine ⟨_, rfl, ?_⟩
  repeat' first
    | (with_reducible assumption)
    | (intro (x : State); refine_lift have : Keeps z x := ?val; ?main; (case' val => subst x); (case' main => first | clear_value x | subst x))
    | (intro x; subst x)
    | intro _
    | lift_lets
    | (with_reducible apply State.commitRefuse_keeps)
    | (with_reducible apply Keeps.ite)
    | (refine Keeps.fst ?_ (by assumption))
    | (with_reducible refine Keeps.upd rfl rfl rfl rfl rfl rfl rfl rfl rfl rfl rfl rfl rfl rfl rfl rfl ?_; first | (with_reducible assumption) | (with_reducible apply State.commitRefuse_keeps) | (with_reducible apply Keeps.ite) | split)

end Sys2Proof.Machine
end

