-- ==== Sys2Proof/Laws/KeepsLamps.lean ====
section
/-!
SUPPORT. Every operation of Machine/Lamps.lean keeps (Laws/Keeps.lean).
-/

namespace Sys2Proof.Machine

variable {z s : State}

set_option maxRecDepth 8000

theorem State.modLamp_keeps (n : Nat) (f : Lamp → Lamp) (hz : Keeps z s) : Keeps z (State.modLamp s n f) :=
  hz.same (by simp [State.kept, State.units, State.modLamp, modAt])

theorem State.lampUnver_keeps (c : Nat) (hz : Keeps z s) : Keeps z (State.lampUnver s c) := by
  unfold State.lampUnver
  repeat' first
    | (with_reducible assumption)
    | intro _
    | (with_reducible apply State.modLamp_keeps)
    | (with_reducible apply State.put_keeps)

theorem State.lampOff_keeps (c : Nat) (hz : Keeps z s) : Keeps z (State.lampOff s c) := by
  unfold State.lampOff
  repeat' first
    | (with_reducible assumption)
    | intro _
    | (with_reducible apply State.modLamp_keeps)
    | (with_reducible apply State.put_keeps)

theorem State.lampPeriod_keeps (c : Nat) (hz : Keeps z s) : Keeps z (State.lampPeriod s c) := by
  unfold State.lampPeriod
  repeat' first
    | (with_reducible assumption)
    | (intro (x : State); refine_lift have : Keeps z x := ?val; ?main; (case' val => subst x); (case' main => first | clear_value x | subst x))
    | (intro x; subst x)
    | intro _
    | lift_lets
    | (with_reducible apply State.lampOff_keeps)
    | (with_reducible apply State.lampUnver_keeps)
    | (with_reducible apply State.modLamp_keeps)
    | (with_reducible apply State.putB_keeps)
    | (with_reducible apply Keeps.ite)
    | (refine Keeps.fst ?_ (by assumption))
    | split

theorem execLampPeriodStart_keeps (hz : Keeps z s) : ∃ y, execLampPeriodStart s = .next y ∧ Keeps z y := by
  unfold execLampPeriodStart
  refine ⟨_, rfl, ?_⟩
  repeat' first
    | (with_reducible assumption)
    | intro _
    | (with_reducible apply State.lampPeriod_keeps)
    | (with_reducible apply Keeps.ite)
    | (with_reducible refine Keeps.foldl ?_ _ (fun _ _ _ => ?_))

theorem execLampDiagSample_keeps (c : Fin 8) (ua mv : Nat) (hz : Keeps z s) : ∃ y, execLampDiagSample c ua mv s = .next y ∧ Keeps z y := by
  unfold execLampDiagSample
  refine ⟨_, rfl, ?_⟩
  repeat' first
    | (with_reducible assumption)
    | (intro (x : State); refine_lift have : Keeps z x := ?val; ?main; (case' val => subst x); (case' main => first | clear_value x | subst x))
    | (intro x; subst x)
    | intro _
    | lift_lets
    | (with_reducible apply State.log_keeps)
    | (with_reducible apply State.modLamp_keeps)
    | (with_reducible apply State.put_keeps)
    | (with_reducible apply State.run_keeps)
    | (with_reducible apply Keeps.ite)
    | (refine Keeps.fst ?_ (by assumption))
    | (with_reducible refine Keeps.upd rfl rfl rfl rfl rfl rfl rfl rfl rfl rfl rfl rfl rfl rfl rfl rfl ?_; first | (with_reducible assumption) | (with_reducible apply State.log_keeps) | (with_reducible apply State.modLamp_keeps) | (with_reducible apply State.put_keeps) | (with_reducible apply State.run_keeps) | (with_reducible apply Keeps.ite) | split)

theorem execLampDiagStale_keeps (c : Fin 8) (hz : Keeps z s) : ∃ y, execLampDiagStale c s = .next y ∧ Keeps z y := by
  unfold execLampDiagStale
  refine ⟨_, rfl, ?_⟩
  repeat' first
    | (with_reducible assumption)
    | (intro x; subst x)
    | intro _
    | lift_lets
    | (with_reducible apply State.lampUnver_keeps)
    | (with_reducible apply Keeps.ite)

theorem execLampClr_keeps (c : Fin 8) (hz : Keeps z s) : ∃ y, execLampClr c s = .next y ∧ Keeps z y := by
  unfold execLampClr
  refine ⟨_, rfl, ?_⟩
  repeat' first
    | (with_reducible assumption)
    | intro _
    | (with_reducible apply State.modLamp_keeps)
    | (with_reducible apply State.put_keeps)

theorem State.lampStore_keeps (c level pat : Nat) (hz : Keeps z s) : Keeps z (State.lampStore s c level pat) := by
  unfold State.lampStore
  repeat' first
    | (with_reducible assumption)
    | intro _
    | (with_reducible apply State.put_keeps)

theorem State.lampClear_keeps (c : Nat) (hz : Keeps z s) : Keeps z (State.lampClear s c) := by
  unfold State.lampClear
  repeat' first
    | (with_reducible assumption)
    | (intro (x : State); refine_lift have : Keeps z x := ?val; ?main; (case' val => subst x); (case' main => first | clear_value x | subst x))
    | intro _
    | lift_lets
    | (with_reducible apply State.admDrop_keeps)
    | (with_reducible apply State.lampStore_keeps)
    | (with_reducible apply State.modLamp_keeps)
    | (with_reducible apply Keeps.ite)

theorem State.lampService_keeps (c : Nat) (hz : Keeps z s) : Keeps z (State.lampService s c) := by
  unfold State.lampService
  repeat' first
    | (with_reducible assumption)
    | (intro (x : State); refine_lift have : Keeps z x := ?val; ?main; (case' val => subst x); (case' main => first | clear_value x | subst x))
    | (intro x; subst x)
    | intro _
    | lift_lets
    | (with_reducible apply State.admDrop_keeps)
    | (with_reducible apply State.modLamp_keeps)
    | (with_reducible apply State.present_keeps)
    | (with_reducible apply Keeps.ite)
    | (refine Keeps.fst ?_ (by assumption))
    | (with_reducible refine Keeps.upd rfl rfl rfl rfl rfl rfl rfl rfl rfl rfl rfl rfl rfl rfl rfl rfl ?_; first | (with_reducible assumption) | (with_reducible apply State.admDrop_keeps) | (with_reducible apply State.modLamp_keeps) | (with_reducible apply State.present_keeps) | (with_reducible apply Keeps.ite) | split)

theorem State.lampAdmitted_keeps (c : Nat) (hz : Keeps z s) : Keeps z (State.lampAdmitted s c) := by
  unfold State.lampAdmitted
  repeat' first
    | (with_reducible assumption)
    | (intro (x : State); refine_lift have : Keeps z x := ?val; ?main; (case' val => subst x); (case' main => first | clear_value x | subst x))
    | (intro x; subst x)
    | intro _
    | lift_lets
    | (with_reducible apply State.admDrop_keeps)
    | (with_reducible apply State.complete_keeps)
    | (with_reducible apply State.lampStore_keeps)
    | (with_reducible apply State.modLamp_keeps)
    | (with_reducible apply Keeps.ite)
    | (refine Keeps.fst ?_ (by assumption))
    | (with_reducible refine Keeps.upd rfl rfl rfl rfl rfl rfl rfl rfl rfl rfl rfl rfl rfl rfl rfl rfl ?_; first | (with_reducible assumption) | (with_reducible apply State.admDrop_keeps) | (with_reducible apply State.complete_keeps) | (with_reducible apply State.lampStore_keeps) | (with_reducible apply State.modLamp_keeps) | (with_reducible apply Keeps.ite) | split)

theorem State.lampRefused_keeps (c : Nat) (hz : Keeps z s) : Keeps z (State.lampRefused s c) := by
  unfold State.lampRefused
  repeat' first
    | (with_reducible assumption)
    | (intro (x : State); refine_lift have : Keeps z x := ?val; ?main; (case' val => subst x); (case' main => first | clear_value x | subst x))
    | (intro x; subst x)
    | intro _
    | lift_lets
    | (with_reducible apply State.complete_keeps)
    | (with_reducible apply State.modLamp_keeps)
    | (with_reducible apply State.put_keeps)
    | (with_reducible apply Keeps.ite)
    | (refine Keeps.fst ?_ (by assumption))
    | (with_reducible refine Keeps.upd rfl rfl rfl rfl rfl rfl rfl rfl rfl rfl rfl rfl rfl rfl rfl rfl ?_; first | (with_reducible assumption) | (with_reducible apply State.complete_keeps) | (with_reducible apply State.modLamp_keeps) | (with_reducible apply State.put_keeps) | (with_reducible apply Keeps.ite) | split)

end Sys2Proof.Machine
end

