-- ==== Sys2Proof/Laws/KeepsRings.lean ====
section
/-!
SUPPORT. Every operation of Machine/Rings.lean keeps (Laws/Keeps.lean).
-/

namespace Sys2Proof.Machine

variable {z s : State}

set_option maxRecDepth 8000

theorem State.cmdResidue_keeps (c : Cmd) (hz : Keeps z s) : Keeps z (State.cmdResidue s c).1 := by
  unfold State.cmdResidue
  repeat' first
    | (with_reducible assumption)
    | intro _
    | (refine Keeps.fst ?_ (by assumption))
    | (with_reducible refine Keeps.upd rfl rfl rfl rfl rfl rfl rfl rfl rfl rfl rfl rfl rfl rfl rfl rfl ?_; first | (with_reducible assumption) | split)
    | split
    | (refine Keeps.updF rfl rfl rfl rfl rfl rfl rfl rfl rfl rfl rfl rfl rfl rfl rfl rfl ?_; first | (with_reducible assumption) | split)

theorem State.fetchOne_keeps (r : RingId) (e : SqEntry) (hz : Keeps z s) : Keeps z (State.fetchOne s r e) := by
  unfold State.fetchOne
  repeat' first
    | (with_reducible assumption)
    | (intro (x : State); refine_lift have : Keeps z x := ?val; ?main; (case' val => subst x); (case' main => first | clear_value x | subst x))
    | (intro x; subst x)
    | intro _
    | lift_lets
    | (with_reducible apply State.complete_keeps)
    | (with_reducible apply State.put_keeps)
    | (with_reducible apply Keeps.ite)
    | (refine Keeps.fst ?_ (by assumption))
    | (with_reducible refine Keeps.upd rfl rfl rfl rfl rfl rfl rfl rfl rfl rfl rfl rfl rfl rfl rfl rfl ?_; first | (with_reducible assumption) | (with_reducible apply State.complete_keeps) | (with_reducible apply State.put_keeps) | (with_reducible apply Keeps.ite) | split)
    | split

theorem State.ringRead_keeps (r : RingId) (hz : Keeps z s) : Keeps z (State.ringRead s r) := by
  unfold State.ringRead
  repeat' first
    | (with_reducible assumption)
    | (intro (x : State); refine_lift have : Keeps z x := ?val; ?main; (case' val => subst x); (case' main => first | clear_value x | subst x))
    | (intro x; subst x)
    | intro _
    | lift_lets
    | (with_reducible apply State.hostRd_keeps)

theorem execEntryFetch_keeps (bytes : List Byte) (hz : Keeps z s) : ∃ y, execEntryFetch bytes s = .next y ∧ Keeps z y := by
  unfold execEntryFetch
  refine ⟨_, rfl, ?_⟩
  repeat' first
    | (with_reducible assumption)
    | (intro (x : State); refine_lift have : Keeps z x := ?val; ?main; (case' val => subst x); (case' main => first | clear_value x | subst x))
    | (intro x; subst x)
    | intro _
    | lift_lets
    | (with_reducible apply State.fetchOne_keeps)
    | (with_reducible apply State.ringRead_keeps)
    | (with_reducible refine Keeps.foldl ?_ _ (fun _ _ _ => ?_))
    | (with_reducible refine Keeps.foldlPair ?_ _ (fun _ _ _ => ?_))
    | (refine Keeps.fst ?_ (by assumption))
    | split

theorem execFetchBusError_keeps (hz : Keeps z s) : ∃ y, execFetchBusError s = .next y ∧ Keeps z y := by
  unfold execFetchBusError
  refine ⟨_, rfl, ?_⟩
  repeat' first
    | (with_reducible assumption)
    | intro _
    | (with_reducible apply State.put_keeps)
    | (with_reducible apply State.ringRead_keeps)
    | (refine Keeps.fst ?_ (by assumption))
    | split

theorem State.mbxShow_keeps (hz : Keeps z s) : Keeps z (State.mbxShow s) := by
  unfold State.mbxShow
  repeat' first
    | (with_reducible assumption)
    | intro _
    | (with_reducible apply State.put_keeps)

theorem State.begin_keeps (t : Tag) (op : Nat) (hz : Keeps z s) : Keeps z (State.begin s t op) := by
  unfold State.begin
  repeat' first
    | (with_reducible assumption)
    | (intro (x : State); refine_lift have : Keeps z x := ?val; ?main; (case' val => subst x); (case' main => first | clear_value x | subst x))
    | (intro x; subst x)
    | intro _
    | lift_lets
    | (with_reducible apply State.mbxShow_keeps)
    | (with_reducible apply State.modCmd_keeps)
    | (with_reducible apply Keeps.ite)
    | (with_reducible refine Keeps.upd rfl rfl rfl rfl rfl rfl rfl rfl rfl rfl rfl rfl rfl rfl rfl rfl ?_; first | (with_reducible assumption) | (with_reducible apply State.mbxShow_keeps) | (with_reducible apply State.modCmd_keeps) | (with_reducible apply Keeps.ite) | split)
    | split

theorem State.mbxRefused_keeps (status : Option Nat) (hz : Keeps z s) : Keeps z (State.mbxRefused s status) := by
  unfold State.mbxRefused
  repeat' first
    | (with_reducible assumption)
    | (intro (x : State); refine_lift have : Keeps z x := ?val; ?main; (case' val => subst x); (case' main => first | clear_value x | subst x))
    | intro _
    | lift_lets
    | (with_reducible apply State.count_keeps)
    | (with_reducible apply State.put_keeps)
    | (refine Keeps.fst ?_ (by assumption))
    | (with_reducible refine Keeps.upd rfl rfl rfl rfl rfl rfl rfl rfl rfl rfl rfl rfl rfl rfl rfl rfl ?_; first | (with_reducible assumption) | (with_reducible apply State.count_keeps) | (with_reducible apply State.put_keeps) | split)

theorem State.mbxRefuse_keeps (o : Origin) (status : Nat) (hz : Keeps z s) : Keeps z (State.mbxRefuse s o status) := by
  unfold State.mbxRefuse
  repeat' first
    | (with_reducible assumption)
    | intro _
    | (with_reducible apply State.log_keeps)
    | (with_reducible apply State.mbxRefused_keeps)

theorem State.stageDenied_keeps (o : Origin) (w : Who) (e : SqEntry) (hz : Keeps z s) : Keeps z (State.stageDenied s o w e) := by
  unfold State.stageDenied
  repeat' first
    | (with_reducible assumption)
    | (intro (x : State); refine_lift have : Keeps z x := ?val; ?main; (case' val => subst x); (case' main => first | clear_value x | subst x))
    | (intro x; subst x)
    | intro _
    | lift_lets
    | (with_reducible apply State.stageDeny_keeps)
    | (with_reducible apply Keeps.ite)
    | (refine Keeps.fst ?_ (by assumption))
    | split

theorem State.refuseNote_keeps (c : Cmd) (e : SqEntry) (status : Nat) (hz : Keeps z s) : Keeps z (State.refuseNote s c e status) := by
  unfold State.refuseNote
  repeat' first
    | (with_reducible assumption)
    | (intro (x : State); refine_lift have : Keeps z x := ?val; ?main; (case' val => subst x); (case' main => first | clear_value x | subst x))
    | (intro x; subst x)
    | intro _
    | lift_lets
    | (with_reducible apply State.mbxRefuse_keeps)
    | (with_reducible apply State.stageDenied_keeps)
    | (with_reducible apply Keeps.ite)
    | split

theorem State.refuseCmd_keeps (c : Cmd) (status : Nat) (hz : Keeps z s) : Keeps z (State.refuseCmd s c status) := by
  unfold State.refuseCmd
  repeat' first
    | (with_reducible assumption)
    | (intro (x : State); refine_lift have : Keeps z x := ?val; ?main; (case' val => subst x); (case' main => first | clear_value x | subst x))
    | (intro x; subst x)
    | intro _
    | lift_lets
    | (with_reducible apply State.complete_keeps)
    | (with_reducible apply State.mbxShow_keeps)
    | (with_reducible apply State.refuseNote_keeps)
    | (with_reducible apply Keeps.ite)
    | split

theorem State.run_keeps (t : Tag) (op : Nat) (f : State → Cmd → State) (Hf : ∀ y0 y1, Keeps z y0 → Keeps z (f y0 y1)) (hz : Keeps z s) : Keeps z (State.run s t op f) := by
  unfold State.run
  repeat' first
    | (with_reducible assumption)
    | intro _
    | (with_reducible apply Hf)
    | (with_reducible apply State.begin_keeps)
    | (with_reducible apply State.mbxShow_keeps)
    | (with_reducible apply State.refuseCmd_keeps)
    | (with_reducible apply Keeps.ite)
    | (refine Keeps.fst ?_ (by assumption))
    | split

theorem State.runLong_keeps (t : Tag) (op : Nat) (f : State → Cmd → Bool → State) (Hf : ∀ y0 y1 y2, Keeps z y0 → Keeps z (f y0 y1 y2)) (hz : Keeps z s) : Keeps z (State.runLong s t op f) := by
  unfold State.runLong
  repeat' first
    | (with_reducible assumption)
    | intro _
    | (with_reducible apply Hf)
    | (with_reducible apply State.mbxShow_keeps)
    | (with_reducible apply State.run_keeps)
    | (with_reducible apply Keeps.ite)
    | (refine Keeps.fst ?_ (by assumption))
    | split

theorem State.badDoorbell_keeps (r : RingId) (off : Nat) (hz : Keeps z s) : Keeps z (State.badDoorbell s r off) := by
  unfold State.badDoorbell
  repeat' first
    | (with_reducible assumption)
    | (intro x; subst x)
    | intro _
    | lift_lets
    | (with_reducible apply State.badAccess_keeps)
    | (with_reducible apply State.put_keeps)

theorem execSqDoorbell_keeps (r : RingId) (v : Word) (hz : Keeps z s) : ∃ y, execSqDoorbell r v s = .next y ∧ Keeps z y := by
  unfold execSqDoorbell
  refine ⟨_, rfl, ?_⟩
  repeat' first
    | (with_reducible assumption)
    | (intro (x : State); refine_lift have : Keeps z x := ?val; ?main; (case' val => subst x); (case' main => first | clear_value x | subst x))
    | (intro x; subst x)
    | intro _
    | lift_lets
    | (with_reducible apply State.badDoorbell_keeps)
    | (with_reducible apply State.modRing_keeps)
    | (with_reducible apply Keeps.ite)
    | split

theorem execCqDoorbell_keeps (r : RingId) (v : Word) (hz : Keeps z s) : ∃ y, execCqDoorbell r v s = .next y ∧ Keeps z y := by
  unfold execCqDoorbell
  refine ⟨_, rfl, ?_⟩
  repeat' first
    | (with_reducible assumption)
    | (intro (x : State); refine_lift have : Keeps z x := ?val; ?main; (case' val => subst x); (case' main => first | clear_value x | subst x))
    | (intro x; subst x)
    | intro _
    | lift_lets
    | (with_reducible apply State.badDoorbell_keeps)
    | (with_reducible apply State.modRing_keeps)
    | (with_reducible apply Keeps.ite)
    | split

theorem State.ringStart_keeps (r : RingId) (hz : Keeps z s) : Keeps z (State.ringStart s r) := by
  unfold State.ringStart
  repeat' first
    | (with_reducible assumption)
    | (intro (x : State); refine_lift have : Keeps z x := ?val; ?main; (case' val => subst x); (case' main => first | clear_value x | subst x))
    | (intro x; subst x)
    | intro _
    | lift_lets
    | (with_reducible apply State.modRing_keeps)
    | (with_reducible apply State.put_keeps)

theorem execRingEnable_keeps (r : RingId) (hz : Keeps z s) : ∃ y, execRingEnable r s = .next y ∧ Keeps z y := by
  unfold execRingEnable
  refine ⟨_, rfl, ?_⟩
  repeat' first
    | (with_reducible assumption)
    | (intro (x : State); refine_lift have : Keeps z x := ?val; ?main; (case' val => subst x); (case' main => first | clear_value x | subst x))
    | (intro x; subst x)
    | intro _
    | lift_lets
    | (with_reducible apply State.modRing_keeps)
    | (with_reducible apply State.put_keeps)
    | (with_reducible apply State.ringStart_keeps)
    | (with_reducible apply Keeps.ite)
    | split

theorem execRingDisable_keeps (r : RingId) (hz : Keeps z s) : ∃ y, execRingDisable r s = .next y ∧ Keeps z y := by
  unfold execRingDisable
  refine ⟨_, rfl, ?_⟩
  repeat' first
    | (with_reducible assumption)
    | (intro (x : State); refine_lift have : Keeps z x := ?val; ?main; (case' val => subst x); (case' main => first | clear_value x | subst x))
    | (intro x; subst x)
    | intro _
    | lift_lets
    | (with_reducible apply State.modRing_keeps)
    | (with_reducible apply State.put_keeps)
    | (with_reducible apply Keeps.ite)
    | split

theorem execRingDrained_keeps (r : RingId) (hz : Keeps z s) : ∃ y, execRingDrained r s = .next y ∧ Keeps z y := by
  unfold execRingDrained
  refine ⟨_, rfl, ?_⟩
  repeat' first
    | (with_reducible assumption)
    | (intro (x : State); refine_lift have : Keeps z x := ?val; ?main; (case' val => subst x); (case' main => first | clear_value x | subst x))
    | (intro x; subst x)
    | intro _
    | lift_lets
    | (with_reducible apply State.put_keeps)
    | (with_reducible apply State.ringStart_keeps)
    | (with_reducible apply Keeps.ite)

theorem execCoalesceTimeout_keeps (r : RingId) (hz : Keeps z s) : ∃ y, execCoalesceTimeout r s = .next y ∧ Keeps z y := by
  unfold execCoalesceTimeout
  refine ⟨_, rfl, ?_⟩
  repeat' first
    | (with_reducible assumption)
    | (intro x; subst x)
    | intro _
    | lift_lets
    | (with_reducible apply State.raiseRing_keeps)
    | (with_reducible apply Keeps.ite)

theorem execEvDoorbell_keeps (v : Word) (hz : Keeps z s) : ∃ y, execEvDoorbell v s = .next y ∧ Keeps z y := by
  unfold execEvDoorbell
  refine ⟨_, rfl, ?_⟩
  repeat' first
    | (with_reducible assumption)
    | (intro (x : State); refine_lift have : Keeps z x := ?val; ?main; (case' val => subst x); (case' main => first | clear_value x | subst x))
    | (intro x; subst x)
    | intro _
    | lift_lets
    | (with_reducible apply State.badAccess_keeps)
    | (with_reducible apply State.evPost_keeps)
    | (with_reducible apply Keeps.ite)
    | (with_reducible refine Keeps.upd rfl rfl rfl rfl rfl rfl rfl rfl rfl rfl rfl rfl rfl rfl rfl rfl ?_; first | (with_reducible assumption) | (with_reducible apply State.badAccess_keeps) | (with_reducible apply State.evPost_keeps) | (with_reducible apply Keeps.ite) | split)
    | split

theorem execEvsizeWrite_keeps (v : Word) (hz : Keeps z s) : ∃ y, execEvsizeWrite v s = .next y ∧ Keeps z y := by
  unfold execEvsizeWrite
  refine ⟨_, rfl, ?_⟩
  repeat' first
    | (with_reducible assumption)
    | (intro (x : State); refine_lift have : Keeps z x := ?val; ?main; (case' val => subst x); (case' main => first | clear_value x | subst x))
    | (intro x; subst x)
    | intro _
    | lift_lets
    | (with_reducible apply State.evPost_keeps)
    | (with_reducible apply State.put_keeps)
    | (with_reducible apply Keeps.ite)
    | (with_reducible refine Keeps.upd rfl rfl rfl rfl rfl rfl rfl rfl rfl rfl rfl rfl rfl rfl rfl rfl ?_; first | (with_reducible assumption) | (with_reducible apply State.evPost_keeps) | (with_reducible apply State.put_keeps) | (with_reducible apply Keeps.ite) | split)
    | split

end Sys2Proof.Machine
end

