-- ==== Sys2Proof/Laws/KeepsCommit.lean ====
section
/-!
SUPPORT. Every operation of Machine/Commit.lean keeps (Laws/Keeps.lean).
-/

namespace Sys2Proof.Machine

variable {z s : State}

set_option maxRecDepth 8000

theorem State.scReassign_keeps (n : Nat) (hz : Keeps z s) : Keeps z (State.scReassign s n) := by
  unfold State.scReassign
  repeat' first
    | (with_reducible assumption)
    | (intro (x : State); refine_lift have : Keeps z x := ?val; ?main; (case' val => subst x); (case' main => first | clear_value x | subst x))
    | (intro x; subst x)
    | intro _
    | lift_lets
    | (with_reducible apply State.log_keeps)
    | (with_reducible apply State.scLeave_keeps)
    | (with_reducible apply State.storeDrainAll_keeps)

theorem State.applySc_keeps (n : Nat) (w : Word) (hz : Keeps z s) : Keeps z (State.applySc s n w) := by
  unfold State.applySc
  repeat' first
    | (with_reducible assumption)
    | (intro (x : State); refine_lift have : Keeps z x := ?val; ?main; (case' val => subst x); (case' main => first | clear_value x | subst x))
    | (intro x; subst x)
    | intro _
    | lift_lets
    | (with_reducible apply State.scReassign_keeps)
    | (with_reducible apply State.setReg_keeps)
    | (with_reducible apply Keeps.ite)

theorem State.applyDc_keeps (n : Nat) (w : Word) (hz : Keeps z s) : Keeps z (State.applyDc s n w) := by
  unfold State.applyDc
  repeat' first
    | (with_reducible assumption)
    | (intro x; subst x)
    | intro _
    | lift_lets
    | (with_reducible apply State.dcBegin_keeps)
    | (with_reducible apply State.setReg_keeps)
    | (with_reducible apply Keeps.ite)

theorem State.applyXown_keeps (i : Nat) (w : Word) (hz : Keeps z s) : Keeps z (State.applyXown s i w) := by
  unfold State.applyXown
  repeat' first
    | (with_reducible assumption)
    | (intro x; subst x)
    | intro _
    | lift_lets
    | (with_reducible apply State.xSettle_keeps)
    | (with_reducible apply Keeps.ite)
    | (with_reducible refine Keeps.foldl ?_ _ (fun _ _ _ => ?_))
    | (with_reducible refine Keeps.upd rfl rfl rfl rfl rfl rfl rfl rfl rfl rfl rfl rfl rfl rfl rfl rfl ?_; first  | (with_reducible assumption))

theorem State.applyBind_keeps (who : Who) (f : FRef) (w : Word) (hz : Keeps z s) : Keeps z (State.applyBind s who f w) := by
  unfold State.applyBind
  repeat' first
    | (with_reducible assumption)
    | (intro (x : State); refine_lift have : Keeps z x := ?val; ?main; (case' val => subst x); (case' main => first | clear_value x | subst x))
    | (intro x; subst x)
    | intro _
    | lift_lets
    | (with_reducible apply State.setReg_keeps)
    | (with_reducible apply Keeps.ite)
    | (with_reducible refine Keeps.upd rfl rfl rfl rfl rfl rfl rfl rfl rfl rfl rfl rfl rfl rfl rfl rfl ?_; first  | (with_reducible assumption))

theorem State.applyGpio_keeps (g : Nat) (w : Word) (hz : Keeps z s) : Keeps z (State.applyGpio s g w) := by
  unfold State.applyGpio
  repeat' first
    | (with_reducible assumption)
    | (intro (x : State); refine_lift have : Keeps z x := ?val; ?main; (case' val => subst x); (case' main => first | clear_value x | subst x))
    | (intro x; subst x)
    | intro _
    | lift_lets
    | (with_reducible apply State.put_keeps)
    | (with_reducible apply State.setReg_keeps)
    | (with_reducible apply Keeps.ite)

theorem State.applyRail_keeps (n : Nat) (w : Word) (hz : Keeps z s) : Keeps z (State.applyRail s n w) := by
  unfold State.applyRail
  repeat' first
    | (with_reducible assumption)
    | (intro (x : State); refine_lift have : Keeps z x := ?val; ?main; (case' val => subst x); (case' main => first | clear_value x | subst x))
    | (intro x; subst x)
    | intro _
    | lift_lets
    | (with_reducible apply State.railUnuse_keeps)
    | (with_reducible apply State.setReg_keeps)
    | (with_reducible apply Keeps.ite)
    | split

theorem State.applySwCfg_keeps (w : Word) (hz : Keeps z s) : Keeps z (State.applySwCfg s w) := by
  unfold State.applySwCfg
  repeat' first
    | (with_reducible assumption)
    | (intro (x : State); refine_lift have : Keeps z x := ?val; ?main; (case' val => subst x); (case' main => first | clear_value x | subst x))
    | (intro x; subst x)
    | intro _
    | lift_lets
    | (with_reducible apply State.put_keeps)
    | (with_reducible apply State.setReg_keeps)
    | (with_reducible apply Keeps.ite)
    | (with_reducible refine Keeps.upd rfl rfl rfl rfl rfl rfl rfl rfl rfl rfl rfl rfl rfl rfl rfl rfl ?_; first | (with_reducible assumption) | (with_reducible apply State.put_keeps) | (with_reducible apply State.setReg_keeps) | (with_reducible apply Keeps.ite) | split)
    | split

theorem State.itEnable_keeps (x : Nat) (hz : Keeps z s) : Keeps z (State.itEnable s x) := by
  unfold State.itEnable
  repeat' first
    | (with_reducible assumption)
    | (intro (x : State); refine_lift have : Keeps z x := ?val; ?main; (case' val => subst x); (case' main => first | clear_value x | subst x))
    | (intro x; subst x)
    | intro _
    | lift_lets
    | (with_reducible apply State.emit_keeps)
    | (with_reducible apply Keeps.ite)
    | split

theorem State.applyLamp_keeps (c : Nat) (w : Word) (hz : Keeps z s) : Keeps z (State.applyLamp s c w) := by
  unfold State.applyLamp
  repeat' first
    | (with_reducible assumption)
    | (intro (x : State); refine_lift have : Keeps z x := ?val; ?main; (case' val => subst x); (case' main => first | clear_value x | subst x))
    | (intro x; subst x)
    | intro _
    | lift_lets
    | (with_reducible apply State.lampOff_keeps)
    | (with_reducible apply State.setReg_keeps)
    | (with_reducible apply Keeps.ite)
    | split

theorem State.applyItem_keeps (i : JItem) (hz : Keeps z s) : Keeps z (State.applyItem s i) := by
  unfold State.applyItem
  repeat' first
    | (with_reducible assumption)
    | (intro (x : State); refine_lift have : Keeps z x := ?val; ?main; (case' val => subst x); (case' main => first | clear_value x | subst x))
    | (intro x; subst x)
    | intro _
    | lift_lets
    | (with_reducible apply State.applyBind_keeps)
    | (with_reducible apply State.applyDc_keeps)
    | (with_reducible apply State.applyGpio_keeps)
    | (with_reducible apply State.applyLamp_keeps)
    | (with_reducible apply State.applyRail_keeps)
    | (with_reducible apply State.applySc_keeps)
    | (with_reducible apply State.applySwCfg_keeps)
    | (with_reducible apply State.applyXown_keeps)
    | (with_reducible apply State.cchClear_keeps)
    | (with_reducible apply State.itEnable_keeps)
    | (with_reducible apply State.setReg_keeps)
    | (with_reducible apply Keeps.ite)
    | split

theorem State.cocShow_keeps (hz : Keeps z s) : Keeps z (State.cocShow s) := by
  unfold State.cocShow
  repeat' first
    | (with_reducible assumption)
    | intro _
    | (with_reducible apply State.put_keeps)

theorem State.commitClear_keeps (c : Commit) (hz : Keeps z s) : Keeps z (State.commitClear s c) := by
  unfold State.commitClear
  repeat' first
    | (with_reducible assumption)
    | intro _
    | (with_reducible apply State.stageClear_keeps)
    | (with_reducible apply Keeps.ite)

theorem State.commitReg_keeps (c : Commit) (hz : Keeps z s) : Keeps z (State.commitReg s c) := by
  unfold State.commitReg
  repeat' first
    | (with_reducible assumption)
    | intro _
    | (with_reducible apply State.put_keeps)
    | (with_reducible apply State.setReg_keeps)
    | (refine Keeps.fst ?_ (by assumption))
    | split

theorem State.commitApply_keeps (c : Commit) (hz : Keeps z s) : Keeps z (State.commitApply s c) := by
  unfold State.commitApply
  repeat' first
    | (with_reducible assumption)
    | (intro (x : State); refine_lift have : Keeps z x := ?val; ?main; (case' val => subst x); (case' main => first | clear_value x | subst x))
    | (intro x; subst x)
    | intro _
    | lift_lets
    | (with_reducible apply State.applyItem_keeps)
    | (with_reducible apply State.cocShow_keeps)
    | (with_reducible apply State.commitClear_keeps)
    | (with_reducible apply State.commitRefuse_keeps)
    | (with_reducible apply State.commitReg_keeps)
    | (with_reducible apply State.done_keeps)
    | (with_reducible apply State.journal_keeps)
    | (with_reducible apply State.mbxRefuse_keeps)
    | (with_reducible apply State.put_keeps)
    | (with_reducible apply Keeps.ite)
    | (with_reducible refine Keeps.foldl ?_ _ (fun _ _ _ => ?_))
    | (with_reducible refine Keeps.foldlPair ?_ _ (fun _ _ _ => ?_))
    | (refine Keeps.fst ?_ (by assumption))
    | (with_reducible refine Keeps.upd rfl rfl rfl rfl rfl rfl rfl rfl rfl rfl rfl rfl rfl rfl rfl rfl ?_; first | (with_reducible assumption) | (with_reducible apply State.applyItem_keeps) | (with_reducible apply State.cocShow_keeps) | (with_reducible apply State.commitClear_keeps) | (with_reducible apply State.commitRefuse_keeps) | (with_reducible apply State.commitReg_keeps) | (with_reducible apply State.done_keeps) | (with_reducible apply State.journal_keeps) | (with_reducible apply State.mbxRefuse_keeps) | (with_reducible apply State.put_keeps) | (with_reducible apply Keeps.ite) | (with_reducible refine Keeps.foldl ?_ _ (fun _ _ _ => ?_)) | split)
    | split

theorem execCommitApply_keeps (hz : Keeps z s) : ∃ y, execCommitApply s = .next y ∧ Keeps z y := by
  unfold execCommitApply
  refine ⟨_, rfl, ?_⟩
  repeat' first
    | (with_reducible assumption)
    | intro _
    | (with_reducible apply State.commitApply_keeps)
    | (with_reducible apply State.opened_keeps)
    | (with_reducible apply Keeps.ite)
    | (refine Keeps.fst ?_ (by assumption))
    | split

end Sys2Proof.Machine
end

