-- ==== Sys2Proof/Laws/KeepsOwnerReset.lean ====
section
/-!
SUPPORT. Every operation of Machine/OwnerReset.lean keeps (Laws/Keeps.lean).
-/

namespace Sys2Proof.Machine

variable {z s : State}

set_option maxRecDepth 8000

theorem State.resetRecords_keeps (kind trig arg lost ts : Nat) (items : List JItem) (only : Bool) (hz : Keeps z s) : Keeps z (State.resetRecords s kind trig arg lost ts items only) := by
  unfold State.resetRecords
  repeat' first
    | (with_reducible assumption)
    | (intro (x : State); refine_lift have : Keeps z x := ?val; ?main; (case' val => subst x); (case' main => first | clear_value x | subst x))
    | intro _
    | lift_lets
    | (with_reducible apply State.journal_keeps)
    | (with_reducible apply State.logWith_keeps)

theorem State.itemRecord_keeps (only : Bool) (code r status owner st resid addr : Nat) (hz : Keeps z s) : Keeps z (State.itemRecord s only code r status owner st resid addr) := by
  unfold State.itemRecord
  repeat' first
    | (with_reducible assumption)
    | (intro (x : State); refine_lift have : Keeps z x := ?val; ?main; (case' val => subst x); (case' main => first | clear_value x | subst x))
    | intro _
    | lift_lets
    | (with_reducible apply State.logWith_keeps)
    | (with_reducible apply State.touch_keeps)

theorem State.cmdRecord_keeps (only : Bool) (code status aux : Nat) (c : Cmd) (hz : Keeps z s) : Keeps z (State.cmdRecord s only code status aux c) := by
  unfold State.cmdRecord
  repeat' first
    | (with_reducible assumption)
    | (intro (x : State); refine_lift have : Keeps z x := ?val; ?main; (case' val => subst x); (case' main => first | clear_value x | subst x))
    | (intro x; subst x)
    | intro _
    | lift_lets
    | (with_reducible apply State.logWith_keeps)
    | (with_reducible apply State.touch_keeps)

theorem State.scReset_keeps (n : Nat) (status : Nat) (only : Bool) (hz : Keeps z s) : Keeps z (State.scReset s n status only) := by
  unfold State.scReset
  repeat' first
    | (with_reducible assumption)
    | (intro (x : State); refine_lift have : Keeps z x := ?val; ?main; (case' val => subst x); (case' main => first | clear_value x | subst x))
    | (intro x; subst x)
    | intro _
    | lift_lets
    | (with_reducible apply State.itemRecord_keeps)
    | (with_reducible apply State.scLeave_keeps)
    | (with_reducible apply Keeps.ite)
    | split

theorem State.dcReset_keeps (n : Nat) (status : Nat) (only : Bool) (hz : Keeps z s) : Keeps z (State.dcReset s n status only) := by
  unfold State.dcReset
  repeat' first
    | (with_reducible assumption)
    | (intro (x : State); refine_lift have : Keeps z x := ?val; ?main; (case' val => subst x); (case' main => first | clear_value x | subst x))
    | (intro x; subst x)
    | intro _
    | lift_lets
    | (with_reducible apply State.dcLeave_keeps)
    | (with_reducible apply State.dcWaitsDone_keeps)
    | (with_reducible apply State.itemRecord_keeps)
    | (with_reducible apply State.xSettle_keeps)
    | (with_reducible apply Keeps.ite)
    | split

theorem State.cmdReset_keeps (status : Nat) (only : Bool) (c : Cmd) (hz : Keeps z s) : Keeps z (State.cmdReset s status only c) := by
  unfold State.cmdReset
  repeat' first
    | (with_reducible assumption)
    | (intro (x : State); refine_lift have : Keeps z x := ?val; ?main; (case' val => subst x); (case' main => first | clear_value x | subst x))
    | (intro x; subst x)
    | intro _
    | lift_lets
    | (with_reducible apply State.cmdRecord_keeps)
    | (with_reducible apply State.cmdResidue_keeps)
    | (with_reducible apply State.dropCmd_keeps)
    | (with_reducible apply State.freeSP0_keeps)
    | (with_reducible apply Keeps.ite)
    | (refine Keeps.fst ?_ (by assumption))
    | (with_reducible refine Keeps.upd rfl rfl rfl rfl rfl rfl rfl rfl rfl rfl rfl rfl rfl rfl rfl rfl ?_; first | (with_reducible assumption) | (with_reducible apply State.cmdRecord_keeps) | (with_reducible apply State.cmdResidue_keeps) | (with_reducible apply State.dropCmd_keeps) | (with_reducible apply State.freeSP0_keeps) | (with_reducible apply Keeps.ite) | split)
    | split
    | (refine Keeps.updF rfl rfl rfl rfl rfl rfl rfl rfl rfl rfl rfl rfl rfl rfl rfl rfl ?_; first | (with_reducible assumption) | (with_reducible apply State.cmdRecord_keeps) | (with_reducible apply State.cmdResidue_keeps) | (with_reducible apply State.dropCmd_keeps) | (with_reducible apply State.freeSP0_keeps) | (with_reducible apply Keeps.ite) | split)

theorem State.ownerEnd_keeps (w : Who) (status : Nat) (only : Bool) (hz : Keeps z s) : Keeps z (State.ownerEnd s w status only).1 := by
  unfold State.ownerEnd
  dsimp only
  repeat' first
    | (with_reducible assumption)
    | intro _
    | (with_reducible apply State.cardOwnerReset_keeps)
    | (with_reducible apply State.cmdReset_keeps)
    | (with_reducible apply State.dcReset_keeps)
    | (with_reducible apply State.lampClear_keeps)
    | (with_reducible apply State.mbxShow_keeps)
    | (with_reducible apply State.modCch_keeps)
    | (with_reducible apply State.modRing_keeps)
    | (with_reducible apply State.scReset_keeps)
    | (with_reducible apply State.storesDrop_keeps)
    | (with_reducible apply Keeps.ite)
    | (with_reducible refine Keeps.foldl ?_ _ (fun _ _ _ => ?_))
    | (with_reducible refine Keeps.foldlPair ?_ _ (fun _ _ _ => ?_))
    | (refine Keeps.fst ?_ (by assumption))
    | (with_reducible refine Keeps.upd rfl rfl rfl rfl rfl rfl rfl rfl rfl rfl rfl rfl rfl rfl rfl rfl ?_; first | (with_reducible assumption) | (with_reducible apply State.cardOwnerReset_keeps) | (with_reducible apply State.cmdReset_keeps) | (with_reducible apply State.dcReset_keeps) | (with_reducible apply State.lampClear_keeps) | (with_reducible apply State.mbxShow_keeps) | (with_reducible apply State.modCch_keeps) | (with_reducible apply State.modRing_keeps) | (with_reducible apply State.scReset_keeps) | (with_reducible apply State.storesDrop_keeps) | (with_reducible apply Keeps.ite) | (with_reducible refine Keeps.foldl ?_ _ (fun _ _ _ => ?_)) | split)
    | split

theorem State.ownerRevert_keeps (w : Who) (hz : Keeps z s) : Keeps z (State.ownerRevert s w) := by
  unfold State.ownerRevert
  repeat' first
    | (with_reducible assumption)
    | intro _
    | (with_reducible apply Keeps.keepRegs)

theorem State.viReset_keeps (v : Fin 16) (trig : Nat) (hz : Keeps z s) : Keeps z (State.viReset s v trig) := by
  unfold State.viReset
  repeat' first
    | (with_reducible assumption)
    | (intro (x : State); refine_lift have : Keeps z x := ?val; ?main; (case' val => subst x); (case' main => first | clear_value x | subst x))
    | (intro x; subst x)
    | intro _
    | lift_lets
    | (with_reducible apply State.ownerEnd_keeps)
    | (with_reducible apply State.ownerRevert_keeps)
    | (with_reducible apply State.resetRecords_keeps)
    | (with_reducible apply State.touch_keeps)
    | (refine Keeps.fst ?_ (by assumption))

theorem State.orphanEnter_keeps (w : Who) (hz : Keeps z s) : Keeps z (State.orphanEnter s w) := by
  unfold State.orphanEnter
  repeat' first
    | (with_reducible assumption)
    | (intro (x : State); refine_lift have : Keeps z x := ?val; ?main; (case' val => subst x); (case' main => first | clear_value x | subst x))
    | intro _
    | lift_lets
    | (with_reducible apply State.holdAll_keeps)
    | (with_reducible apply State.log_keeps)
    | (with_reducible apply State.put_keeps)

theorem State.flushOwner_keeps (w : Who) (hz : Keeps z s) : Keeps z (State.flushOwner s w) := by
  unfold State.flushOwner
  repeat' first
    | (with_reducible assumption)
    | (intro (x : State); refine_lift have : Keeps z x := ?val; ?main; (case' val => subst x); (case' main => first | clear_value x | subst x))
    | (intro x; subst x)
    | intro _
    | lift_lets
    | (with_reducible apply State.evPost_keeps)
    | (with_reducible apply State.hostFlush_keeps)
    | (with_reducible apply State.postHeld_keeps)
    | (with_reducible apply Keeps.ite)
    | (with_reducible refine Keeps.foldl ?_ _ (fun _ _ _ => ?_))
    | (with_reducible refine Keeps.foldlPair ?_ _ (fun _ _ _ => ?_))
    | split

theorem State.orphanExit_keeps (w : Who) (hz : Keeps z s) : Keeps z (State.orphanExit s w) := by
  unfold State.orphanExit
  repeat' first
    | (with_reducible assumption)
    | (intro (x : State); refine_lift have : Keeps z x := ?val; ?main; (case' val => subst x); (case' main => first | clear_value x | subst x))
    | (intro x; subst x)
    | intro _
    | lift_lets
    | (with_reducible apply State.flushOwner_keeps)
    | (with_reducible apply State.log_keeps)
    | (with_reducible apply State.put_keeps)
    | (with_reducible apply State.unholdAll_keeps)
    | (refine Keeps.fst ?_ (by assumption))
    | split

theorem State.servedShow_keeps (hz : Keeps z s) : Keeps z (State.servedShow s) := by
  unfold State.servedShow
  repeat' first
    | (with_reducible assumption)
    | (intro x; subst x)
    | intro _
    | lift_lets
    | (with_reducible apply State.orphanEnter_keeps)
    | (with_reducible apply State.orphanExit_keeps)
    | (with_reducible apply Keeps.ite)
    | (with_reducible refine Keeps.foldl ?_ _ (fun _ _ _ => ?_))

theorem State.capDrop_keeps (p : ReadFn → Bool) (hz : Keeps z s) : Keeps z (State.capDrop s p) := by
  unfold State.capDrop
  repeat' first
    | (with_reducible assumption)
    | intro _
    | (with_reducible refine Keeps.upd rfl rfl rfl rfl rfl rfl rfl rfl rfl rfl rfl rfl rfl rfl rfl rfl ?_; first | (with_reducible assumption))

theorem State.portReset_keeps (p : Port) (idle : Bool) (hz : Keeps z s) : Keeps z (State.portReset s p idle) := by
  unfold State.portReset
  dsimp only
  repeat' first
    | (with_reducible assumption)
    | intro _
    | (with_reducible apply State.atcShow_keeps)
    | (with_reducible apply State.capDrop_keeps)
    | (with_reducible apply State.putB_keeps)
    | (with_reducible apply State.put_keeps)
    | (with_reducible apply Keeps.keepRegs)
    | (with_reducible apply Keeps.ite)
    | (with_reducible refine Keeps.upd rfl rfl rfl rfl rfl rfl rfl rfl rfl rfl rfl rfl rfl rfl rfl rfl ?_; first | (with_reducible assumption) | (with_reducible apply State.atcShow_keeps) | (with_reducible apply State.capDrop_keeps) | (with_reducible apply State.putB_keeps) | (with_reducible apply State.put_keeps) | (with_reducible apply Keeps.keepRegs) | (with_reducible apply Keeps.ite) | split)
    | split

theorem State.rebindTo_keeps (w : Who) (p : Port) (hz : Keeps z s) : Keeps z (State.rebindTo s w p) := by
  unfold State.rebindTo
  repeat' first
    | (with_reducible assumption)
    | (intro (x : State); refine_lift have : Keeps z x := ?val; ?main; (case' val => subst x); (case' main => first | clear_value x | subst x))
    | (intro x; subst x)
    | intro _
    | lift_lets
    | (with_reducible apply State.count_keeps)
    | (with_reducible apply State.log_keeps)
    | (with_reducible apply State.put_keeps)
    | (with_reducible apply State.raise_keeps)
    | (with_reducible apply Keeps.ite)
    | (with_reducible refine Keeps.foldl ?_ _ (fun _ _ _ => ?_))

theorem State.failoverFrom_keeps (p : Port) (hz : Keeps z s) : Keeps z (State.failoverFrom s p) := by
  unfold State.failoverFrom
  repeat' first
    | (with_reducible assumption)
    | (intro (x : State); refine_lift have : Keeps z x := ?val; ?main; (case' val => subst x); (case' main => first | clear_value x | subst x))
    | (intro x; subst x)
    | intro _
    | lift_lets
    | (with_reducible apply State.journal_keeps)
    | (with_reducible apply State.rebindTo_keeps)
    | (with_reducible apply State.touch_keeps)
    | (with_reducible apply Keeps.ite)
    | (with_reducible refine Keeps.foldl ?_ _ (fun _ _ _ => ?_))

theorem State.linkReset_keeps (p : Port) (trig : Nat) (hz : Keeps z s) : Keeps z (State.linkReset s p trig) := by
  unfold State.linkReset
  repeat' first
    | (with_reducible assumption)
    | (intro (x : State); refine_lift have : Keeps z x := ?val; ?main; (case' val => subst x); (case' main => first | clear_value x | subst x))
    | (intro x; subst x)
    | intro _
    | lift_lets
    | (with_reducible apply State.ownerEnd_keeps)
    | (with_reducible apply State.ownerRevert_keeps)
    | (with_reducible apply State.portReset_keeps)
    | (with_reducible apply State.resetRecords_keeps)
    | (with_reducible apply State.touch_keeps)
    | (with_reducible refine Keeps.foldl ?_ _ (fun _ _ _ => ?_))
    | (with_reducible refine Keeps.foldlPair ?_ _ (fun _ _ _ => ?_))
    | (refine Keeps.fst ?_ (by assumption))

theorem State.rollback_keeps (p : Port) (hz : Keeps z s) : Keeps z (State.rollback s p) := by
  unfold State.rollback
  repeat' first
    | (with_reducible assumption)
    | (intro (x : State); refine_lift have : Keeps z x := ?val; ?main; (case' val => subst x); (case' main => first | clear_value x | subst x))
    | intro _
    | lift_lets
    | (with_reducible apply State.dcProgress_keeps)
    | (with_reducible apply State.modCch_keeps)
    | (with_reducible apply State.modChan_keeps)
    | (with_reducible apply Keeps.ite)
    | (with_reducible refine Keeps.foldl ?_ _ (fun _ _ _ => ?_))

end Sys2Proof.Machine
end

