-- ==== Sys2Proof/Laws/KeepsResets.lean ====
section
/-!
SUPPORT. Every operation of Machine/Resets.lean keeps (Laws/Keeps.lean).
-/

namespace Sys2Proof.Machine

variable {z s : State}

set_option maxRecDepth 8000

theorem State.linksIdle_keeps (hz : Keeps z s) : Keeps z (State.linksIdle s) := by
  unfold State.linksIdle
  repeat' first
    | (with_reducible assumption)
    | (intro (x : State); refine_lift have : Keeps z x := ?val; ?main; (case' val => subst x); (case' main => first | clear_value x | subst x))
    | (intro x; subst x)
    | intro _
    | lift_lets
    | (with_reducible apply State.put_keeps)
    | (with_reducible refine Keeps.foldl ?_ _ (fun _ _ _ => ?_))
    | (with_reducible refine Keeps.foldlPair ?_ _ (fun _ _ _ => ?_))

theorem State.orphanRecords_keeps (hz : Keeps z s) : Keeps z (State.orphanRecords s) := by
  unfold State.orphanRecords
  repeat' first
    | (with_reducible assumption)
    | intro _
    | (with_reducible apply State.log_keeps)
    | (with_reducible apply State.put_keeps)
    | (with_reducible apply Keeps.ite)
    | (with_reducible refine Keeps.foldl ?_ _ (fun _ _ _ => ?_))
    | (with_reducible refine Keeps.foldlPair ?_ _ (fun _ _ _ => ?_))
    | (refine Keeps.fst ?_ (by assumption))
    | split

theorem State.coreRegs_keeps (retained : Bool) (hz : Keeps z s) : Keeps z (State.coreRegs s retained) := by
  unfold State.coreRegs
  repeat' first
    | (with_reducible assumption)
    | (intro (x : State); refine_lift have : Keeps z x := ?val; ?main; (case' val => subst x); (case' main => first | clear_value x | subst x))
    | (intro x; subst x)
    | intro _
    | lift_lets
    | (with_reducible apply State.linksIdle_keeps)
    | (with_reducible apply State.orphanRecords_keeps)
    | (with_reducible apply Keeps.keepRegs)
    | (with_reducible refine Keeps.upd rfl rfl rfl rfl rfl rfl rfl rfl rfl rfl rfl rfl rfl rfl rfl rfl ?_; first | (with_reducible assumption) | (with_reducible apply State.linksIdle_keeps) | (with_reducible apply State.orphanRecords_keeps) | (with_reducible apply Keeps.keepRegs) | split)

theorem State.coreClear_keeps (retained : Bool) (hz : Keeps z s) : Keeps z (State.coreClear s retained) := by
  unfold State.coreClear
  dsimp only
  apply State.mbxShow_keeps
  apply State.modCch_keeps
  have h : Keeps z ((upTo 50).foldl (fun t r => t.admDrop r) s) := hz.foldl _ fun _ _ k => State.admDrop_keeps _ k
  revert h
  generalize (upTo 50).foldl (fun t r => t.admDrop r) s = x
  intro h
  refine Keeps.renew rfl (fun w => w) rfl rfl rfl rfl rfl (fun _ => rfl) (fun w => w) (fun u => ?_) h
  simp only [State.units, List.cons.injEq] at u
  obtain ⟨u1, u2, u3, u4, u5, u6, -⟩ := u
  simp only [State.units, List.cons.injEq, List.length_map, List.length_zip, u1, u2, u4, u6]
  cases retained <;> simp [u3, u5]

theorem State.coreLost_keeps (status : Nat) (hz : Keeps z s) : Keeps z (State.coreLost s status).1 := by
  unfold State.coreLost
  dsimp only
  repeat' first
    | (with_reducible assumption)
    | intro _
    | (with_reducible apply State.cardCoreStop_keeps)
    | (with_reducible apply State.coreClear_keeps)
    | (with_reducible apply State.coreRegs_keeps)
    | (with_reducible apply State.touch_keeps)
    | (with_reducible refine Keeps.foldl ?_ _ (fun _ _ _ => ?_))
    | (with_reducible refine Keeps.foldlPair ?_ _ (fun _ _ _ => ?_))
    | (with_reducible refine Keeps.upd rfl rfl rfl rfl rfl rfl rfl rfl rfl rfl rfl rfl rfl rfl rfl rfl ?_; first | (with_reducible assumption) | (with_reducible apply State.cardCoreStop_keeps) | (with_reducible apply State.coreClear_keeps) | (with_reducible apply State.coreRegs_keeps) | (with_reducible apply State.touch_keeps) | (with_reducible refine Keeps.foldl ?_ _ (fun _ _ _ => ?_)))

theorem State.coreEnOff_keeps (hz : Keeps z s) : Keeps z (State.coreEnOff s) := by
  unfold State.coreEnOff
  repeat' first
    | (with_reducible assumption)
    | (intro (x : State); refine_lift have : Keeps z x := ?val; ?main; (case' val => subst x); (case' main => first | clear_value x | subst x))
    | (intro x; subst x)
    | intro _
    | lift_lets
    | (with_reducible apply State.put_keeps)
    | (with_reducible refine Keeps.upd rfl rfl rfl rfl rfl rfl rfl rfl rfl rfl rfl rfl rfl rfl rfl rfl ?_; first  | (with_reducible assumption))

theorem State.coreStart_keeps (hz : Keeps z s) : Keeps z (State.coreStart s) := by
  unfold State.coreStart
  repeat' first
    | (with_reducible assumption)
    | (intro (x : State); refine_lift have : Keeps z x := ?val; ?main; (case' val => subst x); (case' main => first | clear_value x | subst x))
    | (intro x; subst x)
    | intro _
    | lift_lets
    | (with_reducible apply State.put_keeps)
    | (with_reducible refine Keeps.upd rfl rfl rfl rfl rfl rfl rfl rfl rfl rfl rfl rfl rfl rfl rfl rfl ?_; first  | (with_reducible assumption))

theorem State.coreReset_keeps (trig : Nat) (retained : Bool) (lost : Nat) (hz : Keeps z s) : Keeps z (State.coreReset s trig retained lost) := by
  unfold State.coreReset
  dsimp only
  repeat' first
    | (with_reducible assumption)
    | intro _
    | (with_reducible apply State.coreClear_keeps)
    | (with_reducible apply State.coreRegs_keeps)
    | (with_reducible apply State.coreStart_keeps)
    | (with_reducible apply State.put_keeps)
    | (with_reducible apply State.resetRecords_keeps)
    | (with_reducible apply State.touch_keeps)
    | (with_reducible refine Keeps.upd rfl rfl rfl rfl rfl rfl rfl rfl rfl rfl rfl rfl rfl rfl rfl rfl ?_; first  | (with_reducible assumption) | (with_reducible apply State.coreClear_keeps) | (with_reducible apply State.coreRegs_keeps) | (with_reducible apply State.coreStart_keeps) | (with_reducible apply State.put_keeps) | (with_reducible apply State.resetRecords_keeps))

theorem execRstCtlCore_keeps (hz : Keeps z s) : ∃ y, execRstCtlCore s = .next y ∧ Keeps z y := by
  unfold execRstCtlCore
  refine ⟨_, rfl, ?_⟩
  repeat' first
    | (with_reducible assumption)
    | intro _
    | lift_lets
    | (with_reducible apply State.coreLost_keeps)
    | (with_reducible apply State.coreReset_keeps)
    | (with_reducible apply Keeps.ite)

theorem execCorePowerLoss_keeps (hz : Keeps z s) : ∃ y, execCorePowerLoss s = .next y ∧ Keeps z y := by
  unfold execCorePowerLoss
  refine ⟨_, rfl, ?_⟩
  repeat' first
    | (with_reducible assumption)
    | (intro x; subst x)
    | intro _
    | lift_lets
    | (with_reducible apply State.coreLost_keeps)
    | (with_reducible apply State.coreStart_keeps)
    | (with_reducible apply State.log_keeps)
    | (with_reducible apply Keeps.ite)

theorem State.autonomousEnter_keeps (cause : Nat) (hz : Keeps z s) : Keeps z (State.autonomousEnter s cause) := by
  unfold State.autonomousEnter
  repeat' first
    | (with_reducible assumption)
    | (intro (x : State); refine_lift have : Keeps z x := ?val; ?main; (case' val => subst x); (case' main => first | clear_value x | subst x))
    | (intro x; subst x)
    | intro _
    | lift_lets
    | (with_reducible apply State.coreEnOff_keeps)
    | (with_reducible apply State.coreLost_keeps)
    | (with_reducible apply State.linksIdle_keeps)
    | (with_reducible apply State.log_keeps)
    | (with_reducible apply State.put_keeps)
    | (with_reducible apply Keeps.ite)

theorem execCoreStartTimeout_keeps (hz : Keeps z s) : ∃ y, execCoreStartTimeout s = .next y ∧ Keeps z y := by
  unfold execCoreStartTimeout
  refine ⟨_, rfl, ?_⟩
  repeat' first
    | (with_reducible assumption)
    | intro _
    | (with_reducible apply State.autonomousEnter_keeps)
    | (with_reducible apply State.put_keeps)
    | (with_reducible apply Keeps.ite)

theorem State.patchBoot_keeps (hz : Keeps z s) : Keeps z (State.patchBoot s) := by
  unfold State.patchBoot
  repeat' first
    | (with_reducible assumption)
    | (intro (x : State); refine_lift have : Keeps z x := ?val; ?main; (case' val => subst x); (case' main => first | clear_value x | subst x))
    | (intro x; subst x)
    | intro _
    | lift_lets
    | (with_reducible apply State.log_keeps)
    | (with_reducible apply State.put_keeps)
    | (with_reducible apply State.setReg_keeps)
    | (with_reducible apply Keeps.ite)
    | (refine Keeps.fst ?_ (by assumption))
    | (with_reducible refine Keeps.upd rfl rfl rfl rfl rfl rfl rfl rfl rfl rfl rfl rfl rfl rfl rfl rfl ?_; first | (with_reducible assumption) | (with_reducible apply State.log_keeps) | (with_reducible apply State.put_keeps) | (with_reducible apply State.setReg_keeps) | (with_reducible apply Keeps.ite) | split)
    | split

theorem State.orphanAll_keeps (hz : Keeps z s) : Keeps z (State.orphanAll s) := by
  unfold State.orphanAll
  repeat' first
    | (with_reducible assumption)
    | intro _
    | (with_reducible apply State.holdAll_keeps)

theorem State.itemsLost_keeps (hz : Keeps z s) : Keeps z (State.itemsLost s) := by
  unfold State.itemsLost
  refine Keeps.keepRegs _ ?_
  refine Keeps.renew (s := s.touch) rfl (fun w => w) rfl rfl rfl rfl rfl (fun w => w) (fun w => w) (fun u => ?_) (State.touch_keeps hz)
  simp only [State.units, List.cons.injEq] at u
  obtain ⟨u1, u2, -, u4, -, u6, u7, -⟩ := u
  simp only [State.units, u1, u2, u4, u6, u7]

theorem State.nvLoad_keeps (img : List (Nat × Word)) (p : RField → Bool) (hz : Keeps z s) : Keeps z (State.nvLoad s img p) := by
  unfold State.nvLoad
  repeat' first
    | (with_reducible assumption)
    | (intro (x : State); refine_lift have : Keeps z x := ?val; ?main; (case' val => subst x); (case' main => first | clear_value x | subst x))
    | (intro x; subst x)
    | intro _
    | lift_lets
    | (with_reducible apply State.setReg_keeps)
    | (with_reducible apply Keeps.ite)
    | (with_reducible refine Keeps.foldl ?_ _ (fun _ _ _ => ?_))
    | (with_reducible refine Keeps.foldlPair ?_ _ (fun _ _ _ => ?_))
    | split

theorem execCoreStarted_keeps (cfgOk : Bool) (itemOk : Bool) (vdd08 : Nat) (vio18 : Nat) (vio33 : Nat) (hz : Keeps z s) : ∃ y, execCoreStarted cfgOk itemOk vdd08 vio18 vio33 s = .next y ∧ Keeps z y := by
  unfold execCoreStarted
  refine ⟨_, rfl, ?_⟩
  repeat' first
    | (with_reducible assumption)
    | (intro (x : State); refine_lift have : Keeps z x := ?val; ?main; (case' val => subst x); (case' main => first | clear_value x | subst x))
    | (intro x; subst x)
    | intro _
    | lift_lets
    | (with_reducible apply State.autoAct_keeps)
    | (with_reducible apply State.itemsLost_keeps)
    | (with_reducible apply State.log_keeps)
    | (with_reducible apply State.nvLoad_keeps)
    | (with_reducible apply State.orphanAll_keeps)
    | (with_reducible apply State.putB_keeps)
    | (with_reducible apply State.put_keeps)
    | (with_reducible apply State.setReg_keeps)
    | (with_reducible apply State.unholdAll_keeps)
    | (with_reducible apply Keeps.ite)
    | (with_reducible refine Keeps.foldl ?_ _ (fun _ _ _ => ?_))
    | (with_reducible refine Keeps.foldlPair ?_ _ (fun _ _ _ => ?_))
    | (refine Keeps.fst ?_ (by assumption))
    | (with_reducible refine Keeps.upd rfl rfl rfl rfl rfl rfl rfl rfl rfl rfl rfl rfl rfl rfl rfl rfl ?_; first | (with_reducible assumption) | (with_reducible apply State.autoAct_keeps) | (with_reducible apply State.itemsLost_keeps) | (with_reducible apply State.log_keeps) | (with_reducible apply State.nvLoad_keeps) | (with_reducible apply State.orphanAll_keeps) | (with_reducible apply State.putB_keeps) | (with_reducible apply State.put_keeps) | (with_reducible apply State.setReg_keeps) | (with_reducible apply State.unholdAll_keeps) | (with_reducible apply Keeps.ite) | (with_reducible refine Keeps.foldl ?_ _ (fun _ _ _ => ?_)) | split)
    | split

theorem State.slotFail_keeps (code : Nat) (hz : Keeps z s) : Keeps z (State.slotFail s code) := by
  unfold State.slotFail
  repeat' first
    | (with_reducible assumption)
    | (intro (x : State); refine_lift have : Keeps z x := ?val; ?main; (case' val => subst x); (case' main => first | clear_value x | subst x))
    | (intro x; subst x)
    | intro _
    | lift_lets
    | (with_reducible apply State.autonomousEnter_keeps)
    | (with_reducible apply State.put_keeps)
    | (with_reducible apply Keeps.ite)
    | (with_reducible refine Keeps.upd rfl rfl rfl rfl rfl rfl rfl rfl rfl rfl rfl rfl rfl rfl rfl rfl ?_; first  | (with_reducible assumption))

theorem State.pinsRestore_keeps (hz : Keeps z s) : Keeps z (State.pinsRestore s) := by
  unfold State.pinsRestore
  repeat' first
    | (with_reducible assumption)
    | (intro (x : State); refine_lift have : Keeps z x := ?val; ?main; (case' val => subst x); (case' main => first | clear_value x | subst x))
    | (intro x; subst x)
    | intro _
    | lift_lets
    | (with_reducible apply State.itEnable_keeps)
    | (with_reducible apply State.put_keeps)
    | (with_reducible apply Keeps.ite)
    | (with_reducible refine Keeps.foldl ?_ _ (fun _ _ _ => ?_))
    | (with_reducible refine Keeps.foldlPair ?_ _ (fun _ _ _ => ?_))
    | (with_reducible refine Keeps.upd rfl rfl rfl rfl rfl rfl rfl rfl rfl rfl rfl rfl rfl rfl rfl rfl ?_; first | (with_reducible assumption) | (with_reducible apply State.itEnable_keeps) | (with_reducible apply State.put_keeps) | (with_reducible apply Keeps.ite) | (with_reducible refine Keeps.foldl ?_ _ (fun _ _ _ => ?_)) | split)
    | split

theorem State.slotRun_keeps (i : Image) (hz : Keeps z s) : Keeps z (State.slotRun s i) := by
  unfold State.slotRun
  repeat' first
    | (with_reducible assumption)
    | (intro (x : State); refine_lift have : Keeps z x := ?val; ?main; (case' val => subst x); (case' main => first | clear_value x | subst x))
    | (intro x; subst x)
    | intro _
    | lift_lets
    | (with_reducible apply State.pinsRestore_keeps)
    | (with_reducible apply State.putB_keeps)
    | (with_reducible apply State.put_keeps)
    | (with_reducible apply Keeps.ite)
    | (with_reducible refine Keeps.foldl ?_ _ (fun _ _ _ => ?_))
    | (with_reducible refine Keeps.foldlPair ?_ _ (fun _ _ _ => ?_))
    | (with_reducible refine Keeps.upd rfl rfl rfl rfl rfl rfl rfl rfl rfl rfl rfl rfl rfl rfl rfl rfl ?_; first | (with_reducible assumption) | (with_reducible apply State.pinsRestore_keeps) | (with_reducible apply State.putB_keeps) | (with_reducible apply State.put_keeps) | (with_reducible apply Keeps.ite) | (with_reducible refine Keeps.foldl ?_ _ (fun _ _ _ => ?_)) | split)
    | split

theorem execServiceSlotVerify_keeps (img : Option (List Byte)) (hz : Keeps z s) : ∃ y, execServiceSlotVerify img s = .next y ∧ Keeps z y := by
  unfold execServiceSlotVerify
  refine ⟨_, rfl, ?_⟩
  repeat' first
    | (with_reducible assumption)
    | (intro (x : State); refine_lift have : Keeps z x := ?val; ?main; (case' val => subst x); (case' main => first | clear_value x | subst x))
    | (intro x; subst x)
    | intro _
    | lift_lets
    | (with_reducible apply State.slotFail_keeps)
    | (with_reducible apply State.slotRun_keeps)
    | (with_reducible apply Keeps.ite)
    | (refine Keeps.fst ?_ (by assumption))
    | (with_reducible refine Keeps.upd rfl rfl rfl rfl rfl rfl rfl rfl rfl rfl rfl rfl rfl rfl rfl rfl ?_; first | (with_reducible assumption) | (with_reducible apply State.slotFail_keeps) | (with_reducible apply State.slotRun_keeps) | (with_reducible apply Keeps.ite) | split)
    | split

theorem execSlotTimeout_keeps (hz : Keeps z s) : ∃ y, execSlotTimeout s = .next y ∧ Keeps z y := by
  unfold execSlotTimeout
  refine ⟨_, rfl, ?_⟩
  repeat' first
    | (with_reducible assumption)
    | intro _
    | (with_reducible apply State.slotFail_keeps)
    | (with_reducible apply Keeps.ite)

theorem State.bistEnd_keeps (result : Nat) (hz : Keeps z s) : Keeps z (State.bistEnd s result) := by
  unfold State.bistEnd
  repeat' first
    | (with_reducible assumption)
    | (intro (x : State); refine_lift have : Keeps z x := ?val; ?main; (case' val => subst x); (case' main => first | clear_value x | subst x))
    | (intro x; subst x)
    | intro _
    | lift_lets
    | (with_reducible apply State.log_keeps)
    | (with_reducible apply State.put_keeps)
    | (with_reducible refine Keeps.upd rfl rfl rfl rfl rfl rfl rfl rfl rfl rfl rfl rfl rfl rfl rfl rfl ?_; first  | (with_reducible assumption))

theorem State.warmClear_keeps (joined : Bool) (trig ts : Nat) (calBad : Option Nat) (hz : Keeps z s) :
    Keeps z (State.warmClear s joined trig ts calBad) := by
  refine Keeps.renew rfl (fun w => w) rfl rfl rfl rfl rfl (fun w => w) (fun w => w) (fun u => ?_) hz
  simp only [State.units, List.cons.injEq] at u
  obtain ⟨-, -, u3, u4, u5, u6, u7, -⟩ := u
  simp only [State.units, u3, u4, u5, u6, u7]

theorem State.warmRegs_keeps (hz : Keeps z s) : Keeps z (State.warmRegs s) := by
  unfold State.warmRegs
  repeat' first
    | (with_reducible assumption)
    | intro _
    | (with_reducible apply State.put_keeps)
    | (with_reducible apply Keeps.keepRegs)
    | (with_reducible apply Keeps.ite)
    | (with_reducible refine Keeps.foldl ?_ _ (fun _ _ _ => ?_))
    | (with_reducible refine Keeps.foldlPair ?_ _ (fun _ _ _ => ?_))
    | (with_reducible refine Keeps.upd rfl rfl rfl rfl rfl rfl rfl rfl rfl rfl rfl rfl rfl rfl rfl rfl ?_; first | (with_reducible assumption) | (with_reducible apply State.put_keeps) | (with_reducible apply Keeps.keepRegs) | (with_reducible apply Keeps.ite) | (with_reducible refine Keeps.foldl ?_ _ (fun _ _ _ => ?_)) | split)
    | split

theorem State.warmBegin_keeps (trig : Nat) (hz : Keeps z s) : Keeps z (State.warmBegin s trig) := by
  unfold State.warmBegin
  dsimp only
  repeat' first
    | (with_reducible assumption)
    | intro _
    | (with_reducible apply State.attemptEnd_keeps)
    | (with_reducible apply State.authClose_keeps)
    | (with_reducible apply State.bistEnd_keeps)
    | (with_reducible apply State.coreLost_keeps)
    | (with_reducible apply State.journal_keeps)
    | (with_reducible apply State.linksIdle_keeps)
    | (with_reducible apply State.put_keeps)
    | (with_reducible apply State.setReg_keeps)
    | (with_reducible apply State.stageShow_keeps)
    | (with_reducible apply State.touch_keeps)
    | (with_reducible apply State.warmClear_keeps)
    | (with_reducible apply State.warmRegs_keeps)
    | (with_reducible apply Keeps.ite)
    | (with_reducible refine Keeps.foldl ?_ _ (fun _ _ _ => ?_))

theorem State.warmBoot_keeps (hz : Keeps z s) : Keeps z (State.warmBoot s) := by
  unfold State.warmBoot
  repeat' first
    | (with_reducible assumption)
    | (intro (x : State); refine_lift have : Keeps z x := ?val; ?main; (case' val => subst x); (case' main => first | clear_value x | subst x))
    | (intro x; subst x)
    | intro _
    | lift_lets
    | (with_reducible apply State.cocShow_keeps)
    | (with_reducible apply State.coreStart_keeps)
    | (with_reducible apply State.logAt_keeps)
    | (with_reducible apply State.log_keeps)
    | (with_reducible apply State.patchBoot_keeps)
    | (with_reducible apply State.put_keeps)
    | (with_reducible apply Keeps.ite)
    | (refine Keeps.fst ?_ (by assumption))
    | (with_reducible refine Keeps.upd rfl rfl rfl rfl rfl rfl rfl rfl rfl rfl rfl rfl rfl rfl rfl rfl ?_; first | (with_reducible assumption) | (with_reducible apply State.cocShow_keeps) | (with_reducible apply State.coreStart_keeps) | (with_reducible apply State.logAt_keeps) | (with_reducible apply State.log_keeps) | (with_reducible apply State.patchBoot_keeps) | (with_reducible apply State.put_keeps) | (with_reducible apply Keeps.ite) | split)

theorem execRstCtlWarm_keeps (hz : Keeps z s) : ∃ y, execRstCtlWarm s = .next y ∧ Keeps z y := by
  unfold execRstCtlWarm
  refine ⟨_, rfl, ?_⟩
  repeat' first
    | (with_reducible assumption)
    | intro _
    | (with_reducible apply State.warmBegin_keeps)
    | (with_reducible apply State.warmBoot_keeps)
    | (with_reducible apply Keeps.ite)

theorem execSentinelWatchdogExpire_keeps (hz : Keeps z s) : ∃ y, execSentinelWatchdogExpire s = .next y ∧ Keeps z y := by
  unfold execSentinelWatchdogExpire
  refine ⟨_, rfl, ?_⟩
  repeat' first
    | (with_reducible assumption)
    | intro _
    | (with_reducible apply State.warmBegin_keeps)
    | (with_reducible apply State.warmBoot_keeps)
    | (with_reducible apply Keeps.ite)
    | split

theorem execLockstepMismatch_keeps (hz : Keeps z s) : ∃ y, execLockstepMismatch s = .next y ∧ Keeps z y := by
  unfold execLockstepMismatch
  refine ⟨_, rfl, ?_⟩
  repeat' first
    | (with_reducible assumption)
    | intro _
    | (with_reducible apply State.warmBegin_keeps)
    | (with_reducible apply State.warmBoot_keeps)
    | (with_reducible apply Keeps.ite)

theorem execResetNLow_keeps (hz : Keeps z s) : ∃ y, execResetNLow s = .next y ∧ Keeps z y := by
  unfold execResetNLow
  refine ⟨_, rfl, ?_⟩
  repeat' first
    | (with_reducible assumption)
    | (intro (x : State); refine_lift have : Keeps z x := ?val; ?main; (case' val => subst x); (case' main => first | clear_value x | subst x))
    | (intro x; subst x)
    | intro _
    | lift_lets
    | (with_reducible apply State.warmBegin_keeps)
    | (with_reducible apply Keeps.ite)
    | (with_reducible refine Keeps.upd rfl rfl rfl rfl rfl rfl rfl rfl rfl rfl rfl rfl rfl rfl rfl rfl ?_; first  | (with_reducible assumption))

theorem execResetNLong_keeps (hz : Keeps z s) : ∃ y, execResetNLong s = .next y ∧ Keeps z y := by
  unfold execResetNLong
  refine ⟨_, rfl, ?_⟩
  repeat' first
    | (with_reducible assumption)
    | intro _
    | (with_reducible apply State.releaseOutputs_keeps)
    | (with_reducible apply Keeps.ite)
    | split

theorem execResetNRelease_keeps (hz : Keeps z s) : ∃ y, execResetNRelease s = .next y ∧ Keeps z y := by
  unfold execResetNRelease
  refine ⟨_, rfl, ?_⟩
  repeat' first
    | (with_reducible assumption)
    | intro _
    | (with_reducible apply State.warmBoot_keeps)
    | (with_reducible apply Keeps.ite)

end Sys2Proof.Machine
end

