-- ==== Sys2Proof/Laws/KeepsSupervise.lean ====
section
/-!
SUPPORT. Every operation of Machine/Supervise.lean keeps (Laws/Keeps.lean).
-/

namespace Sys2Proof.Machine

variable {z s : State}

set_option maxRecDepth 8000

theorem State.putFit_keeps (f : FRef) (v : Int) (signed : Bool) (hz : Keeps z s) : Keeps z (State.putFit s f v signed) := by
  unfold State.putFit
  exact Keeps.ite (State.putS_keeps _ _ hz) ((State.put_keeps _ _ hz).take _ rfl)

theorem State.sweepRot_keeps (v : Nat) (hz : Keeps z s) : Keeps z (State.sweepRot s v) := by
  unfold State.sweepRot
  repeat' first
    | (with_reducible assumption)
    | (intro (x : State); refine_lift have : Keeps z x := ?val; ?main; (case' val => subst x); (case' main => first | clear_value x | subst x))
    | (intro x; subst x)
    | intro _
    | lift_lets
    | (with_reducible apply State.done_keeps)
    | (with_reducible apply Keeps.ite)
    | (refine Keeps.fst ?_ (by assumption))
    | (with_reducible refine Keeps.upd rfl rfl rfl rfl rfl rfl rfl rfl rfl rfl rfl rfl rfl rfl rfl rfl ?_; first | (with_reducible assumption) | (with_reducible apply State.done_keeps) | (with_reducible apply Keeps.ite) | split)

theorem State.sweep_keeps (f : FrameIn) (hz : Keeps z s) : Keeps z (State.sweep s f) := by
  unfold State.sweep
  repeat' first
    | (with_reducible assumption)
    | (intro (x : State); refine_lift have : Keeps z x := ?val; ?main; (case' val => subst x); (case' main => first | clear_value x | subst x))
    | (intro x; subst x)
    | intro _
    | lift_lets
    | (with_reducible apply State.done_keeps)
    | (with_reducible apply State.forRails_keeps)
    | (with_reducible apply State.put_keeps)
    | (with_reducible apply State.sweepRot_keeps)
    | (with_reducible apply Keeps.ite)
    | (refine Keeps.fst ?_ (by assumption))
    | (with_reducible refine Keeps.upd rfl rfl rfl rfl rfl rfl rfl rfl rfl rfl rfl rfl rfl rfl rfl rfl ?_; first | (with_reducible assumption) | (with_reducible apply State.done_keeps) | (with_reducible apply State.forRails_keeps) | (with_reducible apply State.put_keeps) | (with_reducible apply State.sweepRot_keeps) | (with_reducible apply Keeps.ite) | split)
    | split

theorem State.fastFrame_keeps (hz : Keeps z s) : Keeps z (State.fastFrame s) := by
  unfold State.fastFrame
  repeat' first
    | (with_reducible assumption)
    | (intro (x : State); refine_lift have : Keeps z x := ?val; ?main; (case' val => subst x); (case' main => first | clear_value x | subst x))
    | (intro x; subst x)
    | intro _
    | lift_lets
    | (with_reducible apply Keeps.ite)
    | (with_reducible refine Keeps.upd rfl rfl rfl rfl rfl rfl rfl rfl rfl rfl rfl rfl rfl rfl rfl rfl ?_; first | (with_reducible assumption) | (with_reducible apply Keeps.ite) | split)
    | split

theorem State.fastPath_keeps (f : FrameIn) (hz : Keeps z s) : Keeps z (State.fastPath s f) := by
  unfold State.fastPath
  repeat' first
    | (with_reducible assumption)
    | (intro (x : State); refine_lift have : Keeps z x := ?val; ?main; (case' val => subst x); (case' main => first | clear_value x | subst x))
    | (intro x; subst x)
    | intro _
    | lift_lets
    | (with_reducible apply State.fastFrame_keeps)
    | (with_reducible apply State.fastRun_keeps)
    | (with_reducible refine Keeps.upd rfl rfl rfl rfl rfl rfl rfl rfl rfl rfl rfl rfl rfl rfl rfl rfl ?_; first | (with_reducible assumption) | (with_reducible apply State.fastFrame_keeps) | (with_reducible apply State.fastRun_keeps) | split)

theorem State.judgeRails_keeps (pg : Nat) (hz : Keeps z s) : Keeps z (State.judgeRails s pg) := by
  unfold State.judgeRails
  repeat' first
    | (with_reducible assumption)
    | (intro (x : State); refine_lift have : Keeps z x := ?val; ?main; (case' val => subst x); (case' main => first | clear_value x | subst x))
    | (intro x; subst x)
    | intro _
    | lift_lets
    | (with_reducible apply State.forRails_keeps)
    | (with_reducible apply State.setRail_keeps)
    | (with_reducible apply State.shutdownEnd_keeps)
    | (with_reducible apply Keeps.ite)

theorem State.judgeWarn_keeps (n : Nat) (ov past back : Bool) (hz : Keeps z s) : Keeps z (State.judgeWarn s n ov past back) := by
  unfold State.judgeWarn
  repeat' first
    | (with_reducible assumption)
    | (intro (x : State); refine_lift have : Keeps z x := ?val; ?main; (case' val => subst x); (case' main => first | clear_value x | subst x))
    | (intro x; subst x)
    | intro _
    | lift_lets
    | (with_reducible apply State.log_keeps)
    | (with_reducible apply State.modRail_keeps)
    | (with_reducible apply State.put_keeps)
    | (with_reducible apply Keeps.ite)

theorem State.faultAt_keeps (ts : Nat) (n : Nat) (kind : Nat) (hw : Bool) (hz : Keeps z s) : Keeps z (State.faultAt s ts n kind hw) := by
  unfold State.faultAt
  repeat' first
    | (with_reducible assumption)
    | intro _
    | (with_reducible apply State.logAt_keeps)
    | (with_reducible apply State.snapAsk_keeps)

theorem State.faultRecord_keeps (n : Nat) (kind : Nat) (hz : Keeps z s) : Keeps z (State.faultRecord s n kind) := by
  unfold State.faultRecord
  repeat' first
    | (with_reducible assumption)
    | (intro (x : State); refine_lift have : Keeps z x := ?val; ?main; (case' val => subst x); (case' main => first | clear_value x | subst x))
    | (intro x; subst x)
    | intro _
    | lift_lets
    | (with_reducible apply State.faultAt_keeps)
    | (with_reducible apply State.touch_keeps)

theorem State.hwRecord_keeps (n : Nat) (hz : Keeps z s) : Keeps z (State.hwRecord s n) := by
  unfold State.hwRecord
  repeat' first
    | (with_reducible assumption)
    | (intro (x : State); refine_lift have : Keeps z x := ?val; ?main; (case' val => subst x); (case' main => first | clear_value x | subst x))
    | (intro x; subst x)
    | intro _
    | lift_lets
    | (with_reducible apply State.faultAt_keeps)
    | (with_reducible apply State.modRail_keeps)
    | (with_reducible apply State.put_keeps)
    | (with_reducible apply Keeps.ite)
    | (with_reducible refine Keeps.foldl ?_ _ (fun _ _ _ => ?_))
    | (with_reducible refine Keeps.foldlPair ?_ _ (fun _ _ _ => ?_))
    | split

theorem State.judgeFlt_keeps (n : Nat) (ov : Bool) (past : Bool) (hz : Keeps z s) : Keeps z (State.judgeFlt s n ov past) := by
  unfold State.judgeFlt
  repeat' first
    | (with_reducible assumption)
    | (intro (x : State); refine_lift have : Keeps z x := ?val; ?main; (case' val => subst x); (case' main => first | clear_value x | subst x))
    | (intro x; subst x)
    | intro _
    | lift_lets
    | (with_reducible apply State.faultRecord_keeps)
    | (with_reducible apply State.modRail_keeps)
    | (with_reducible apply State.put_keeps)
    | (with_reducible apply State.railFault_keeps)
    | (with_reducible apply Keeps.ite)
    | split

theorem State.superviseRail_keeps (pg : Nat) (code : Nat) (n : Nat) (hz : Keeps z s) : Keeps z (State.superviseRail s pg code n) := by
  unfold State.superviseRail
  repeat' first
    | (with_reducible assumption)
    | (intro (x : State); refine_lift have : Keeps z x := ?val; ?main; (case' val => subst x); (case' main => first | clear_value x | subst x))
    | (intro x; subst x)
    | intro _
    | lift_lets
    | (with_reducible apply State.faultRecord_keeps)
    | (with_reducible apply State.hwRecord_keeps)
    | (with_reducible apply State.judgeFlt_keeps)
    | (with_reducible apply State.judgeWarn_keeps)
    | (with_reducible apply State.modRail_keeps)
    | (with_reducible apply State.railFault_keeps)
    | (with_reducible apply State.uvInDown_keeps)
    | (with_reducible apply Keeps.ite)
    | split

theorem State.ledger_keeps (hz : Keeps z s) : Keeps z (State.ledger s) := by
  unfold State.ledger
  dsimp only
  repeat' first
    | (with_reducible assumption)
    | intro _
    | (with_reducible apply State.putFit_keeps)
    | (with_reducible apply State.put_keeps)
    | (with_reducible apply Keeps.ite)
    | (with_reducible refine Keeps.upd rfl rfl rfl rfl rfl rfl rfl rfl rfl rfl rfl rfl rfl rfl rfl rfl ?_; first | (with_reducible assumption) | (with_reducible apply State.putFit_keeps) | (with_reducible apply State.put_keeps) | (with_reducible apply Keeps.ite) | split)
    | split

theorem State.busEvent_keeps (k : Nat) (n : Nat) (ein : Int) (last : Int) (hz : Keeps z s) : Keeps z (State.busEvent s k n ein last) := by
  unfold State.busEvent
  repeat' first
    | (with_reducible assumption)
    | (intro (x : State); refine_lift have : Keeps z x := ?val; ?main; (case' val => subst x); (case' main => first | clear_value x | subst x))
    | (intro x; subst x)
    | intro _
    | lift_lets
    | (with_reducible apply State.log_keeps)
    | (with_reducible apply State.put_keeps)
    | (with_reducible apply Keeps.ite)
    | (with_reducible refine Keeps.upd rfl rfl rfl rfl rfl rfl rfl rfl rfl rfl rfl rfl rfl rfl rfl rfl ?_; first | (with_reducible assumption) | (with_reducible apply State.log_keeps) | (with_reducible apply State.put_keeps) | (with_reducible apply Keeps.ite) | split)
    | split

theorem State.busCounts_keeps (f : FrameIn) (hz : Keeps z s) : Keeps z (State.busCounts s f) := by
  unfold State.busCounts
  repeat' first
    | (with_reducible assumption)
    | intro _
    | (with_reducible refine Keeps.upd rfl rfl rfl rfl rfl rfl rfl rfl rfl rfl rfl rfl rfl rfl rfl rfl ?_; first | (with_reducible assumption) | split)

theorem State.busEvents_keeps (hz : Keeps z s) : Keeps z (State.busEvents s) := by
  unfold State.busEvents
  repeat' first
    | (with_reducible assumption)
    | (intro (x : State); refine_lift have : Keeps z x := ?val; ?main; (case' val => subst x); (case' main => first | clear_value x | subst x))
    | (intro x; subst x)
    | intro _
    | lift_lets
    | (with_reducible apply State.busEvent_keeps)
    | (with_reducible refine Keeps.foldl ?_ _ (fun _ _ _ => ?_))
    | (with_reducible refine Keeps.foldlPair ?_ _ (fun _ _ _ => ?_))

theorem State.judgeLost_keeps (hz : Keeps z s) : Keeps z (State.judgeLost s) := by
  unfold State.judgeLost
  repeat' first
    | (with_reducible assumption)
    | (intro (x : State); refine_lift have : Keeps z x := ?val; ?main; (case' val => subst x); (case' main => first | clear_value x | subst x))
    | (intro x; subst x)
    | intro _
    | lift_lets
    | (with_reducible apply State.pfwAssert_keeps)
    | (with_reducible apply State.putB_keeps)
    | (with_reducible apply State.shutdown_keeps)
    | (with_reducible apply State.snapAsk_keeps)
    | (with_reducible apply Keeps.ite)
    | (with_reducible refine Keeps.upd rfl rfl rfl rfl rfl rfl rfl rfl rfl rfl rfl rfl rfl rfl rfl rfl ?_; first | (with_reducible assumption) | (with_reducible apply State.pfwAssert_keeps) | (with_reducible apply State.putB_keeps) | (with_reducible apply State.shutdown_keeps) | (with_reducible apply State.snapAsk_keeps) | (with_reducible apply Keeps.ite) | split)
    | split

theorem State.predict_keeps (hz : Keeps z s) : Keeps z (State.predict s) := by
  unfold State.predict
  repeat' first
    | (with_reducible assumption)
    | (intro x; subst x)
    | intro _
    | lift_lets
    | (with_reducible apply State.log_keeps)
    | (with_reducible apply State.pfwAssert_keeps)
    | (with_reducible apply State.pfwRelease_keeps)
    | (with_reducible apply State.snapAsk_keeps)
    | (with_reducible apply Keeps.ite)

theorem State.judgeBulk_keeps (hz : Keeps z s) : Keeps z (State.judgeBulk s) := by
  unfold State.judgeBulk
  repeat' first
    | (with_reducible assumption)
    | intro _
    | (with_reducible apply State.hsFault_keeps)
    | (with_reducible apply State.put_keeps)
    | (with_reducible apply Keeps.ite)

theorem State.judgeDischarge_keeps (hz : Keeps z s) : Keeps z (State.judgeDischarge s) := by
  unfold State.judgeDischarge
  repeat' first
    | (with_reducible assumption)
    | (intro (x : State); refine_lift have : Keeps z x := ?val; ?main; (case' val => subst x); (case' main => first | clear_value x | subst x))
    | (intro x; subst x)
    | intro _
    | lift_lets
    | (with_reducible apply State.log_keeps)
    | (with_reducible apply State.put_keeps)
    | (with_reducible apply Keeps.ite)
    | (with_reducible refine Keeps.upd rfl rfl rfl rfl rfl rfl rfl rfl rfl rfl rfl rfl rfl rfl rfl rfl ?_; first | (with_reducible assumption) | (with_reducible apply State.log_keeps) | (with_reducible apply State.put_keeps) | (with_reducible apply Keeps.ite) | split)
    | split

theorem State.cocoon_keeps (hz : Keeps z s) : Keeps z (State.cocoon s) := by
  unfold State.cocoon
  repeat' first
    | (with_reducible assumption)
    | (intro (x : State); refine_lift have : Keeps z x := ?val; ?main; (case' val => subst x); (case' main => first | clear_value x | subst x))
    | (intro x; subst x)
    | intro _
    | lift_lets
    | (with_reducible apply State.putB_keeps)
    | (with_reducible apply State.put_keeps)
    | (with_reducible apply Keeps.ite)
    | (with_reducible refine Keeps.upd rfl rfl rfl rfl rfl rfl rfl rfl rfl rfl rfl rfl rfl rfl rfl rfl ?_; first  | (with_reducible assumption) | (with_reducible apply State.putB_keeps))

theorem State.snapshots_keeps (hz : Keeps z s) : Keeps z (State.snapshots s) := by
  unfold State.snapshots
  repeat' first
    | (with_reducible assumption)
    | intro _
    | (with_reducible apply State.snapCapture_keeps)
    | (refine Keeps.fst ?_ (by assumption))
    | (with_reducible refine Keeps.upd rfl rfl rfl rfl rfl rfl rfl rfl rfl rfl rfl rfl rfl rfl rfl rfl ?_; first | (with_reducible assumption) | (with_reducible apply State.snapCapture_keeps) | split)
    | split

end Sys2Proof.Machine
end

