-- ==== Sys2Proof/Laws/KeepsSwarmLine.lean ====
section
/-!
SUPPORT. Every operation of Machine/SwarmLine.lean keeps (Laws/Keeps.lean).
-/

namespace Sys2Proof.Machine

variable {z s : State}

set_option maxRecDepth 8000

theorem State.swClaim_keeps (hz : Keeps z s) : Keeps z (State.swClaim s) := by
  unfold State.swClaim
  repeat' first
    | (with_reducible assumption)
    | intro _
    | (refine Keeps.fst ?_ (by assumption))
    | (with_reducible refine Keeps.upd rfl rfl rfl rfl rfl rfl rfl rfl rfl rfl rfl rfl rfl rfl rfl rfl ?_; first | (with_reducible assumption) | split)
    | split

theorem State.swEnter_keeps (v : Nat) (hz : Keeps z s) : Keeps z (State.swEnter s v) := by
  unfold State.swEnter
  repeat' first
    | (with_reducible assumption)
    | (intro (x : State); refine_lift have : Keeps z x := ?val; ?main; (case' val => subst x); (case' main => first | clear_value x | subst x))
    | (intro x; subst x)
    | intro _
    | lift_lets
    | (with_reducible apply State.put_keeps)
    | (with_reducible apply State.shutdown_keeps)
    | (with_reducible apply State.startRails_keeps)
    | (with_reducible apply State.swClaim_keeps)
    | (with_reducible apply Keeps.ite)
    | (with_reducible refine Keeps.upd rfl rfl rfl rfl rfl rfl rfl rfl rfl rfl rfl rfl rfl rfl rfl rfl ?_; first | (with_reducible assumption) | (with_reducible apply State.put_keeps) | (with_reducible apply State.shutdown_keeps) | (with_reducible apply State.startRails_keeps) | (with_reducible apply State.swClaim_keeps) | (with_reducible apply Keeps.ite) | split)
    | split

theorem execSwarmAdvance_keeps (hz : Keeps z s) : ∃ y, execSwarmAdvance s = .next y ∧ Keeps z y := by
  unfold execSwarmAdvance
  refine ⟨_, rfl, ?_⟩
  repeat' first
    | (with_reducible assumption)
    | (intro (x : State); refine_lift have : Keeps z x := ?val; ?main; (case' val => subst x); (case' main => first | clear_value x | subst x))
    | (intro x; subst x)
    | intro _
    | lift_lets
    | (with_reducible apply State.log_keeps)
    | (with_reducible apply State.put_keeps)
    | (with_reducible apply State.swEnter_keeps)
    | (with_reducible apply Keeps.ite)
    | (with_reducible refine Keeps.upd rfl rfl rfl rfl rfl rfl rfl rfl rfl rfl rfl rfl rfl rfl rfl rfl ?_; first | (with_reducible assumption) | (with_reducible apply State.log_keeps) | (with_reducible apply State.put_keeps) | (with_reducible apply State.swEnter_keeps) | (with_reducible apply Keeps.ite) | split)
    | split

theorem State.swJoinStarts_keeps (v : Nat) (hz : Keeps z s) : Keeps z (State.swJoinStarts s v) := by
  unfold State.swJoinStarts
  repeat' first
    | (with_reducible assumption)
    | intro _
    | (with_reducible apply State.startRails_keeps)
    | (with_reducible apply Keeps.ite)

theorem execSwarmCatchup_keeps (hz : Keeps z s) : ∃ y, execSwarmCatchup s = .next y ∧ Keeps z y := by
  unfold execSwarmCatchup
  refine ⟨_, rfl, ?_⟩
  repeat' first
    | (with_reducible assumption)
    | (intro (x : State); refine_lift have : Keeps z x := ?val; ?main; (case' val => subst x); (case' main => first | clear_value x | subst x))
    | (intro x; subst x)
    | intro _
    | lift_lets
    | (with_reducible apply State.swJoinStarts_keeps)
    | (with_reducible apply Keeps.ite)
    | (with_reducible refine Keeps.upd rfl rfl rfl rfl rfl rfl rfl rfl rfl rfl rfl rfl rfl rfl rfl rfl ?_; first | (with_reducible assumption) | (with_reducible apply State.swJoinStarts_keeps) | (with_reducible apply Keeps.ite) | split)
    | split

theorem State.swRejoin_keeps (hz : Keeps z s) : Keeps z (State.swRejoin s) := by
  unfold State.swRejoin
  repeat' first
    | (with_reducible assumption)
    | (intro (x : State); refine_lift have : Keeps z x := ?val; ?main; (case' val => subst x); (case' main => first | clear_value x | subst x))
    | (intro x; subst x)
    | intro _
    | lift_lets
    | (with_reducible apply State.log_keeps)
    | (with_reducible apply State.put_keeps)
    | (with_reducible refine Keeps.upd rfl rfl rfl rfl rfl rfl rfl rfl rfl rfl rfl rfl rfl rfl rfl rfl ?_; first | (with_reducible assumption) | (with_reducible apply State.log_keeps) | (with_reducible apply State.put_keeps) | split)

theorem execSwarmResync_keeps (hz : Keeps z s) : ∃ y, execSwarmResync s = .next y ∧ Keeps z y := by
  unfold execSwarmResync
  refine ⟨_, rfl, ?_⟩
  repeat' first
    | (with_reducible assumption)
    | (intro (x : State); refine_lift have : Keeps z x := ?val; ?main; (case' val => subst x); (case' main => first | clear_value x | subst x))
    | (intro x; subst x)
    | intro _
    | lift_lets
    | (with_reducible apply State.put_keeps)
    | (with_reducible apply State.swRejoin_keeps)
    | (with_reducible apply Keeps.ite)
    | (refine Keeps.fst ?_ (by assumption))
    | (with_reducible refine Keeps.upd rfl rfl rfl rfl rfl rfl rfl rfl rfl rfl rfl rfl rfl rfl rfl rfl ?_; first | (with_reducible assumption) | (with_reducible apply State.put_keeps) | (with_reducible apply State.swRejoin_keeps) | (with_reducible apply Keeps.ite) | split)
    | split

theorem execSwarmInvalidPulse_keeps (hz : Keeps z s) : ∃ y, execSwarmInvalidPulse s = .next y ∧ Keeps z y := by
  unfold execSwarmInvalidPulse
  refine ⟨_, rfl, ?_⟩
  repeat' first
    | (with_reducible assumption)
    | intro _
    | (with_reducible apply State.count_keeps)
    | (with_reducible apply Keeps.ite)
    | (with_reducible refine Keeps.upd rfl rfl rfl rfl rfl rfl rfl rfl rfl rfl rfl rfl rfl rfl rfl rfl ?_; first  | (with_reducible assumption))

theorem execSwarmBeaconGap_keeps (hz : Keeps z s) : ∃ y, execSwarmBeaconGap s = .next y ∧ Keeps z y := by
  unfold execSwarmBeaconGap
  refine ⟨_, rfl, ?_⟩
  repeat' first
    | (with_reducible assumption)
    | intro _
    | (with_reducible apply Keeps.ite)
    | (with_reducible refine Keeps.upd rfl rfl rfl rfl rfl rfl rfl rfl rfl rfl rfl rfl rfl rfl rfl rfl ?_; first  | (with_reducible assumption))

theorem State.swFallback_keeps (hz : Keeps z s) : Keeps z (State.swFallback s) := by
  unfold State.swFallback
  repeat' first
    | (with_reducible assumption)
    | (intro (x : State); refine_lift have : Keeps z x := ?val; ?main; (case' val => subst x); (case' main => first | clear_value x | subst x))
    | (intro x; subst x)
    | intro _
    | lift_lets
    | (with_reducible apply State.startRails_keeps)
    | (with_reducible apply Keeps.ite)
    | (with_reducible refine Keeps.upd rfl rfl rfl rfl rfl rfl rfl rfl rfl rfl rfl rfl rfl rfl rfl rfl ?_; first | (with_reducible assumption) | (with_reducible apply State.startRails_keeps) | (with_reducible apply Keeps.ite) | split)
    | split

theorem State.swDesync_keeps (v : Option Nat) (hz : Keeps z s) : Keeps z (State.swDesync s v) := by
  unfold State.swDesync
  repeat' first
    | (with_reducible assumption)
    | intro _
    | (with_reducible apply State.log_keeps)
    | (with_reducible apply State.put_keeps)
    | (with_reducible apply State.swFallback_keeps)

theorem State.swCompare_keeps (v : Nat) (hz : Keeps z s) : Keeps z (State.swCompare s v) := by
  unfold State.swCompare
  repeat' first
    | (with_reducible assumption)
    | intro _
    | (with_reducible apply State.swDesync_keeps)
    | (with_reducible apply Keeps.ite)
    | split

theorem execSwarmBeacon_keeps (value : BitVec 8) (own : Bool) (hz : Keeps z s) : ∃ y, execSwarmBeacon value own s = .next y ∧ Keeps z y := by
  unfold execSwarmBeacon
  refine ⟨_, rfl, ?_⟩
  repeat' first
    | (with_reducible assumption)
    | (intro (x : State); refine_lift have : Keeps z x := ?val; ?main; (case' val => subst x); (case' main => first | clear_value x | subst x))
    | (intro x; subst x)
    | intro _
    | lift_lets
    | (with_reducible apply State.log_keeps)
    | (with_reducible apply State.put_keeps)
    | (with_reducible apply State.swCompare_keeps)
    | (with_reducible apply State.swJoinStarts_keeps)
    | (with_reducible apply State.swRejoin_keeps)
    | (with_reducible apply Keeps.ite)
    | (with_reducible refine Keeps.upd rfl rfl rfl rfl rfl rfl rfl rfl rfl rfl rfl rfl rfl rfl rfl rfl ?_; first | (with_reducible assumption) | (with_reducible apply State.log_keeps) | (with_reducible apply State.put_keeps) | (with_reducible apply State.swCompare_keeps) | (with_reducible apply State.swJoinStarts_keeps) | (with_reducible apply State.swRejoin_keeps) | (with_reducible apply Keeps.ite) | split)
    | split

theorem execJoinTimeout_keeps (hz : Keeps z s) : ∃ y, execJoinTimeout s = .next y ∧ Keeps z y := by
  unfold execJoinTimeout
  refine ⟨_, rfl, ?_⟩
  repeat' first
    | (with_reducible assumption)
    | intro _
    | (with_reducible apply State.swDesync_keeps)
    | (with_reducible apply Keeps.ite)
    | split

theorem execNobeacon_keeps (hz : Keeps z s) : ∃ y, execNobeacon s = .next y ∧ Keeps z y := by
  unfold execNobeacon
  refine ⟨_, rfl, ?_⟩
  repeat' first
    | (with_reducible assumption)
    | (intro (x : State); refine_lift have : Keeps z x := ?val; ?main; (case' val => subst x); (case' main => first | clear_value x | subst x))
    | (intro x; subst x)
    | intro _
    | lift_lets
    | (with_reducible apply State.put_keeps)
    | (with_reducible apply Keeps.ite)
    | (with_reducible refine Keeps.upd rfl rfl rfl rfl rfl rfl rfl rfl rfl rfl rfl rfl rfl rfl rfl rfl ?_; first  | (with_reducible assumption))

theorem execSwarmRelease_keeps (hz : Keeps z s) : ∃ y, execSwarmRelease s = .next y ∧ Keeps z y := by
  unfold execSwarmRelease
  refine ⟨_, rfl, ?_⟩
  repeat' first
    | (with_reducible assumption)
    | intro _
    | (with_reducible apply Keeps.ite)
    | (with_reducible refine Keeps.upd rfl rfl rfl rfl rfl rfl rfl rfl rfl rfl rfl rfl rfl rfl rfl rfl ?_; first  | (with_reducible assumption))

theorem execLeaderAdvancePulse_keeps (hz : Keeps z s) : ∃ y, execLeaderAdvancePulse s = .next y ∧ Keeps z y := by
  unfold execLeaderAdvancePulse
  refine ⟨_, rfl, ?_⟩
  repeat' first
    | (with_reducible assumption)
    | intro _
    | (with_reducible apply Keeps.ite)
    | (with_reducible refine Keeps.upd rfl rfl rfl rfl rfl rfl rfl rfl rfl rfl rfl rfl rfl rfl rfl rfl ?_; first  | (with_reducible assumption))

theorem execLeaderResyncPulse_keeps (hz : Keeps z s) : ∃ y, execLeaderResyncPulse s = .next y ∧ Keeps z y := by
  unfold execLeaderResyncPulse
  refine ⟨_, rfl, ?_⟩
  repeat' first
    | (with_reducible assumption)
    | intro _
    | (with_reducible apply Keeps.ite)
    | (with_reducible refine Keeps.upd rfl rfl rfl rfl rfl rfl rfl rfl rfl rfl rfl rfl rfl rfl rfl rfl ?_; first  | (with_reducible assumption))

theorem execLeaderBeaconSend_keeps (hz : Keeps z s) : ∃ y, execLeaderBeaconSend s = .next y ∧ Keeps z y := by
  unfold execLeaderBeaconSend
  refine ⟨_, rfl, ?_⟩
  repeat' first
    | (with_reducible assumption)
    | (intro (x : State); refine_lift have : Keeps z x := ?val; ?main; (case' val => subst x); (case' main => first | clear_value x | subst x))
    | (intro x; subst x)
    | intro _
    | lift_lets
    | (with_reducible apply State.emit_keeps)
    | (with_reducible apply Keeps.ite)
    | (with_reducible refine Keeps.upd rfl rfl rfl rfl rfl rfl rfl rfl rfl rfl rfl rfl rfl rfl rfl rfl ?_; first | (with_reducible assumption) | (with_reducible apply State.emit_keeps) | (with_reducible apply Keeps.ite) | split)
    | split

theorem execSwarmStuck_keeps (hz : Keeps z s) : ∃ y, execSwarmStuck s = .next y ∧ Keeps z y := by
  unfold execSwarmStuck
  refine ⟨_, rfl, ?_⟩
  repeat' first
    | (with_reducible assumption)
    | (intro (x : State); refine_lift have : Keeps z x := ?val; ?main; (case' val => subst x); (case' main => first | clear_value x | subst x))
    | (intro x; subst x)
    | intro _
    | lift_lets
    | (with_reducible apply State.log_keeps)
    | (with_reducible apply State.put_keeps)
    | (with_reducible apply Keeps.ite)
    | (with_reducible refine Keeps.upd rfl rfl rfl rfl rfl rfl rfl rfl rfl rfl rfl rfl rfl rfl rfl rfl ?_; first | (with_reducible assumption) | (with_reducible apply State.log_keeps) | (with_reducible apply State.put_keeps) | (with_reducible apply Keeps.ite) | split)
    | split

theorem State.swResyncReq_keeps (hz : Keeps z s) : Keeps z (State.swResyncReq s) := by
  unfold State.swResyncReq
  repeat' first
    | (with_reducible assumption)
    | intro _
    | (with_reducible apply State.put_keeps)
    | (with_reducible apply Keeps.ite)
    | (with_reducible refine Keeps.upd rfl rfl rfl rfl rfl rfl rfl rfl rfl rfl rfl rfl rfl rfl rfl rfl ?_; first  | (with_reducible assumption) | (with_reducible apply State.put_keeps))

theorem State.swRejoinReq_keeps (hz : Keeps z s) : Keeps z (State.swRejoinReq s) := by
  unfold State.swRejoinReq
  repeat' first
    | (with_reducible assumption)
    | intro _
    | (with_reducible apply State.put_keeps)
    | (with_reducible apply Keeps.ite)
    | (with_reducible refine Keeps.upd rfl rfl rfl rfl rfl rfl rfl rfl rfl rfl rfl rfl rfl rfl rfl rfl ?_; first | (with_reducible assumption) | (with_reducible apply State.put_keeps) | (with_reducible apply Keeps.ite) | split)
    | split

theorem execSwctlResync_keeps (hz : Keeps z s) : ∃ y, execSwctlResync s = .next y ∧ Keeps z y := by
  unfold execSwctlResync
  refine ⟨_, rfl, ?_⟩
  repeat' first
    | (with_reducible assumption)
    | intro _
    | (with_reducible apply State.swResyncReq_keeps)

theorem execSwctlRejoin_keeps (hz : Keeps z s) : ∃ y, execSwctlRejoin s = .next y ∧ Keeps z y := by
  unfold execSwctlRejoin
  refine ⟨_, rfl, ?_⟩
  repeat' first
    | (with_reducible assumption)
    | intro _
    | (with_reducible apply State.swRejoinReq_keeps)

end Sys2Proof.Machine
end

