-- ==== Sys2Proof/Laws/KeepsPowerStates.lean ====
section
/-!
SUPPORT. Every operation of Machine/PowerStates.lean keeps (Laws/Keeps.lean).
-/

namespace Sys2Proof.Machine

variable {z s : State}

set_option maxRecDepth 8000

theorem State.forceVis_keeps (hz : Keeps z s) : Keeps z (State.forceVis s).1 := by
  unfold State.forceVis
  refine Keeps.foldlPair hz _ fun t x k => ?_
  split
  · exact State.viReset_keeps _ _ k
  · exact k

theorem execDomainPowerDown_keeps (hz : Keeps z s) : ∃ y, execDomainPowerDown s = .next y ∧ Keeps z y := by
  unfold execDomainPowerDown
  refine ⟨_, rfl, Keeps.ite ?_ hz⟩
  refine Keeps.upd rfl rfl rfl rfl rfl rfl rfl rfl rfl rfl rfl rfl rfl rfl rfl rfl ?_
  refine Keeps.foldl (State.storeDrainAll_keeps (State.holdAll_keeps _ _ _ _ ?_)) _ fun _ _ k => State.cardDown_keeps _ k
  split
  · exact Keeps.same (State.forceVis_keeps hz) rfl
  · exact hz

theorem State.domainEnd_keeps (d : DownFor) (hz : Keeps z s) : Keeps z (State.domainEnd s d) := by
  unfold State.domainEnd
  dsimp only
  repeat' first
    | (with_reducible assumption)
    | intro _
    | (with_reducible apply State.cardDeadline_keeps)
    | (with_reducible apply State.cmdResidue_keeps)
    | (with_reducible apply State.complete_keeps)
    | (with_reducible apply State.put_keeps)
    | (with_reducible apply State.scHoldTake_keeps)
    | (with_reducible apply State.storeDrainAll_keeps)
    | (with_reducible refine Keeps.foldl ?_ _ (fun _ _ _ => ?_))
    | (with_reducible refine Keeps.foldlPair ?_ _ (fun _ _ _ => ?_))
    | (refine Keeps.fst ?_ (by assumption))

theorem State.domainStop_keeps (hz : Keeps z s) : Keeps z (State.domainStop s) := by
  unfold State.domainStop
  repeat' first
    | (with_reducible assumption)
    | (intro (x : State); refine_lift have : Keeps z x := ?val; ?main; (case' val => subst x); (case' main => first | clear_value x | subst x))
    | (intro x; subst x)
    | intro _
    | lift_lets
    | (with_reducible apply State.coreClear_keeps)
    | (with_reducible refine Keeps.upd rfl rfl rfl rfl rfl rfl rfl rfl rfl rfl rfl rfl rfl rfl rfl rfl ?_; first  | (with_reducible assumption))

theorem State.linksDown_keeps (hz : Keeps z s) : Keeps z (State.linksDown s) := by
  unfold State.linksDown
  repeat' first
    | (with_reducible assumption)
    | intro _
    | (with_reducible apply State.linksIdle_keeps)
    | (with_reducible apply State.orphanRecords_keeps)
    | (with_reducible apply State.portReset_keeps)

theorem State.wake_keeps (src : Nat) (hz : Keeps z s) : Keeps z (State.wake s src) := by
  unfold State.wake
  repeat' first
    | (with_reducible assumption)
    | (intro (x : State); refine_lift have : Keeps z x := ?val; ?main; (case' val => subst x); (case' main => first | clear_value x | subst x))
    | (intro x; subst x)
    | intro _
    | lift_lets
    | (with_reducible apply State.bistEnd_keeps)
    | (with_reducible apply State.coreReset_keeps)
    | (with_reducible apply State.log_keeps)
    | (with_reducible apply State.put_keeps)
    | (with_reducible apply Keeps.ite)
    | (with_reducible refine Keeps.upd rfl rfl rfl rfl rfl rfl rfl rfl rfl rfl rfl rfl rfl rfl rfl rfl ?_; first | (with_reducible assumption) | (with_reducible apply State.bistEnd_keeps) | (with_reducible apply State.coreReset_keeps) | (with_reducible apply State.log_keeps) | (with_reducible apply State.put_keeps) | (with_reducible apply Keeps.ite) | split)
    | split

theorem State.sleepBegin_keeps (hz : Keeps z s) : Keeps z (State.sleepBegin s) := by
  unfold State.sleepBegin
  repeat' first
    | (with_reducible assumption)
    | (intro (x : State); refine_lift have : Keeps z x := ?val; ?main; (case' val => subst x); (case' main => first | clear_value x | subst x))
    | (intro x; subst x)
    | intro _
    | lift_lets
    | (with_reducible apply State.lampOff_keeps)
    | (with_reducible apply State.put_keeps)
    | (with_reducible refine Keeps.foldl ?_ _ (fun _ _ _ => ?_))
    | (with_reducible refine Keeps.foldlPair ?_ _ (fun _ _ _ => ?_))
    | (with_reducible refine Keeps.upd rfl rfl rfl rfl rfl rfl rfl rfl rfl rfl rfl rfl rfl rfl rfl rfl ?_; first | (with_reducible assumption) | (with_reducible apply State.lampOff_keeps) | (with_reducible apply State.put_keeps) | (with_reducible refine Keeps.foldl ?_ _ (fun _ _ _ => ?_)) | split)

theorem State.holdTest_keeps (hz : Keeps z s) : Keeps z (State.holdTest s) := by
  unfold State.holdTest
  repeat' first
    | (with_reducible assumption)
    | intro _
    | (with_reducible apply Keeps.ite)
    | (with_reducible refine Keeps.upd rfl rfl rfl rfl rfl rfl rfl rfl rfl rfl rfl rfl rfl rfl rfl rfl ?_; first  | (with_reducible assumption))

theorem State.stateEnter_keeps (st : Nat) (force : Bool) (vis : Nat) (t : Tag) (hz : Keeps z s) : Keeps z (State.stateEnter s st force vis t) := by
  unfold State.stateEnter
  repeat' first
    | (with_reducible assumption)
    | (intro (x : State); refine_lift have : Keeps z x := ?val; ?main; (case' val => subst x); (case' main => first | clear_value x | subst x))
    | (intro x; subst x)
    | intro _
    | lift_lets
    | (with_reducible apply State.coreEnOff_keeps)
    | (with_reducible apply State.domainStop_keeps)
    | (with_reducible apply State.done_keeps)
    | (with_reducible apply State.holdTest_keeps)
    | (with_reducible apply State.linksDown_keeps)
    | (with_reducible apply State.log_keeps)
    | (with_reducible apply State.put_keeps)
    | (with_reducible apply State.sleepBegin_keeps)
    | (with_reducible apply State.wake_keeps)
    | (with_reducible apply Keeps.ite)
    | (refine Keeps.fst ?_ (by assumption))
    | (with_reducible refine Keeps.upd rfl rfl rfl rfl rfl rfl rfl rfl rfl rfl rfl rfl rfl rfl rfl rfl ?_; first | (with_reducible assumption) | (with_reducible apply State.coreEnOff_keeps) | (with_reducible apply State.domainStop_keeps) | (with_reducible apply State.done_keeps) | (with_reducible apply State.holdTest_keeps) | (with_reducible apply State.linksDown_keeps) | (with_reducible apply State.log_keeps) | (with_reducible apply State.put_keeps) | (with_reducible apply State.sleepBegin_keeps) | (with_reducible apply State.wake_keeps) | (with_reducible apply Keeps.ite) | split)

theorem State.afterDown_keeps (x0 : DownFor) (hz : Keeps z s) : Keeps z (State.afterDown s x0) := by
  unfold State.afterDown
  repeat' first
    | (with_reducible assumption)
    | (intro (x : State); refine_lift have : Keeps z x := ?val; ?main; (case' val => subst x); (case' main => first | clear_value x | subst x))
    | (intro x; subst x)
    | intro _
    | lift_lets
    | (with_reducible apply State.autonomousEnter_keeps)
    | (with_reducible apply State.cocoon_keeps)
    | (with_reducible apply State.coreEnOff_keeps)
    | (with_reducible apply State.coreReset_keeps)
    | (with_reducible apply State.count_keeps)
    | (with_reducible apply State.domainStop_keeps)
    | (with_reducible apply State.heartbeat_keeps)
    | (with_reducible apply State.linksDown_keeps)
    | (with_reducible apply State.stateEnter_keeps)
    | (with_reducible apply Keeps.ite)
    | (with_reducible refine Keeps.upd rfl rfl rfl rfl rfl rfl rfl rfl rfl rfl rfl rfl rfl rfl rfl rfl ?_; first | (with_reducible assumption) | (with_reducible apply State.autonomousEnter_keeps) | (with_reducible apply State.cocoon_keeps) | (with_reducible apply State.coreEnOff_keeps) | (with_reducible apply State.coreReset_keeps) | (with_reducible apply State.count_keeps) | (with_reducible apply State.domainStop_keeps) | (with_reducible apply State.heartbeat_keeps) | (with_reducible apply State.linksDown_keeps) | (with_reducible apply State.stateEnter_keeps) | (with_reducible apply Keeps.ite) | split)

theorem execDomainDeadline_keeps (hz : Keeps z s) : ∃ y, execDomainDeadline s = .next y ∧ Keeps z y := by
  unfold execDomainDeadline
  refine ⟨_, rfl, ?_⟩
  repeat' first
    | (with_reducible assumption)
    | intro _
    | (with_reducible apply State.afterDown_keeps)
    | (with_reducible apply State.domainEnd_keeps)
    | (with_reducible apply State.downEnd_keeps)
    | (with_reducible apply Keeps.ite)
    | (refine Keeps.fst ?_ (by assumption))
    | (with_reducible refine Keeps.upd rfl rfl rfl rfl rfl rfl rfl rfl rfl rfl rfl rfl rfl rfl rfl rfl ?_; first | (with_reducible assumption) | (with_reducible apply State.afterDown_keeps) | (with_reducible apply State.domainEnd_keeps) | (with_reducible apply State.downEnd_keeps) | (with_reducible apply Keeps.ite) | split)

theorem execWakeEvent_keeps (src : Fin 5) (hz : Keeps z s) : ∃ y, execWakeEvent src s = .next y ∧ Keeps z y := by
  unfold execWakeEvent
  refine ⟨_, rfl, ?_⟩
  repeat' first
    | (with_reducible assumption)
    | intro _
    | (with_reducible apply State.downEnd_keeps)
    | (with_reducible apply State.wake_keeps)
    | (with_reducible apply Keeps.ite)
    | (refine Keeps.fst ?_ (by assumption))
    | (with_reducible refine Keeps.upd rfl rfl rfl rfl rfl rfl rfl rfl rfl rfl rfl rfl rfl rfl rfl rfl ?_; first | (with_reducible assumption) | (with_reducible apply State.downEnd_keeps) | (with_reducible apply State.wake_keeps) | (with_reducible apply Keeps.ite) | split)

theorem execBusbarPresent_keeps (hz : Keeps z s) : ∃ y, execBusbarPresent s = .next y ∧ Keeps z y := by
  unfold execBusbarPresent
  refine ⟨_, rfl, ?_⟩
  repeat' first
    | (with_reducible assumption)
    | (intro (x : State); refine_lift have : Keeps z x := ?val; ?main; (case' val => subst x); (case' main => first | clear_value x | subst x))
    | intro _
    | lift_lets
    | (with_reducible apply State.busbarPresent_keeps)
    | (with_reducible apply State.coreReset_keeps)
    | (with_reducible apply Keeps.ite)

theorem State.cocoonDown_keeps (hz : Keeps z s) : Keeps z (State.cocoonDown s) := by
  unfold State.cocoonDown
  repeat' first
    | (with_reducible assumption)
    | intro _
    | (with_reducible apply State.coreEnOff_keeps)
    | (with_reducible apply Keeps.ite)
    | (refine Keeps.fst ?_ (by assumption))
    | (with_reducible refine Keeps.upd rfl rfl rfl rfl rfl rfl rfl rfl rfl rfl rfl rfl rfl rfl rfl rfl ?_; first | (with_reducible assumption) | (with_reducible apply State.coreEnOff_keeps) | (with_reducible apply Keeps.ite) | split)
    | split

theorem execOnCocoon_keeps (hz : Keeps z s) : ∃ y, execOnCocoon s = .next y ∧ Keeps z y := by
  unfold execOnCocoon
  refine ⟨_, rfl, ?_⟩
  repeat' first
    | (with_reducible assumption)
    | intro _
    | (with_reducible apply State.cocoonDown_keeps)
    | (with_reducible apply State.log_keeps)
    | (with_reducible apply State.put_keeps)
    | (with_reducible apply Keeps.ite)
    | split

theorem State.cutWrite_keeps (hz : Keeps z s) : Keeps z (State.cutWrite s) := by
  unfold State.cutWrite
  repeat' first
    | (with_reducible assumption)
    | (intro (x : State); refine_lift have : Keeps z x := ?val; ?main; (case' val => subst x); (case' main => first | clear_value x | subst x))
    | (intro x; subst x)
    | intro _
    | lift_lets
    | (with_reducible apply State.writeJournal_keeps)
    | (with_reducible apply State.writeLog_keeps)
    | (with_reducible apply State.writeSnap_keeps)
    | (with_reducible apply Keeps.ite)
    | (with_reducible refine Keeps.upd rfl rfl rfl rfl rfl rfl rfl rfl rfl rfl rfl rfl rfl rfl rfl rfl ?_; first | (with_reducible assumption) | (with_reducible apply State.writeJournal_keeps) | (with_reducible apply State.writeLog_keeps) | (with_reducible apply State.writeSnap_keeps) | (with_reducible apply Keeps.ite) | split)
    | split
    | (refine Keeps.updF rfl rfl rfl rfl rfl rfl rfl rfl rfl rfl rfl rfl rfl rfl rfl rfl ?_; first | (with_reducible assumption) | (with_reducible apply State.writeJournal_keeps) | (with_reducible apply State.writeLog_keeps) | (with_reducible apply State.writeSnap_keeps) | (with_reducible apply Keeps.ite) | split)

theorem execCollapse_keeps (mv : Nat) (hz : Keeps z s) : ∃ y, execCollapse mv s = .next y ∧ Keeps z y := by
  unfold execCollapse
  refine ⟨_, rfl, ?_⟩
  repeat' first
    | (with_reducible assumption)
    | (intro (x : State); refine_lift have : Keeps z x := ?val; ?main; (case' val => subst x); (case' main => first | clear_value x | subst x))
    | (intro x; subst x)
    | intro _
    | lift_lets
    | (with_reducible apply State.cutWrite_keeps)
    | (with_reducible apply State.releaseOutputs_keeps)
    | (with_reducible apply Keeps.ite)
    | (with_reducible refine Keeps.upd rfl rfl rfl rfl rfl rfl rfl rfl rfl rfl rfl rfl rfl rfl rfl rfl ?_; first | (with_reducible assumption) | (with_reducible apply State.cutWrite_keeps) | (with_reducible apply State.releaseOutputs_keeps) | (with_reducible apply Keeps.ite) | split)
    | split

theorem State.adoptFront_keeps (hz : Keeps z s) : Keeps z (State.adoptFront s) := by
  unfold State.adoptFront
  repeat' first
    | (with_reducible assumption)
    | intro _
    | (with_reducible apply State.hsOn_keeps)
    | (with_reducible apply State.put_keeps)
    | (with_reducible apply Keeps.ite)
    | (refine Keeps.fst ?_ (by assumption))
    | (with_reducible refine Keeps.upd rfl rfl rfl rfl rfl rfl rfl rfl rfl rfl rfl rfl rfl rfl rfl rfl ?_; first | (with_reducible assumption) | (with_reducible apply State.hsOn_keeps) | (with_reducible apply State.put_keeps) | (with_reducible apply Keeps.ite) | split)
    | split

theorem State.adoptRails_keeps (hz : Keeps z s) : Keeps z (State.adoptRails s) := by
  unfold State.adoptRails
  repeat' first
    | (with_reducible assumption)
    | (intro x; subst x)
    | intro _
    | lift_lets
    | (with_reducible apply State.forRails_keeps)
    | (with_reducible apply State.modRail_keeps)
    | (with_reducible apply State.setRail_keeps)
    | (with_reducible apply Keeps.ite)

theorem State.adoptSeq_keeps (hz : Keeps z s) : Keeps z (State.adoptSeq s).1 := by
  unfold State.adoptSeq
  repeat' first
    | (with_reducible assumption)
    | (intro (x : State); refine_lift have : Keeps z x := ?val; ?main; (case' val => subst x); (case' main => first | clear_value x | subst x))
    | (intro x; subst x)
    | intro _
    | lift_lets
    | (with_reducible apply State.forRails_keeps)
    | (with_reducible apply State.modRail_keeps)
    | (with_reducible apply State.put_keeps)
    | (with_reducible apply State.seqComplete_keeps)
    | (with_reducible apply State.shutdown_keeps)
    | (with_reducible apply State.startRails_keeps)
    | (with_reducible apply Keeps.ite)
    | (with_reducible refine Keeps.upd rfl rfl rfl rfl rfl rfl rfl rfl rfl rfl rfl rfl rfl rfl rfl rfl ?_; first | (with_reducible assumption) | (with_reducible apply State.forRails_keeps) | (with_reducible apply State.modRail_keeps) | (with_reducible apply State.put_keeps) | (with_reducible apply State.seqComplete_keeps) | (with_reducible apply State.shutdown_keeps) | (with_reducible apply State.startRails_keeps) | (with_reducible apply Keeps.ite) | split)

theorem State.adoptSwarm_keeps (hz : Keeps z s) : Keeps z (State.adoptSwarm s) := by
  unfold State.adoptSwarm
  repeat' first
    | (with_reducible assumption)
    | (intro x; subst x)
    | intro _
    | lift_lets
    | (with_reducible refine Keeps.upd rfl rfl rfl rfl rfl rfl rfl rfl rfl rfl rfl rfl rfl rfl rfl rfl ?_; first | (with_reducible assumption))

theorem execWarmAdopt_keeps (hz : Keeps z s) : ∃ y, execWarmAdopt s = .next y ∧ Keeps z y := by
  unfold execWarmAdopt
  refine ⟨_, rfl, ?_⟩
  repeat' first
    | (with_reducible assumption)
    | (intro (x : State); refine_lift have : Keeps z x := ?val; ?main; (case' val => subst x); (case' main => first | clear_value x | subst x))
    | (intro x; subst x)
    | intro _
    | lift_lets
    | (with_reducible apply State.adoptFront_keeps)
    | (with_reducible apply State.adoptRails_keeps)
    | (with_reducible apply State.adoptSeq_keeps)
    | (with_reducible apply State.adoptSwarm_keeps)
    | (with_reducible apply State.log_keeps)
    | (with_reducible apply Keeps.ite)
    | (refine Keeps.fst ?_ (by assumption))
    | (with_reducible refine Keeps.upd rfl rfl rfl rfl rfl rfl rfl rfl rfl rfl rfl rfl rfl rfl rfl rfl ?_; first  | (with_reducible assumption))

end Sys2Proof.Machine
end

