-- ==== Sys2Proof/Laws/KeepsMeasure.lean ====
section
/-!
SUPPORT. Every operation of Machine/Measure.lean keeps (Laws/Keeps.lean).
-/

namespace Sys2Proof.Machine

variable {z s : State}

set_option maxRecDepth 8000

theorem State.signed_keeps (hz : Keeps z s) : Keeps z (State.signed s).1 := by
  unfold State.signed
  dsimp only
  repeat' first
    | (with_reducible assumption)
    | intro _
    | (with_reducible refine Keeps.upd rfl rfl rfl rfl rfl rfl rfl rfl rfl rfl rfl rfl rfl rfl rfl rfl ?_; first  | (with_reducible assumption))
    | (refine Keeps.updF rfl rfl rfl rfl rfl rfl rfl rfl rfl rfl rfl rfl rfl rfl rfl rfl ?_; first | (with_reducible assumption))

theorem State.mctpSend_keeps (b : List Byte) (hz : Keeps z s) : Keeps z (State.mctpSend s b) := by
  unfold State.mctpSend
  repeat' first
    | (with_reducible assumption)
    | (intro (x : State); refine_lift have : Keeps z x := ?val; ?main; (case' val => subst x); (case' main => first | clear_value x | subst x))
    | (intro x; subst x)
    | intro _
    | lift_lets
    | (with_reducible apply State.emit_keeps)
    | (with_reducible refine Keeps.foldl ?_ _ (fun _ _ _ => ?_))
    | (with_reducible refine Keeps.foldlPair ?_ _ (fun _ _ _ => ?_))

theorem State.spdmSend_keeps (c : Fin 3) (b : List Byte) (hz : Keeps z s) : Keeps z (State.spdmSend s c b) := by
  unfold State.spdmSend
  repeat' first
    | (with_reducible assumption)
    | intro _
    | (with_reducible apply State.emit_keeps)
    | (with_reducible apply State.mctpSend_keeps)
    | (with_reducible apply Keeps.ite)
    | split

theorem State.challengeAuth_keeps (req : List Byte) (hz : Keeps z s) : Keeps z (State.challengeAuth s req).1 := by
  unfold State.challengeAuth
  repeat' first
    | (with_reducible assumption)
    | (intro (x : State); refine_lift have : Keeps z x := ?val; ?main; (case' val => subst x); (case' main => first | clear_value x | subst x))
    | (intro x; subst x)
    | intro _
    | lift_lets
    | (with_reducible apply State.signed_keeps)
    | (with_reducible apply Keeps.ite)
    | (refine Keeps.fst ?_ (by assumption))
    | split

theorem State.measurements_keeps (req : List Byte) (hz : Keeps z s) : Keeps z (State.measurements s req).1 := by
  unfold State.measurements
  repeat' first
    | (with_reducible assumption)
    | (intro (x : State); refine_lift have : Keeps z x := ?val; ?main; (case' val => subst x); (case' main => first | clear_value x | subst x))
    | (intro x; subst x)
    | intro _
    | lift_lets
    | (with_reducible apply State.signed_keeps)
    | (with_reducible apply Keeps.ite)
    | (refine Keeps.fst ?_ (by assumption))
    | split

theorem State.signReply_keeps (c : Fin 3) (req : List Byte) (hz : Keeps z s) : Keeps z (State.signReply s c req) := by
  unfold State.signReply
  repeat' first
    | (with_reducible assumption)
    | (intro (x : State); refine_lift have : Keeps z x := ?val; ?main; (case' val => subst x); (case' main => first | clear_value x | subst x))
    | (intro x; subst x)
    | intro _
    | lift_lets
    | (with_reducible apply State.challengeAuth_keeps)
    | (with_reducible apply State.measurements_keeps)
    | (with_reducible apply State.spdmSend_keeps)
    | (with_reducible apply Keeps.ite)
    | (refine Keeps.fst ?_ (by assumption))
    | split

end Sys2Proof.Machine
end

