-- ==== Sys2Proof/Laws/KeepsSentinel.lean ====
section
/-!
SUPPORT. Every operation of Machine/Sentinel.lean keeps (Laws/Keeps.lean).
-/

namespace Sys2Proof.Machine

variable {z s : State}

set_option maxRecDepth 8000

theorem State.mbxPut_keeps (r : MbxReq) (hz : Keeps z s) : Keeps z (State.mbxPut s r) := by
  unfold State.mbxPut
  repeat' first
    | (with_reducible assumption)
    | intro _
    | (with_reducible apply State.mbxShow_keeps)
    | (with_reducible refine Keeps.upd rfl rfl rfl rfl rfl rfl rfl rfl rfl rfl rfl rfl rfl rfl rfl rfl ?_; first | (with_reducible assumption) | (with_reducible apply State.mbxShow_keeps) | split)

theorem State.mbxAsk_keeps (r : MbxReq) (hz : Keeps z s) : Keeps z (State.mbxAsk s r) := by
  unfold State.mbxAsk
  repeat' first
    | (with_reducible assumption)
    | intro _
    | (with_reducible apply State.mbxPut_keeps)
    | (with_reducible apply State.mbxRefused_keeps)
    | (with_reducible apply State.modCmd_keeps)
    | (with_reducible apply Keeps.ite)
    | (refine Keeps.fst ?_ (by assumption))
    | split

theorem execMailboxRequest_keeps (r : MbxReq) (hz : Keeps z s) : ∃ y, execMailboxRequest r s = .next y ∧ Keeps z y := by
  unfold execMailboxRequest
  refine ⟨_, rfl, ?_⟩
  repeat' first
    | (with_reducible assumption)
    | intro _
    | (with_reducible apply State.mbxAsk_keeps)
    | (with_reducible apply Keeps.ite)
    | split

theorem State.heartbeat_keeps (v : Word) (hz : Keeps z s) : Keeps z (State.heartbeat s v) := by
  unfold State.heartbeat
  repeat' first
    | (with_reducible assumption)
    | (intro (x : State); refine_lift have : Keeps z x := ?val; ?main; (case' val => subst x); (case' main => first | clear_value x | subst x))
    | (intro x; subst x)
    | intro _
    | lift_lets
    | (with_reducible apply State.count_keeps)
    | (with_reducible apply State.setReg_keeps)
    | (with_reducible apply Keeps.ite)
    | (with_reducible refine Keeps.upd rfl rfl rfl rfl rfl rfl rfl rfl rfl rfl rfl rfl rfl rfl rfl rfl ?_; first  | (with_reducible assumption))

theorem execHeartbeatPost_keeps (v : Word) (hz : Keeps z s) : ∃ y, execHeartbeatPost v s = .next y ∧ Keeps z y := by
  unfold execHeartbeatPost
  refine ⟨_, rfl, ?_⟩
  repeat' first
    | (with_reducible assumption)
    | intro _
    | (with_reducible apply State.mbxAsk_keeps)
    | (with_reducible apply Keeps.ite)
    | split

theorem State.mbxFree_keeps (r : MbxReq) (hz : Keeps z s) : Keeps z (State.mbxFree s r) := by
  unfold State.mbxFree
  repeat' first
    | (with_reducible assumption)
    | intro _
    | (with_reducible apply State.mbxShow_keeps)
    | (with_reducible refine Keeps.upd rfl rfl rfl rfl rfl rfl rfl rfl rfl rfl rfl rfl rfl rfl rfl rfl ?_; first | (with_reducible assumption) | (with_reducible apply State.mbxShow_keeps) | split)

theorem State.mbxAnswered_keeps (t : Tag) (hz : Keeps z s) : Keeps z (State.mbxAnswered s t) := by
  unfold State.mbxAnswered
  repeat' first
    | (with_reducible assumption)
    | intro _
    | (with_reducible apply Keeps.ite)
    | (with_reducible refine Keeps.upd rfl rfl rfl rfl rfl rfl rfl rfl rfl rfl rfl rfl rfl rfl rfl rfl ?_; first | (with_reducible assumption) | (with_reducible apply Keeps.ite) | split)
    | split

theorem State.serveCmd_keeps (c : Cmd) (e : SqEntry) (hz : Keeps z s) : Keeps z (State.serveCmd s c e) := by
  unfold State.serveCmd
  repeat' first
    | (with_reducible assumption)
    | (intro (x : State); refine_lift have : Keeps z x := ?val; ?main; (case' val => subst x); (case' main => first | clear_value x | subst x))
    | (intro x; subst x)
    | intro _
    | lift_lets
    | (with_reducible apply State.complete_keeps)
    | (with_reducible apply State.mbxAnswered_keeps)
    | (with_reducible apply State.mbxFree_keeps)
    | (with_reducible apply State.mbxShow_keeps)
    | (with_reducible apply State.modCmd_keeps)
    | (with_reducible apply State.refuseNote_keeps)
    | (with_reducible apply Keeps.ite)
    | (refine Keeps.fst ?_ (by assumption))
    | split

theorem State.serveOwn_keeps (x1 : MbxReq) (hz : Keeps z s) : Keeps z (State.serveOwn s x1) := by
  unfold State.serveOwn
  repeat' first
    | (with_reducible assumption)
    | (intro (x : State); refine_lift have : Keeps z x := ?val; ?main; (case' val => subst x); (case' main => first | clear_value x | subst x))
    | (intro x; subst x)
    | intro _
    | lift_lets
    | (with_reducible apply State.emit_keeps)
    | (with_reducible apply State.heartbeat_keeps)
    | (with_reducible apply State.logAt_keeps)
    | (with_reducible apply State.mbxRefuse_keeps)
    | (with_reducible apply State.postRemote_keeps)
    | (with_reducible apply State.signReply_keeps)
    | (with_reducible apply State.touch_keeps)
    | (with_reducible apply Keeps.ite)
    | split

theorem execMailboxServe_keeps (hz : Keeps z s) : ∃ y, execMailboxServe s = .next y ∧ Keeps z y := by
  unfold execMailboxServe
  refine ⟨_, rfl, ?_⟩
  repeat' first
    | (with_reducible assumption)
    | intro _
    | (with_reducible apply State.mbxFree_keeps)
    | (with_reducible apply State.serveCmd_keeps)
    | (with_reducible apply State.serveOwn_keeps)
    | (with_reducible apply Keeps.ite)
    | (refine Keeps.fst ?_ (by assumption))
    | split

theorem execHeartbeatLost_keeps (hz : Keeps z s) : ∃ y, execHeartbeatLost s = .next y ∧ Keeps z y := by
  unfold execHeartbeatLost
  refine ⟨_, rfl, ?_⟩
  repeat' first
    | (with_reducible assumption)
    | (intro (x : State); refine_lift have : Keeps z x := ?val; ?main; (case' val => subst x); (case' main => first | clear_value x | subst x))
    | (intro x; subst x)
    | intro _
    | lift_lets
    | (with_reducible apply State.heartbeat_keeps)
    | (with_reducible apply State.log_keeps)
    | (with_reducible apply State.mbxShow_keeps)
    | (with_reducible apply Keeps.ite)
    | (refine Keeps.fst ?_ (by assumption))
    | (with_reducible refine Keeps.upd rfl rfl rfl rfl rfl rfl rfl rfl rfl rfl rfl rfl rfl rfl rfl rfl ?_; first | (with_reducible assumption) | (with_reducible apply State.heartbeat_keeps) | (with_reducible apply State.log_keeps) | (with_reducible apply State.mbxShow_keeps) | (with_reducible apply Keeps.ite) | split)

theorem execHbRestartsClear_keeps (hz : Keeps z s) : ∃ y, execHbRestartsClear s = .next y ∧ Keeps z y := by
  unfold execHbRestartsClear
  refine ⟨_, rfl, ?_⟩
  repeat' first
    | (with_reducible assumption)
    | (intro (x : State); refine_lift have : Keeps z x := ?val; ?main; (case' val => subst x); (case' main => first | clear_value x | subst x))
    | (intro x; subst x)
    | intro _
    | lift_lets
    | (with_reducible apply State.put_keeps)
    | (with_reducible apply Keeps.ite)
    | (with_reducible refine Keeps.upd rfl rfl rfl rfl rfl rfl rfl rfl rfl rfl rfl rfl rfl rfl rfl rfl ?_; first  | (with_reducible assumption))

end Sys2Proof.Machine
end

