-- ==== Sys2Proof/Laws/KeepsHost.lean ====
section
/-!
SUPPORT. Every operation of Machine/Host.lean keeps (Laws/Keeps.lean).
-/

namespace Sys2Proof.Machine

variable {z s : State}

set_option maxRecDepth 8000

theorem State.pmeTry_keeps (p : Port) (hz : Keeps z s) : Keeps z (State.pmeTry s p) := by
  unfold State.pmeTry
  repeat' first
    | (with_reducible assumption)
    | (intro (x : State); refine_lift have : Keeps z x := ?val; ?main; (case' val => subst x); (case' main => first | clear_value x | subst x))
    | (intro x; subst x)
    | intro _
    | lift_lets
    | (with_reducible apply State.emit_keeps)
    | (with_reducible apply State.put_keeps)
    | (with_reducible apply State.servedShow_keeps)
    | (with_reducible apply Keeps.ite)
    | (with_reducible refine Keeps.upd rfl rfl rfl rfl rfl rfl rfl rfl rfl rfl rfl rfl rfl rfl rfl rfl ?_; first | (with_reducible assumption) | (with_reducible apply State.emit_keeps) | (with_reducible apply State.put_keeps) | (with_reducible apply State.servedShow_keeps) | (with_reducible apply Keeps.ite) | split)
    | split

theorem State.setFn_keeps (p : Port) (fn : Nat) (b : Bool) (hz : Keeps z s) : Keeps z (State.setFn s p fn b) := by
  unfold State.setFn
  repeat' first
    | (with_reducible assumption)
    | (intro x; subst x)
    | intro _
    | lift_lets
    | (with_reducible apply Keeps.ite)
    | (with_reducible refine Keeps.upd rfl rfl rfl rfl rfl rfl rfl rfl rfl rfl rfl rfl rfl rfl rfl rfl ?_; first  | (with_reducible assumption))

theorem State.setDown_keeps (p : Port) (d : Option Nat) (hz : Keeps z s) : Keeps z (State.setDown s p d) := by
  unfold State.setDown
  repeat' first
    | (with_reducible assumption)
    | intro _
    | (with_reducible apply Keeps.ite)
    | (with_reducible refine Keeps.upd rfl rfl rfl rfl rfl rfl rfl rfl rfl rfl rfl rfl rfl rfl rfl rfl ?_; first  | (with_reducible assumption))

theorem execLinkUp_keeps (p : Port) (rate : Fin 4) (x2 : Bool) (hz : Keeps z s) : ∃ y, execLinkUp p rate x2 s = .next y ∧ Keeps z y := by
  unfold execLinkUp
  refine ⟨_, rfl, ?_⟩
  dsimp only
  repeat' first
    | (with_reducible assumption)
    | intro _
    | (with_reducible apply State.log_keeps)
    | (with_reducible apply State.putB_keeps)
    | (with_reducible apply State.put_keeps)
    | (with_reducible apply State.servedShow_keeps)
    | (with_reducible apply Keeps.ite)
    | (with_reducible refine Keeps.upd rfl rfl rfl rfl rfl rfl rfl rfl rfl rfl rfl rfl rfl rfl rfl rfl ?_; first | (with_reducible assumption) | (with_reducible apply State.log_keeps) | (with_reducible apply State.putB_keeps) | (with_reducible apply State.put_keeps) | (with_reducible apply State.servedShow_keeps) | (with_reducible apply Keeps.ite) | split)
    | split

theorem execHotReset_keeps (p : Port) (hz : Keeps z s) : ∃ y, execHotReset p s = .next y ∧ Keeps z y := by
  unfold execHotReset
  refine ⟨_, rfl, ?_⟩
  repeat' first
    | (with_reducible assumption)
    | (intro (x : State); refine_lift have : Keeps z x := ?val; ?main; (case' val => subst x); (case' main => first | clear_value x | subst x))
    | intro _
    | lift_lets
    | (with_reducible apply State.linkReset_keeps)
    | (with_reducible apply State.log_keeps)
    | (with_reducible apply State.rollback_keeps)
    | (with_reducible apply State.servedShow_keeps)
    | (with_reducible apply Keeps.ite)

theorem State.dlDown_keeps (p : Port) (hz : Keeps z s) : Keeps z (State.dlDown s p) := by
  unfold State.dlDown
  repeat' first
    | (with_reducible assumption)
    | (intro (x : State); refine_lift have : Keeps z x := ?val; ?main; (case' val => subst x); (case' main => first | clear_value x | subst x))
    | intro _
    | lift_lets
    | (with_reducible apply State.log_keeps)
    | (with_reducible apply State.put_keeps)
    | (with_reducible apply State.rollback_keeps)
    | (with_reducible apply State.setDown_keeps)
    | (with_reducible apply Keeps.ite)

theorem execDlDown_keeps (p : Port) (hz : Keeps z s) : ∃ y, execDlDown p s = .next y ∧ Keeps z y := by
  unfold execDlDown
  refine ⟨_, rfl, ?_⟩
  repeat' first
    | (with_reducible assumption)
    | intro _
    | (with_reducible apply State.dlDown_keeps)

theorem execPerstAssert_keeps (p : Port) (hz : Keeps z s) : ∃ y, execPerstAssert p s = .next y ∧ Keeps z y := by
  unfold execPerstAssert
  refine ⟨_, rfl, ?_⟩
  repeat' first
    | (with_reducible assumption)
    | intro _
    | (with_reducible apply State.dlDown_keeps)
    | (with_reducible apply Keeps.ite)
    | (with_reducible refine Keeps.upd rfl rfl rfl rfl rfl rfl rfl rfl rfl rfl rfl rfl rfl rfl rfl rfl ?_; first  | (with_reducible assumption))

theorem State.failoverMove_keeps (p : Port) (hz : Keeps z s) : Keeps z (State.failoverMove s p) := by
  unfold State.failoverMove
  repeat' first
    | (with_reducible assumption)
    | (intro (x : State); refine_lift have : Keeps z x := ?val; ?main; (case' val => subst x); (case' main => first | clear_value x | subst x))
    | (intro x; subst x)
    | intro _
    | lift_lets
    | (with_reducible apply State.failoverFrom_keeps)
    | (with_reducible refine Keeps.upd rfl rfl rfl rfl rfl rfl rfl rfl rfl rfl rfl rfl rfl rfl rfl rfl ?_; first  | (with_reducible assumption))

theorem State.failover_keeps (p : Port) (hz : Keeps z s) : Keeps z (State.failover s p) := by
  unfold State.failover
  repeat' first
    | (with_reducible assumption)
    | intro _
    | (with_reducible apply State.failoverMove_keeps)
    | (with_reducible apply State.linkReset_keeps)
    | (with_reducible apply State.servedShow_keeps)
    | (with_reducible apply State.setDown_keeps)

theorem execFailover_keeps (p : Port) (hz : Keeps z s) : ∃ y, execFailover p s = .next y ∧ Keeps z y := by
  unfold execFailover
  refine ⟨_, rfl, ?_⟩
  repeat' first
    | (with_reducible assumption)
    | intro _
    | (with_reducible apply State.failover_keeps)
    | (with_reducible apply Keeps.ite)
    | (refine Keeps.fst ?_ (by assumption))
    | (with_reducible refine Keeps.upd rfl rfl rfl rfl rfl rfl rfl rfl rfl rfl rfl rfl rfl rfl rfl rfl ?_; first | (with_reducible assumption) | (with_reducible apply State.failover_keeps) | (with_reducible apply Keeps.ite) | split)

theorem execPmeTurnOff_keeps (p : Port) (hz : Keeps z s) : ∃ y, execPmeTurnOff p s = .next y ∧ Keeps z y := by
  unfold execPmeTurnOff
  refine ⟨_, rfl, ?_⟩
  repeat' first
    | (with_reducible assumption)
    | intro _
    | (with_reducible apply State.pmeTry_keeps)
    | (with_reducible apply Keeps.ite)
    | (with_reducible refine Keeps.upd rfl rfl rfl rfl rfl rfl rfl rfl rfl rfl rfl rfl rfl rfl rfl rfl ?_; first  | (with_reducible assumption))

theorem execViOrphan_keeps (p : Port) (fn : Fin 17) (d3 : Bool) (hz : Keeps z s) : ∃ y, execViOrphan p fn d3 s = .next y ∧ Keeps z y := by
  unfold execViOrphan
  refine ⟨_, rfl, ?_⟩
  dsimp only
  repeat' first
    | (with_reducible assumption)
    | intro _
    | (with_reducible apply State.put_keeps)
    | (with_reducible apply State.servedShow_keeps)
    | (with_reducible apply State.setFn_keeps)
    | (with_reducible apply Keeps.ite)
    | split

theorem State.setCfg_keeps (p : Port) (fn : Nat) (c : FnCfg) (hz : Keeps z s) : Keeps z (State.setCfg s p fn c) := by
  unfold State.setCfg
  repeat' first
    | (with_reducible assumption)
    | intro _
    | (with_reducible apply Keeps.ite)
    | (with_reducible refine Keeps.upd rfl rfl rfl rfl rfl rfl rfl rfl rfl rfl rfl rfl rfl rfl rfl rfl ?_; first | (with_reducible assumption) | (with_reducible apply Keeps.ite) | split)
    | split

theorem execViServed_keeps (p : Port) (fn : Fin 17) (cfg : FnCfg) (hz : Keeps z s) : ∃ y, execViServed p fn cfg s = .next y ∧ Keeps z y := by
  unfold execViServed
  refine ⟨_, rfl, ?_⟩
  repeat' first
    | (with_reducible assumption)
    | (intro (x : State); refine_lift have : Keeps z x := ?val; ?main; (case' val => subst x); (case' main => first | clear_value x | subst x))
    | (intro x; subst x)
    | intro _
    | lift_lets
    | (with_reducible apply State.put_keeps)
    | (with_reducible apply State.servedShow_keeps)
    | (with_reducible apply State.setCfg_keeps)
    | (with_reducible apply State.setFn_keeps)
    | (with_reducible apply Keeps.ite)
    | split

theorem execBadAccess_keeps (p : Port) (fn : Fin 17) (bar2 : Bool) (off : BitVec 18) (kind : ReqKind) (hz : Keeps z s) : ∃ y, execBadAccess p fn bar2 off kind s = .next y ∧ Keeps z y := by
  unfold execBadAccess
  refine ⟨_, rfl, ?_⟩
  repeat' first
    | (with_reducible assumption)
    | (intro (x : State); refine_lift have : Keeps z x := ?val; ?main; (case' val => subst x); (case' main => first | clear_value x | subst x))
    | (intro x; subst x)
    | intro _
    | lift_lets
    | (with_reducible apply State.aerReport_keeps)
    | (with_reducible apply State.emit_keeps)
    | (with_reducible apply State.log_keeps)
    | (with_reducible apply State.putB_keeps)
    | (with_reducible apply State.put_keeps)
    | (with_reducible apply Keeps.ite)
    | split

theorem execUnboundAccess_keeps (p : Port) (v : Fin 16) (write : Bool) (hz : Keeps z s) : ∃ y, execUnboundAccess p v write s = .next y ∧ Keeps z y := by
  unfold execUnboundAccess
  refine ⟨_, rfl, ?_⟩
  repeat' first
    | (with_reducible assumption)
    | intro _
    | (with_reducible apply State.aerReport_keeps)
    | (with_reducible apply State.count_keeps)
    | (with_reducible apply State.emit_keeps)
    | (with_reducible apply Keeps.ite)
    | split

theorem execInvalidationRequest_keeps (p : Port) (fn : Fin 17) (pasid lo hi : Nat) (hz : Keeps z s) : ∃ y, execInvalidationRequest p fn pasid lo hi s = .next y ∧ Keeps z y := by
  unfold execInvalidationRequest
  refine ⟨_, rfl, ?_⟩
  repeat' first
    | (with_reducible assumption)
    | (intro x; subst x)
    | intro _
    | lift_lets
    | (with_reducible apply State.atcShow_keeps)
    | (with_reducible apply Keeps.ite)
    | (refine Keeps.fst ?_ (by assumption))
    | (with_reducible refine Keeps.upd rfl rfl rfl rfl rfl rfl rfl rfl rfl rfl rfl rfl rfl rfl rfl rfl ?_; first  | (with_reducible assumption))

theorem execInvalidationComplete_keeps (p : Port) (fn : Fin 17) (hz : Keeps z s) : ∃ y, execInvalidationComplete p fn s = .next y ∧ Keeps z y := by
  unfold execInvalidationComplete
  refine ⟨_, rfl, ?_⟩
  repeat' first
    | (with_reducible assumption)
    | intro _
    | (with_reducible apply State.atcShow_keeps)
    | (with_reducible apply State.emit_keeps)
    | (with_reducible apply Keeps.ite)
    | (refine Keeps.fst ?_ (by assumption))
    | (with_reducible refine Keeps.upd rfl rfl rfl rfl rfl rfl rfl rfl rfl rfl rfl rfl rfl rfl rfl rfl ?_; first | (with_reducible assumption) | (with_reducible apply State.atcShow_keeps) | (with_reducible apply State.emit_keeps) | (with_reducible apply Keeps.ite) | split)

theorem State.pgSuspend_keeps (x0 : PgFor) (hz : Keeps z s) : Keeps z (State.pgSuspend s x0) := by
  unfold State.pgSuspend
  repeat' first
    | (with_reducible assumption)
    | (intro (x : State); refine_lift have : Keeps z x := ?val; ?main; (case' val => subst x); (case' main => first | clear_value x | subst x))
    | intro _
    | lift_lets
    | (with_reducible apply State.admDrop_keeps)
    | (with_reducible apply State.modCch_keeps)
    | (with_reducible apply State.modChan_keeps)
    | (with_reducible apply State.portRelease_keeps)
    | (with_reducible apply State.put_keeps)
    | (with_reducible apply Keeps.ite)
    | (refine Keeps.fst ?_ (by assumption))
    | (with_reducible refine Keeps.upd rfl rfl rfl rfl rfl rfl rfl rfl rfl rfl rfl rfl rfl rfl rfl rfl ?_; first | (with_reducible assumption) | (with_reducible apply State.admDrop_keeps) | (with_reducible apply State.modCch_keeps) | (with_reducible apply State.modChan_keeps) | (with_reducible apply State.portRelease_keeps) | (with_reducible apply State.put_keeps) | (with_reducible apply Keeps.ite) | split)

theorem State.pgResume_keeps (x0 : PgFor) (hz : Keeps z s) : Keeps z (State.pgResume s x0) := by
  unfold State.pgResume
  repeat' first
    | (with_reducible assumption)
    | (intro (x : State); refine_lift have : Keeps z x := ?val; ?main; (case' val => subst x); (case' main => first | clear_value x | subst x))
    | intro _
    | lift_lets
    | (with_reducible apply State.dcKick_keeps)
    | (with_reducible apply State.dcProgress_keeps)
    | (with_reducible apply State.hostPut_keeps)
    | (with_reducible apply State.put_keeps)
    | (with_reducible apply State.scGo_keeps)
    | (with_reducible apply State.ssr_keeps)
    | (with_reducible apply Keeps.ite)
    | (refine Keeps.fst ?_ (by assumption))
    | (with_reducible refine Keeps.upd rfl rfl rfl rfl rfl rfl rfl rfl rfl rfl rfl rfl rfl rfl rfl rfl ?_; first | (with_reducible assumption) | (with_reducible apply State.dcKick_keeps) | (with_reducible apply State.dcProgress_keeps) | (with_reducible apply State.hostPut_keeps) | (with_reducible apply State.put_keeps) | (with_reducible apply State.scGo_keeps) | (with_reducible apply State.ssr_keeps) | (with_reducible apply Keeps.ite) | split)

theorem State.ssrFail_keeps (n : Nat) (b : List Byte) (hz : Keeps z s) : Keeps z (State.ssrFail s n b) := by
  unfold State.ssrFail
  repeat' first
    | (with_reducible assumption)
    | (intro (x : State); refine_lift have : Keeps z x := ?val; ?main; (case' val => subst x); (case' main => first | clear_value x | subst x))
    | (intro x; subst x)
    | intro _
    | lift_lets
    | (with_reducible apply State.admDrop_keeps)
    | (with_reducible apply State.logAt_keeps)
    | (with_reducible apply State.modSub_keeps)
    | (with_reducible apply State.portRelease_keeps)
    | (with_reducible apply State.put_keeps)
    | (with_reducible apply State.scPriDrop_keeps)

theorem State.crqFail_keeps (n : Nat) (a : Nat) (b : List Byte) (hz : Keeps z s) : Keeps z (State.crqFail s n a b) := by
  unfold State.crqFail
  repeat' first
    | (with_reducible assumption)
    | (intro (x : State); refine_lift have : Keeps z x := ?val; ?main; (case' val => subst x); (case' main => first | clear_value x | subst x))
    | (intro x; subst x)
    | intro _
    | lift_lets
    | (with_reducible apply State.admDrop_keeps)
    | (with_reducible apply State.dcPriDrop_keeps)
    | (with_reducible apply State.dcWaitEnd_keeps)
    | (with_reducible apply State.logAt_keeps)
    | (with_reducible apply State.modChan_keeps)
    | (with_reducible apply State.put_keeps)

theorem State.bufFail_keeps (t : Tag) (status : Nat) (hz : Keeps z s) : Keeps z (State.bufFail s t status) := by
  unfold State.bufFail
  repeat' first
    | (with_reducible assumption)
    | intro _
    | (with_reducible apply State.complete_keeps)
    | (refine Keeps.fst ?_ (by assumption))
    | split

theorem State.pgRefuse_keeps (g : PgFor) (addr : Nat) (hz : Keeps z s) : Keeps z (State.pgRefuse s g addr) := by
  unfold State.pgRefuse
  repeat' first
    | (with_reducible assumption)
    | (intro (x : State); refine_lift have : Keeps z x := ?val; ?main; (case' val => subst x); (case' main => first | clear_value x | subst x))
    | (intro x; subst x)
    | intro _
    | lift_lets
    | (with_reducible apply State.bufFail_keeps)
    | (with_reducible apply State.crqFail_keeps)
    | (with_reducible apply State.dcBegin_keeps)
    | (with_reducible apply State.dcRecord_keeps)
    | (with_reducible apply State.log_keeps)
    | (with_reducible apply State.modChan_keeps)
    | (with_reducible apply State.put_keeps)
    | (with_reducible apply State.scFail_keeps)
    | (with_reducible apply State.ssrFail_keeps)
    | (with_reducible apply Keeps.ite)
    | (refine Keeps.fst ?_ (by assumption))
    | split

theorem State.atcDrop_keeps (w : Who) (addr : Nat) (hz : Keeps z s) : Keeps z (State.atcDrop s w addr) := by
  unfold State.atcDrop
  repeat' first
    | (with_reducible assumption)
    | (intro (x : State); refine_lift have : Keeps z x := ?val; ?main; (case' val => subst x); (case' main => first | clear_value x | subst x))
    | (intro x; subst x)
    | intro _
    | lift_lets
    | (with_reducible apply State.atcShow_keeps)
    | (refine Keeps.fst ?_ (by assumption))
    | (with_reducible refine Keeps.upd rfl rfl rfl rfl rfl rfl rfl rfl rfl rfl rfl rfl rfl rfl rfl rfl ?_; first | (with_reducible assumption) | (with_reducible apply State.atcShow_keeps) | split)

theorem execTranslationFault_keeps (g : PgFor) (addr : Nat) (write : Bool) (hz : Keeps z s) : ∃ y, execTranslationFault g addr write s = .next y ∧ Keeps z y := by
  unfold execTranslationFault
  refine ⟨_, rfl, ?_⟩
  repeat' first
    | (with_reducible assumption)
    | (intro (x : State); refine_lift have : Keeps z x := ?val; ?main; (case' val => subst x); (case' main => first | clear_value x | subst x))
    | (intro x; subst x)
    | intro _
    | lift_lets
    | (with_reducible apply State.atcDrop_keeps)
    | (with_reducible apply State.atcShow_keeps)
    | (with_reducible apply State.dcProgress_keeps)
    | (with_reducible apply State.modChan_keeps)
    | (with_reducible apply State.pgRefuse_keeps)
    | (with_reducible apply State.pgSuspend_keeps)
    | (with_reducible apply State.priSend_keeps)
    | (with_reducible apply Keeps.ite)
    | (refine Keeps.fst ?_ (by assumption))
    | (with_reducible refine Keeps.upd rfl rfl rfl rfl rfl rfl rfl rfl rfl rfl rfl rfl rfl rfl rfl rfl ?_; first | (with_reducible assumption) | (with_reducible apply State.atcDrop_keeps) | (with_reducible apply State.atcShow_keeps) | (with_reducible apply State.dcProgress_keeps) | (with_reducible apply State.modChan_keeps) | (with_reducible apply State.pgRefuse_keeps) | (with_reducible apply State.pgSuspend_keeps) | (with_reducible apply State.priSend_keeps) | (with_reducible apply Keeps.ite) | split)
    | split

theorem State.priEnd_keeps (q : PageReq) (ok : Bool) (hz : Keeps z s) : Keeps z (State.priEnd s q ok) := by
  unfold State.priEnd
  repeat' first
    | (with_reducible assumption)
    | (intro (x : State); refine_lift have : Keeps z x := ?val; ?main; (case' val => subst x); (case' main => first | clear_value x | subst x))
    | (intro x; subst x)
    | intro _
    | lift_lets
    | (with_reducible apply State.pgRefuse_keeps)
    | (with_reducible apply State.pgResume_keeps)
    | (with_reducible apply State.priDrop_keeps)
    | (with_reducible apply Keeps.ite)
    | split

theorem execPageRequestResponse_keeps (g : PgFor) (ok : Bool) (hz : Keeps z s) : ∃ y, execPageRequestResponse g ok s = .next y ∧ Keeps z y := by
  unfold execPageRequestResponse
  refine ⟨_, rfl, ?_⟩
  repeat' first
    | (with_reducible assumption)
    | intro _
    | (with_reducible apply State.priEnd_keeps)
    | (refine Keeps.fst ?_ (by assumption))
    | (with_reducible refine Keeps.upd rfl rfl rfl rfl rfl rfl rfl rfl rfl rfl rfl rfl rfl rfl rfl rfl ?_; first | (with_reducible assumption) | (with_reducible apply State.priEnd_keeps) | split)

theorem execPriTimeout_keeps (g : PgFor) (hz : Keeps z s) : ∃ y, execPriTimeout g s = .next y ∧ Keeps z y := by
  unfold execPriTimeout
  refine ⟨_, rfl, ?_⟩
  repeat' first
    | (with_reducible assumption)
    | intro _
    | (with_reducible apply State.priEnd_keeps)
    | (with_reducible apply Keeps.ite)
    | (refine Keeps.fst ?_ (by assumption))
    | (with_reducible refine Keeps.upd rfl rfl rfl rfl rfl rfl rfl rfl rfl rfl rfl rfl rfl rfl rfl rfl ?_; first | (with_reducible assumption) | (with_reducible apply State.priEnd_keeps) | (with_reducible apply Keeps.ite) | split)

theorem State.complTimeout_keeps (addr : Nat) (x2 : PgFor) (hz : Keeps z s) : Keeps z (State.complTimeout s addr x2) := by
  unfold State.complTimeout
  repeat' first
    | (with_reducible assumption)
    | (intro (x : State); refine_lift have : Keeps z x := ?val; ?main; (case' val => subst x); (case' main => first | clear_value x | subst x))
    | (intro x; subst x)
    | intro _
    | lift_lets
    | (with_reducible apply State.bufFail_keeps)
    | (with_reducible apply State.dcDataError_keeps)
    | (with_reducible apply State.engineStop_keeps)
    | (with_reducible apply State.modCch_keeps)
    | (with_reducible apply State.modChan_keeps)
    | (with_reducible apply State.scFail_keeps)
    | (with_reducible apply State.scStop_keeps)
    | (with_reducible apply Keeps.ite)
    | (refine Keeps.fst ?_ (by assumption))
    | split

theorem execCompletionTimeout_keeps (g : PgFor) (addr : Nat) (hz : Keeps z s) : ∃ y, execCompletionTimeout g addr s = .next y ∧ Keeps z y := by
  unfold execCompletionTimeout
  refine ⟨_, rfl, ?_⟩
  repeat' first
    | (with_reducible assumption)
    | (intro (x : State); refine_lift have : Keeps z x := ?val; ?main; (case' val => subst x); (case' main => first | clear_value x | subst x))
    | (intro x; subst x)
    | intro _
    | lift_lets
    | (with_reducible apply State.aerReport_keeps)
    | (with_reducible apply State.complTimeout_keeps)
    | (with_reducible apply Keeps.ite)
    | split

theorem State.msixReset_keeps (w : Who) (p : Port) (hz : Keeps z s) : Keeps z (State.msixReset s w p) := by
  unfold State.msixReset
  repeat' first
    | (with_reducible assumption)
    | (intro x; subst x)
    | intro _
    | lift_lets
    | (with_reducible apply State.capDrop_keeps)
    | (with_reducible apply Keeps.keepRegs)
    | (refine Keeps.fst ?_ (by assumption))
    | (with_reducible refine Keeps.upd rfl rfl rfl rfl rfl rfl rfl rfl rfl rfl rfl rfl rfl rfl rfl rfl ?_; first | (with_reducible assumption) | (with_reducible apply State.capDrop_keeps) | split)
    | split

theorem State.flrEnd_keeps (v : Fin 16) (hz : Keeps z s) : Keeps z (State.flrEnd s v) := by
  unfold State.flrEnd
  repeat' first
    | (with_reducible assumption)
    | (intro (x : State); refine_lift have : Keeps z x := ?val; ?main; (case' val => subst x); (case' main => first | clear_value x | subst x))
    | (intro x; subst x)
    | intro _
    | lift_lets
    | (with_reducible apply State.log_keeps)
    | (with_reducible apply State.viReset_keeps)

theorem State.flrTry_keeps (hz : Keeps z s) : Keeps z (State.flrTry s) := by
  unfold State.flrTry
  repeat' first
    | (with_reducible assumption)
    | intro _
    | (with_reducible apply State.flrEnd_keeps)
    | (with_reducible apply Keeps.ite)
    | (with_reducible refine Keeps.foldl ?_ _ (fun _ _ _ => ?_))
    | (with_reducible refine Keeps.foldlPair ?_ _ (fun _ _ _ => ?_))
    | (with_reducible refine Keeps.upd rfl rfl rfl rfl rfl rfl rfl rfl rfl rfl rfl rfl rfl rfl rfl rfl ?_; first | (with_reducible assumption) | (with_reducible apply State.flrEnd_keeps) | (with_reducible apply Keeps.ite) | (with_reducible refine Keeps.foldl ?_ _ (fun _ _ _ => ?_)) | split)
    | split

theorem execVfFlr_keeps (p : Port) (v : Fin 16) (hz : Keeps z s) : ∃ y, execVfFlr p v s = .next y ∧ Keeps z y := by
  unfold execVfFlr
  refine ⟨_, rfl, ?_⟩
  repeat' first
    | (with_reducible assumption)
    | (intro (x : State); refine_lift have : Keeps z x := ?val; ?main; (case' val => subst x); (case' main => first | clear_value x | subst x))
    | (intro x; subst x)
    | intro _
    | lift_lets
    | (with_reducible apply State.failover_keeps)
    | (with_reducible apply State.flrEnd_keeps)
    | (with_reducible apply State.log_keeps)
    | (with_reducible apply State.msixReset_keeps)
    | (with_reducible apply State.servedShow_keeps)
    | (with_reducible apply State.setCfg_keeps)
    | (with_reducible apply State.setFn_keeps)
    | (with_reducible apply Keeps.ite)
    | (with_reducible refine Keeps.upd rfl rfl rfl rfl rfl rfl rfl rfl rfl rfl rfl rfl rfl rfl rfl rfl ?_; first | (with_reducible assumption) | (with_reducible apply State.failover_keeps) | (with_reducible apply State.flrEnd_keeps) | (with_reducible apply State.log_keeps) | (with_reducible apply State.msixReset_keeps) | (with_reducible apply State.servedShow_keeps) | (with_reducible apply State.setCfg_keeps) | (with_reducible apply State.setFn_keeps) | (with_reducible apply Keeps.ite) | split)
    | split

theorem execPfFlr_keeps (p : Port) (hz : Keeps z s) : ∃ y, execPfFlr p s = .next y ∧ Keeps z y := by
  unfold execPfFlr
  refine ⟨_, rfl, ?_⟩
  dsimp only
  repeat' first
    | (with_reducible assumption)
    | intro _
    | (with_reducible apply State.failoverMove_keeps)
    | (with_reducible apply State.linkReset_keeps)
    | (with_reducible apply State.log_keeps)
    | (with_reducible apply State.put_keeps)
    | (with_reducible apply State.rollback_keeps)
    | (with_reducible apply State.servedShow_keeps)
    | (with_reducible apply Keeps.ite)
    | (with_reducible refine Keeps.foldl ?_ _ (fun _ _ _ => ?_))

theorem execSmbcfgWrite_keeps (p : Port) (v : Word) (hz : Keeps z s) : ∃ y, execSmbcfgWrite p v s = .next y ∧ Keeps z y := by
  unfold execSmbcfgWrite
  refine ⟨_, rfl, ?_⟩
  repeat' first
    | (with_reducible assumption)
    | (intro (x : State); refine_lift have : Keeps z x := ?val; ?main; (case' val => subst x); (case' main => first | clear_value x | subst x))
    | intro _
    | lift_lets
    | (with_reducible apply State.journal_keeps)
    | (with_reducible apply State.put_keeps)
    | (with_reducible apply State.touch_keeps)
    | (with_reducible apply Keeps.ite)

end Sys2Proof.Machine
end

