-- ==== Sys2Proof/Laws/KeepsSideband.lean ====
section
/-!
SUPPORT. Every operation of Machine/Sideband.lean keeps (Laws/Keeps.lean).
-/

namespace Sys2Proof.Machine

variable {z s : State}

set_option maxRecDepth 8000

theorem State.smbReply_keeps (cmd : Nat) (bytes : List Byte) (hz : Keeps z s) : Keeps z (State.smbReply s cmd bytes) := by
  unfold State.smbReply
  repeat' first
    | (with_reducible assumption)
    | (intro x; subst x)
    | intro _
    | lift_lets
    | (with_reducible apply State.emit_keeps)
    | (with_reducible apply Keeps.ite)

theorem State.smbBlock_keeps (cmd : Nat) (bytes : List Byte) (hz : Keeps z s) : Keeps z (State.smbBlock s cmd bytes) := by
  unfold State.smbBlock
  repeat' first
    | (with_reducible assumption)
    | intro _
    | (with_reducible apply State.smbReply_keeps)

theorem execSmbIdentity_keeps (hz : Keeps z s) : ∃ y, execSmbIdentity s = .next y ∧ Keeps z y := by
  unfold execSmbIdentity
  refine ⟨_, rfl, ?_⟩
  repeat' first
    | (with_reducible assumption)
    | intro _
    | (with_reducible apply State.smbBlock_keeps)

theorem execSmbPowerState_keeps (hz : Keeps z s) : ∃ y, execSmbPowerState s = .next y ∧ Keeps z y := by
  unfold execSmbPowerState
  refine ⟨_, rfl, ?_⟩
  repeat' first
    | (with_reducible assumption)
    | intro _
    | (with_reducible apply State.smbReply_keeps)

theorem execSmbSeqState_keeps (hz : Keeps z s) : ∃ y, execSmbSeqState s = .next y ∧ Keeps z y := by
  unfold execSmbSeqState
  refine ⟨_, rfl, ?_⟩
  repeat' first
    | (with_reducible assumption)
    | intro _
    | (with_reducible apply State.smbReply_keeps)

theorem execSmbEnergy_keeps (hz : Keeps z s) : ∃ y, execSmbEnergy s = .next y ∧ Keeps z y := by
  unfold execSmbEnergy
  refine ⟨_, rfl, ?_⟩
  repeat' first
    | (with_reducible assumption)
    | intro _
    | (with_reducible apply State.smbBlock_keeps)

theorem execSmbThermal_keeps (hz : Keeps z s) : ∃ y, execSmbThermal s = .next y ∧ Keeps z y := by
  unfold execSmbThermal
  refine ⟨_, rfl, ?_⟩
  repeat' first
    | (with_reducible assumption)
    | intro _
    | (with_reducible apply State.smbBlock_keeps)

theorem execSmbTimestamp_keeps (hz : Keeps z s) : ∃ y, execSmbTimestamp s = .next y ∧ Keeps z y := by
  unfold execSmbTimestamp
  refine ⟨_, rfl, ?_⟩
  repeat' first
    | (with_reducible assumption)
    | (intro (x : State); refine_lift have : Keeps z x := ?val; ?main; (case' val => subst x); (case' main => first | clear_value x | subst x))
    | intro _
    | lift_lets
    | (with_reducible apply State.smbBlock_keeps)
    | (with_reducible apply State.touch_keeps)
    | (with_reducible apply Keeps.ite)

theorem execSmbFaults_keeps (hz : Keeps z s) : ∃ y, execSmbFaults s = .next y ∧ Keeps z y := by
  unfold execSmbFaults
  refine ⟨_, rfl, ?_⟩
  repeat' first
    | (with_reducible assumption)
    | intro _
    | lift_lets
    | (with_reducible apply State.smbBlock_keeps)

theorem execSmbLastEvent_keeps (hz : Keeps z s) : ∃ y, execSmbLastEvent s = .next y ∧ Keeps z y := by
  unfold execSmbLastEvent
  refine ⟨_, rfl, ?_⟩
  repeat' first
    | (with_reducible assumption)
    | intro _
    | (with_reducible apply State.smbBlock_keeps)
    | (refine Keeps.fst ?_ (by assumption))
    | split

theorem execSmbUnsupported_keeps (_cmd : Byte) (hz : Keeps z s) : ∃ y, execSmbUnsupported _cmd s = .next y ∧ Keeps z y := by
  unfold execSmbUnsupported
  refine ⟨_, rfl, ?_⟩
  repeat' first
    | (with_reducible assumption)
    | intro _
    | (with_reducible apply State.emit_keeps)
    | (with_reducible apply Keeps.ite)

theorem State.mctp_keeps (pec : Bool) (code : Nat) (body : List Byte) (hz : Keeps z s) : Keeps z (State.mctp s pec code body) := by
  unfold State.mctp
  repeat' first
    | (with_reducible assumption)
    | intro _
    | (with_reducible apply State.emit_keeps)
    | (with_reducible apply State.mctpSend_keeps)
    | (with_reducible apply Keeps.ite)
    | split

theorem execSetEndpointId_keeps (eid : Byte) (pec : Bool) (hz : Keeps z s) : ∃ y, execSetEndpointId eid pec s = .next y ∧ Keeps z y := by
  unfold execSetEndpointId
  refine ⟨_, rfl, ?_⟩
  repeat' first
    | (with_reducible assumption)
    | (intro (x : State); refine_lift have : Keeps z x := ?val; ?main; (case' val => subst x); (case' main => first | clear_value x | subst x))
    | intro _
    | lift_lets
    | (with_reducible apply State.mctp_keeps)
    | (with_reducible apply State.put_keeps)
    | (with_reducible apply Keeps.ite)

theorem execGetEndpointId_keeps (pec : Bool) (hz : Keeps z s) : ∃ y, execGetEndpointId pec s = .next y ∧ Keeps z y := by
  unfold execGetEndpointId
  refine ⟨_, rfl, ?_⟩
  repeat' first
    | (with_reducible assumption)
    | intro _
    | (with_reducible apply State.mctp_keeps)

theorem execGetMctpVersionSupport_keeps (ty : Byte) (pec : Bool) (hz : Keeps z s) : ∃ y, execGetMctpVersionSupport ty pec s = .next y ∧ Keeps z y := by
  unfold execGetMctpVersionSupport
  refine ⟨_, rfl, ?_⟩
  repeat' first
    | (with_reducible assumption)
    | intro _
    | (with_reducible apply State.mctp_keeps)
    | (with_reducible apply Keeps.ite)

theorem execGetMessageTypeSupport_keeps (pec : Bool) (hz : Keeps z s) : ∃ y, execGetMessageTypeSupport pec s = .next y ∧ Keeps z y := by
  unfold execGetMessageTypeSupport
  refine ⟨_, rfl, ?_⟩
  repeat' first
    | (with_reducible assumption)
    | intro _
    | (with_reducible apply State.mctp_keeps)

theorem State.spdm_keeps (c : Fin 3) (req : List Byte) (need : Nat) (f : State → State) (Hf : ∀ y0, Keeps z y0 → Keeps z (f y0)) (hz : Keeps z s) : Keeps z (State.spdm s c req need f) := by
  unfold State.spdm
  repeat' first
    | (with_reducible assumption)
    | intro _
    | (with_reducible apply Hf)
    | (with_reducible apply State.emit_keeps)
    | (with_reducible apply State.spdmSend_keeps)
    | (with_reducible apply Keeps.ite)
    | split

theorem execGetVersion_keeps (c : Fin 3) (hz : Keeps z s) : ∃ y, execGetVersion c s = .next y ∧ Keeps z y := by
  unfold execGetVersion
  refine ⟨_, rfl, ?_⟩
  repeat' first
    | (with_reducible assumption)
    | intro _
    | (with_reducible apply State.put_keeps)
    | (with_reducible apply State.spdmSend_keeps)
    | (with_reducible apply State.spdm_keeps)

theorem execGetCapabilities_keeps (c : Fin 3) (req : List Byte) (hz : Keeps z s) : ∃ y, execGetCapabilities c req s = .next y ∧ Keeps z y := by
  unfold execGetCapabilities
  refine ⟨_, rfl, ?_⟩
  repeat' first
    | (with_reducible assumption)
    | intro _
    | (with_reducible apply State.put_keeps)
    | (with_reducible apply State.spdmSend_keeps)
    | (with_reducible apply State.spdm_keeps)

theorem execNegotiateAlgorithms_keeps (c : Fin 3) (req : List Byte) (hz : Keeps z s) : ∃ y, execNegotiateAlgorithms c req s = .next y ∧ Keeps z y := by
  unfold execNegotiateAlgorithms
  refine ⟨_, rfl, ?_⟩
  repeat' first
    | (with_reducible assumption)
    | (intro (x : State); refine_lift have : Keeps z x := ?val; ?main; (case' val => subst x); (case' main => first | clear_value x | subst x))
    | (intro x; subst x)
    | intro _
    | lift_lets
    | (with_reducible apply State.put_keeps)
    | (with_reducible apply State.spdmSend_keeps)
    | (with_reducible apply State.spdm_keeps)
    | (with_reducible apply Keeps.ite)
    | split

theorem execGetDigests_keeps (c : Fin 3) (req : List Byte) (hz : Keeps z s) : ∃ y, execGetDigests c req s = .next y ∧ Keeps z y := by
  unfold execGetDigests
  refine ⟨_, rfl, ?_⟩
  repeat' first
    | (with_reducible assumption)
    | intro _
    | (with_reducible apply State.spdmSend_keeps)
    | (with_reducible apply State.spdm_keeps)

theorem execGetCertificate_keeps (c : Fin 3) (req : List Byte) (hz : Keeps z s) : ∃ y, execGetCertificate c req s = .next y ∧ Keeps z y := by
  unfold execGetCertificate
  refine ⟨_, rfl, ?_⟩
  repeat' first
    | (with_reducible assumption)
    | (intro (x : State); refine_lift have : Keeps z x := ?val; ?main; (case' val => subst x); (case' main => first | clear_value x | subst x))
    | (intro x; subst x)
    | intro _
    | lift_lets
    | (with_reducible apply State.spdmSend_keeps)
    | (with_reducible apply State.spdm_keeps)
    | (with_reducible apply Keeps.ite)
    | split

theorem State.signAsk_keeps (c : Fin 3) (req : List Byte) (hz : Keeps z s) : Keeps z (State.signAsk s c req) := by
  unfold State.signAsk
  repeat' first
    | (with_reducible assumption)
    | intro _
    | (with_reducible apply State.mbxAsk_keeps)
    | (with_reducible apply State.spdmSend_keeps)
    | (with_reducible apply Keeps.ite)
    | split

theorem execChallenge_keeps (c : Fin 3) (req : List Byte) (hz : Keeps z s) : ∃ y, execChallenge c req s = .next y ∧ Keeps z y := by
  unfold execChallenge
  refine ⟨_, rfl, ?_⟩
  repeat' first
    | (with_reducible assumption)
    | intro _
    | (with_reducible apply State.signAsk_keeps)
    | (with_reducible apply State.spdmSend_keeps)
    | (with_reducible apply State.spdm_keeps)
    | (with_reducible apply Keeps.ite)
    | split

theorem execGetMeasurements_keeps (c : Fin 3) (req : List Byte) (hz : Keeps z s) : ∃ y, execGetMeasurements c req s = .next y ∧ Keeps z y := by
  unfold execGetMeasurements
  refine ⟨_, rfl, ?_⟩
  repeat' first
    | (with_reducible assumption)
    | (intro (x : State); refine_lift have : Keeps z x := ?val; ?main; (case' val => subst x); (case' main => first | clear_value x | subst x))
    | (intro x; subst x)
    | intro _
    | lift_lets
    | (with_reducible apply State.measurements_keeps)
    | (with_reducible apply State.signAsk_keeps)
    | (with_reducible apply State.spdmSend_keeps)
    | (with_reducible apply State.spdm_keeps)
    | (with_reducible apply Keeps.ite)
    | (refine Keeps.fst ?_ (by assumption))
    | split

theorem execSpdmUnsupported_keeps (c : Fin 3) (req : List Byte) (hz : Keeps z s) : ∃ y, execSpdmUnsupported c req s = .next y ∧ Keeps z y := by
  unfold execSpdmUnsupported
  refine ⟨_, rfl, ?_⟩
  repeat' first
    | (with_reducible assumption)
    | intro _
    | (with_reducible apply State.spdmSend_keeps)
    | (with_reducible apply State.spdm_keeps)

end Sys2Proof.Machine
end

