-- ==== Sys2Proof/Laws/KeepsCmdCore.lean ====
section
/-!
SUPPORT. Every operation of Machine/CmdCore.lean keeps (Laws/Keeps.lean).
-/

namespace Sys2Proof.Machine

variable {z s : State}

set_option maxRecDepth 8000

theorem execNop_keeps (t : Tag) (hz : Keeps z s) : ∃ y, execNop t s = .next y ∧ Keeps z y := by
  unfold execNop
  refine ⟨_, rfl, ?_⟩
  repeat' first
    | (with_reducible assumption)
    | intro _
    | (with_reducible apply State.done_keeps)
    | (with_reducible apply State.run_keeps)

theorem execEcho_keeps (t : Tag) (hz : Keeps z s) : ∃ y, execEcho t s = .next y ∧ Keeps z y := by
  unfold execEcho
  refine ⟨_, rfl, ?_⟩
  repeat' first
    | (with_reducible assumption)
    | intro _
    | (with_reducible apply State.done_keeps)
    | (with_reducible apply State.run_keeps)

theorem execGetTime_keeps (t : Tag) (hz : Keeps z s) : ∃ y, execGetTime t s = .next y ∧ Keeps z y := by
  unfold execGetTime
  refine ⟨_, rfl, ?_⟩
  repeat' first
    | (with_reducible assumption)
    | (intro x; subst x)
    | intro _
    | lift_lets
    | (with_reducible apply State.done_keeps)
    | (with_reducible apply State.run_keeps)
    | (with_reducible apply State.touch_keeps)

theorem execSetEvmask_keeps (t : Tag) (hz : Keeps z s) : ∃ y, execSetEvmask t s = .next y ∧ Keeps z y := by
  unfold execSetEvmask
  refine ⟨_, rfl, ?_⟩
  repeat' first
    | (with_reducible assumption)
    | (intro x; subst x)
    | intro _
    | lift_lets
    | (with_reducible apply State.done_keeps)
    | (with_reducible apply State.put_keeps)
    | (with_reducible apply State.run_keeps)

theorem execIdentify_keeps (t : Tag) (hz : Keeps z s) : ∃ y, execIdentify t s = .next y ∧ Keeps z y := by
  unfold execIdentify
  refine ⟨_, rfl, ?_⟩
  repeat' first
    | (with_reducible assumption)
    | intro _
    | (with_reducible apply State.doneBuf_keeps)
    | (with_reducible apply State.run_keeps)

theorem State.abortRun_keeps {d : Cmd} {p : State × Nat} (hz : Keeps z s) (e : State.abortRun s d = some p) :
    Keeps z p.1 := by
  unfold State.abortRun at e
  dsimp only at e
  repeat' split at e
  all_goals first
    | (cases e; done)
    | (cases e; exact State.cmdResidue_keeps _ hz)
    | (cases e; exact State.cmdResidue_keeps _ (Keeps.same hz rfl))
    | (cases e; exact State.cmdResidue_keeps _ (Keeps.foldl hz _ fun _ _ k => State.modCard_keeps _ _ k))

theorem execAbort_keeps (t : Tag) (hz : Keeps z s) : ∃ y, execAbort t s = .next y ∧ Keeps z y := by
  unfold execAbort
  refine ⟨_, rfl, State.run_keeps _ _ _ (fun x c h => ?_) hz⟩
  dsimp only
  split
  · exact State.complete_keeps _ _ _ _ h
  · refine Keeps.ite (State.complete_keeps _ _ _ _ h) (Keeps.ite ?_ (State.done_keeps _ _ _ (State.complete_keeps _ _ _ _ h)))
    split
    · rename_i e
      exact State.done_keeps _ _ _ (State.freeSP0_keeps (State.complete_keeps _ _ _ _ (State.abortRun_keeps h e)))
    · exact State.complete_keeps _ _ _ _ h

theorem State.stageRun_keeps (o : Origin) (w : Who) (l : List (Nat × Word × Word)) (hz : Keeps z s) :
    Keeps z (State.stageRun s o w l).1 := by
  induction l generalizing s with
  | nil => exact hz
  | cons x l ih =>
    obtain ⟨off, m, v⟩ := x
    unfold State.stageRun
    split
    · exact hz
    · split
      · exact State.mbxRefuse_keeps _ _ hz
      · dsimp only
        have h := State.stageWrite_keeps o w off m v hz
        split
        · exact Keeps.ite (State.mbxRefuse_keeps _ _ h) h
        · exact ih h

theorem execStageWrite_keeps (t : Tag) (hz : Keeps z s) : ∃ y, execStageWrite t s = .next y ∧ Keeps z y :=
  ⟨_, rfl, State.run_keeps _ _ _ (fun _ _ h => State.complete_keeps _ _ _ _ (State.stageRun_keeps _ _ _ h)) hz⟩

theorem execStageBulk_keeps (t : Tag) (data : List Byte) (hz : Keeps z s) :
    ∃ y, execStageBulk t data s = .next y ∧ Keeps z y :=
  ⟨_, rfl, State.run_keeps _ _ _ (fun _ _ h => Keeps.ite (State.complete_keeps _ _ _ _ h)
    (State.complete_keeps _ _ _ _ (State.stageRun_keeps _ _ _ (State.hostRd_keeps _ _ _ h)))) hz⟩

theorem execStageList_keeps (t : Tag) (hz : Keeps z s) : ∃ y, execStageList t s = .next y ∧ Keeps z y := by
  unfold execStageList
  refine ⟨_, rfl, ?_⟩
  repeat' first
    | (with_reducible assumption)
    | (intro x; subst x)
    | intro _
    | lift_lets
    | (with_reducible apply State.doneBuf_keeps)
    | (with_reducible apply State.run_keeps)

theorem execCheck_keeps (t : Tag) (hz : Keeps z s) : ∃ y, execCheck t s = .next y ∧ Keeps z y := by
  unfold execCheck
  refine ⟨_, rfl, ?_⟩
  repeat' first
    | (with_reducible assumption)
    | (intro (x : State); refine_lift have : Keeps z x := ?val; ?main; (case' val => subst x); (case' main => first | clear_value x | subst x))
    | (intro x; subst x)
    | intro _
    | lift_lets
    | (with_reducible apply State.checkShow_keeps)
    | (with_reducible apply State.complete_keeps)
    | (with_reducible apply State.done_keeps)
    | (with_reducible apply State.run_keeps)
    | (refine Keeps.fst ?_ (by assumption))
    | (with_reducible refine Keeps.upd rfl rfl rfl rfl rfl rfl rfl rfl rfl rfl rfl rfl rfl rfl rfl rfl ?_; first | (with_reducible assumption) | (with_reducible apply State.checkShow_keeps) | (with_reducible apply State.complete_keeps) | (with_reducible apply State.done_keeps) | (with_reducible apply State.run_keeps) | split)

theorem execCommit_keeps (t : Tag) (hz : Keeps z s) : ∃ y, execCommit t s = .next y ∧ Keeps z y := by
  unfold execCommit
  refine ⟨_, rfl, ?_⟩
  repeat' first
    | (with_reducible assumption)
    | intro _
    | (with_reducible apply State.commitAsk_keeps)
    | (with_reducible apply State.run_keeps)

theorem execDiscard_keeps (t : Tag) (hz : Keeps z s) : ∃ y, execDiscard t s = .next y ∧ Keeps z y := by
  unfold execDiscard
  refine ⟨_, rfl, ?_⟩
  repeat' first
    | (with_reducible assumption)
    | (intro x; subst x)
    | intro _
    | lift_lets
    | (with_reducible apply State.complete_keeps)
    | (with_reducible apply State.discardStage_keeps)
    | (with_reducible apply State.run_keeps)

theorem execGrantSet_keeps (t : Tag) (hz : Keeps z s) : ∃ y, execGrantSet t s = .next y ∧ Keeps z y := by
  unfold execGrantSet
  refine ⟨_, rfl, ?_⟩
  repeat' first
    | (with_reducible assumption)
    | intro _
    | (with_reducible apply State.commitAsk_keeps)
    | (with_reducible apply State.run_keeps)

theorem State.pollPowerOn_keeps (c : Cmd) (hz : Keeps z s) : Keeps z (State.pollPowerOn s c) := by
  unfold State.pollPowerOn
  repeat' first
    | (with_reducible assumption)
    | (intro x; subst x)
    | intro _
    | lift_lets
    | (with_reducible apply State.complete_keeps)
    | (with_reducible apply State.done_keeps)
    | (with_reducible apply Keeps.ite)

theorem execPowerOn_keeps (t : Tag) (hz : Keeps z s) : ∃ y, execPowerOn t s = .next y ∧ Keeps z y := by
  unfold execPowerOn
  refine ⟨_, rfl, ?_⟩
  repeat' first
    | (with_reducible assumption)
    | (intro x; subst x)
    | intro _
    | lift_lets
    | (with_reducible apply State.complete_keeps)
    | (with_reducible apply State.pollPowerOn_keeps)
    | (with_reducible apply State.put_keeps)
    | (with_reducible apply State.run_keeps)
    | (with_reducible apply Keeps.ite)
    | (with_reducible refine Keeps.upd rfl rfl rfl rfl rfl rfl rfl rfl rfl rfl rfl rfl rfl rfl rfl rfl ?_; first  | (with_reducible assumption) | (with_reducible apply State.complete_keeps) | (with_reducible apply State.pollPowerOn_keeps) | (with_reducible apply State.put_keeps) | (with_reducible apply State.run_keeps) | (with_reducible apply Keeps.ite))

theorem State.pollPowerOff_keeps (c : Cmd) (hz : Keeps z s) : Keeps z (State.pollPowerOff s c) := by
  unfold State.pollPowerOff
  repeat' first
    | (with_reducible assumption)
    | (intro x; subst x)
    | intro _
    | lift_lets
    | (with_reducible apply State.done_keeps)
    | (with_reducible apply Keeps.ite)

theorem State.powerOnLoses_keeps (hz : Keeps z s) : Keeps z (State.powerOnLoses s) := by
  unfold State.powerOnLoses
  repeat' first
    | (with_reducible assumption)
    | (intro (x : State); refine_lift have : Keeps z x := ?val; ?main; (case' val => subst x); (case' main => first | clear_value x | subst x))
    | (intro x; subst x)
    | intro _
    | lift_lets
    | (with_reducible apply State.complete_keeps)
    | (with_reducible apply Keeps.ite)
    | (with_reducible refine Keeps.foldl ?_ _ (fun _ _ _ => ?_))
    | (with_reducible refine Keeps.upd rfl rfl rfl rfl rfl rfl rfl rfl rfl rfl rfl rfl rfl rfl rfl rfl ?_; first  | (with_reducible assumption))

theorem execPowerOff_keeps (t : Tag) (hz : Keeps z s) : ∃ y, execPowerOff t s = .next y ∧ Keeps z y := by
  unfold execPowerOff
  refine ⟨_, rfl, ?_⟩
  repeat' first
    | (with_reducible assumption)
    | (intro (x : State); refine_lift have : Keeps z x := ?val; ?main; (case' val => subst x); (case' main => first | clear_value x | subst x))
    | (intro x; subst x)
    | intro _
    | lift_lets
    | (with_reducible apply State.pollPowerOff_keeps)
    | (with_reducible apply State.powerOnLoses_keeps)
    | (with_reducible apply State.run_keeps)
    | (with_reducible apply State.shutdown_keeps)
    | (with_reducible apply Keeps.ite)
    | (with_reducible refine Keeps.upd rfl rfl rfl rfl rfl rfl rfl rfl rfl rfl rfl rfl rfl rfl rfl rfl ?_; first | (with_reducible assumption) | (with_reducible apply State.pollPowerOff_keeps) | (with_reducible apply State.powerOnLoses_keeps) | (with_reducible apply State.run_keeps) | (with_reducible apply State.shutdown_keeps) | (with_reducible apply Keeps.ite) | split)
    | split

theorem execRailRetry_keeps (t : Tag) (hz : Keeps z s) : ∃ y, execRailRetry t s = .next y ∧ Keeps z y := by
  unfold execRailRetry
  refine ⟨_, rfl, ?_⟩
  repeat' first
    | (with_reducible assumption)
    | intro _
    | (with_reducible apply State.done_keeps)
    | (with_reducible apply State.retryRail_keeps)
    | (with_reducible apply State.run_keeps)

theorem execSwarmCtl_keeps (t : Tag) (hz : Keeps z s) : ∃ y, execSwarmCtl t s = .next y ∧ Keeps z y := by
  unfold execSwarmCtl
  refine ⟨_, rfl, ?_⟩
  repeat' first
    | (with_reducible assumption)
    | intro _
    | (with_reducible apply State.done_keeps)
    | (with_reducible apply State.run_keeps)
    | (with_reducible apply State.swRejoinReq_keeps)
    | (with_reducible apply State.swResyncReq_keeps)
    | (with_reducible apply Keeps.ite)

theorem execHsClear_keeps (t : Tag) (hz : Keeps z s) : ∃ y, execHsClear t s = .next y ∧ Keeps z y := by
  unfold execHsClear
  refine ⟨_, rfl, ?_⟩
  repeat' first
    | (with_reducible assumption)
    | intro _
    | (with_reducible apply State.done_keeps)
    | (with_reducible apply State.hsClear_keeps)
    | (with_reducible apply State.run_keeps)

theorem execSnapshot_keeps (t : Tag) (hz : Keeps z s) : ∃ y, execSnapshot t s = .next y ∧ Keeps z y := by
  unfold execSnapshot
  refine ⟨_, rfl, ?_⟩
  repeat' first
    | (with_reducible assumption)
    | intro _
    | (with_reducible apply State.complete_keeps)
    | (with_reducible apply State.count_keeps)
    | (with_reducible apply State.run_keeps)
    | (with_reducible apply Keeps.ite)
    | (with_reducible refine Keeps.upd rfl rfl rfl rfl rfl rfl rfl rfl rfl rfl rfl rfl rfl rfl rfl rfl ?_; first | (with_reducible assumption) | (with_reducible apply State.complete_keeps) | (with_reducible apply State.count_keeps) | (with_reducible apply State.run_keeps) | (with_reducible apply Keeps.ite) | split)
    | split

theorem State.pollQuiesce_keeps (c : Cmd) (hz : Keeps z s) : Keeps z (State.pollQuiesce s c) := by
  unfold State.pollQuiesce
  repeat' first
    | (with_reducible assumption)
    | intro _
    | (with_reducible apply State.count_keeps)
    | (with_reducible apply State.done_keeps)
    | (with_reducible apply Keeps.ite)

theorem State.apdusRefuse_keeps (q : Nat × Nat) (hz : Keeps z s) : Keeps z (State.apdusRefuse s q) := by
  unfold State.apdusRefuse
  repeat' first
    | (with_reducible assumption)
    | (intro (x : State); refine_lift have : Keeps z x := ?val; ?main; (case' val => subst x); (case' main => first | clear_value x | subst x))
    | (intro x; subst x)
    | intro _
    | lift_lets
    | (with_reducible apply State.complete_keeps)
    | (with_reducible apply State.modCard_keeps)
    | (with_reducible refine Keeps.foldl ?_ _ (fun _ _ _ => ?_))
    | (with_reducible refine Keeps.upd rfl rfl rfl rfl rfl rfl rfl rfl rfl rfl rfl rfl rfl rfl rfl rfl ?_; first | (with_reducible assumption) | (with_reducible apply State.complete_keeps) | (with_reducible apply State.modCard_keeps))

theorem State.quietAdd_keeps (q : Nat × Nat) (hz : Keeps z s) : Keeps z (State.quietAdd s q) := by
  unfold State.quietAdd
  repeat' first
    | (with_reducible assumption)
    | intro _
    | (with_reducible refine Keeps.upd rfl rfl rfl rfl rfl rfl rfl rfl rfl rfl rfl rfl rfl rfl rfl rfl ?_; first | (with_reducible assumption))

theorem execQuiesce_keeps (t : Tag) (hz : Keeps z s) : ∃ y, execQuiesce t s = .next y ∧ Keeps z y := by
  unfold execQuiesce
  refine ⟨_, rfl, ?_⟩
  repeat' first
    | (with_reducible assumption)
    | (intro (x : State); refine_lift have : Keeps z x := ?val; ?main; (case' val => subst x); (case' main => first | clear_value x | subst x))
    | (intro x; subst x)
    | intro _
    | lift_lets
    | (with_reducible apply State.apdusRefuse_keeps)
    | (with_reducible apply State.holdAll_keeps)
    | (with_reducible apply State.modCmd_keeps)
    | (with_reducible apply State.pollQuiesce_keeps)
    | (with_reducible apply State.quietAdd_keeps)
    | (with_reducible apply State.run_keeps)
    | (with_reducible apply State.storeDrainAll_keeps)
    | (with_reducible refine Keeps.upd rfl rfl rfl rfl rfl rfl rfl rfl rfl rfl rfl rfl rfl rfl rfl rfl ?_; first | (with_reducible assumption) | (with_reducible apply State.apdusRefuse_keeps) | (with_reducible apply State.holdAll_keeps) | (with_reducible apply State.modCmd_keeps) | (with_reducible apply State.pollQuiesce_keeps) | (with_reducible apply State.quietAdd_keeps) | (with_reducible apply State.run_keeps) | (with_reducible apply State.storeDrainAll_keeps))

theorem State.quietEnd_keeps (q : Nat × Nat) (hz : Keeps z s) : Keeps z (State.quietEnd s q) := by
  unfold State.quietEnd
  repeat' first
    | (with_reducible assumption)
    | intro _
    | (with_reducible refine Keeps.upd rfl rfl rfl rfl rfl rfl rfl rfl rfl rfl rfl rfl rfl rfl rfl rfl ?_; first | (with_reducible assumption))

theorem execResume_keeps (t : Tag) (hz : Keeps z s) : ∃ y, execResume t s = .next y ∧ Keeps z y := by
  unfold execResume
  refine ⟨_, rfl, ?_⟩
  repeat' first
    | (with_reducible assumption)
    | (intro (x : State); refine_lift have : Keeps z x := ?val; ?main; (case' val => subst x); (case' main => first | clear_value x | subst x))
    | (intro x; subst x)
    | intro _
    | lift_lets
    | (with_reducible apply State.done_keeps)
    | (with_reducible apply State.quietEnd_keeps)
    | (with_reducible apply State.run_keeps)
    | (with_reducible apply State.unholdAll_keeps)

theorem execStateReq_keeps (t : Tag) (hz : Keeps z s) : ∃ y, execStateReq t s = .next y ∧ Keeps z y := by
  unfold execStateReq
  refine ⟨_, rfl, ?_⟩
  repeat' first
    | (with_reducible assumption)
    | (intro x; subst x)
    | intro _
    | lift_lets
    | (with_reducible apply State.complete_keeps)
    | (with_reducible apply State.done_keeps)
    | (with_reducible apply State.run_keeps)
    | (with_reducible apply Keeps.ite)
    | (with_reducible refine Keeps.upd rfl rfl rfl rfl rfl rfl rfl rfl rfl rfl rfl rfl rfl rfl rfl rfl ?_; first  | (with_reducible assumption))

theorem execMramBist_keeps (t : Tag) (hz : Keeps z s) : ∃ y, execMramBist t s = .next y ∧ Keeps z y := by
  unfold execMramBist
  refine ⟨_, rfl, ?_⟩
  repeat' first
    | (with_reducible assumption)
    | intro _
    | (with_reducible apply State.done_keeps)
    | (with_reducible apply State.run_keeps)
    | (with_reducible refine Keeps.upd rfl rfl rfl rfl rfl rfl rfl rfl rfl rfl rfl rfl rfl rfl rfl rfl ?_; first  | (with_reducible assumption))

theorem State.pollCmds_keeps (hz : Keeps z s) : Keeps z (State.pollCmds s) := by
  unfold State.pollCmds
  repeat' first
    | (with_reducible assumption)
    | intro _
    | (with_reducible apply State.pollPowerOff_keeps)
    | (with_reducible apply State.pollPowerOn_keeps)
    | (with_reducible apply State.pollQuiesce_keeps)
    | (with_reducible apply Keeps.ite)
    | (with_reducible refine Keeps.foldl ?_ _ (fun _ _ _ => ?_))
    | (refine Keeps.fst ?_ (by assumption))
    | (with_reducible refine Keeps.upd rfl rfl rfl rfl rfl rfl rfl rfl rfl rfl rfl rfl rfl rfl rfl rfl ?_; first | (with_reducible assumption) | (with_reducible apply State.pollPowerOff_keeps) | (with_reducible apply State.pollPowerOn_keeps) | (with_reducible apply State.pollQuiesce_keeps) | (with_reducible apply Keeps.ite) | split)

end Sys2Proof.Machine
end

