-- ==== Sys2Proof/Laws/KeepsCmdChain.lean ====
section
/-!
SUPPORT. Every operation of Machine/CmdChain.lean keeps (Laws/Keeps.lean).
-/

namespace Sys2Proof.Machine

variable {z s : State}

set_option maxRecDepth 8000

theorem State.startLost_keeps (t : Tag) (n : Nat) (ops : List Nat) (head : State → Word → State) (x5 : Option SameStart) (Hhead : ∀ y0 y1, Keeps z y0 → Keeps z (head y0 y1)) (hz : Keeps z s) : Keeps z (State.startLost s t n ops head x5) := by
  unfold State.startLost
  repeat' first
    | (with_reducible assumption)
    | intro _
    | (with_reducible apply Hhead)
    | (with_reducible apply State.complete_keeps)
    | (with_reducible apply State.modCmd_keeps)
    | (with_reducible apply Keeps.ite)
    | (refine Keeps.fst ?_ (by assumption))
    | split

theorem State.scLost_keeps (t : Tag) (n : Nat) (same : Option SameStart) (hz : Keeps z s) : Keeps z (State.scLost s t n same) := by
  unfold State.scLost
  repeat' first
    | (with_reducible assumption)
    | intro _
    | (with_reducible apply State.startLost_keeps)

theorem State.dcLost_keeps (t : Tag) (n : Nat) (same : Option SameStart) (hz : Keeps z s) : Keeps z (State.dcLost s t n same) := by
  unfold State.dcLost
  repeat' first
    | (with_reducible assumption)
    | (intro (x : State); refine_lift have : Keeps z x := ?val; ?main; (case' val => subst x); (case' main => first | clear_value x | subst x))
    | (intro x; subst x)
    | intro _
    | lift_lets
    | (with_reducible apply State.dcHead_keeps)
    | (with_reducible apply State.startLost_keeps)
    | (with_reducible apply Keeps.ite)
    | split

theorem State.scBegin_keeps (n : Nat) (a : Nat) (hz : Keeps z s) : Keeps z (State.scBegin s n a) := by
  unfold State.scBegin
  repeat' first
    | (with_reducible assumption)
    | (intro (x : State); refine_lift have : Keeps z x := ?val; ?main; (case' val => subst x); (case' main => first | clear_value x | subst x))
    | (intro x; subst x)
    | intro _
    | lift_lets
    | (with_reducible apply State.modSub_keeps)
    | (with_reducible apply State.put_keeps)
    | (with_reducible apply State.scNext_keeps)

theorem State.scArea_keeps (n : Nat) (c : Cmd) (hz : Keeps z s) : Keeps z (State.scArea s n c) := by
  unfold State.scArea
  repeat' first
    | (with_reducible assumption)
    | (intro (x : State); refine_lift have : Keeps z x := ?val; ?main; (case' val => subst x); (case' main => first | clear_value x | subst x))
    | (intro x; subst x)
    | intro _
    | lift_lets
    | (with_reducible apply State.put_keeps)

theorem execScStart_keeps (t : Tag) (hz : Keeps z s) : ∃ y, execScStart t s = .next y ∧ Keeps z y := by
  unfold execScStart
  refine ⟨_, rfl, ?_⟩
  repeat' first
    | (with_reducible assumption)
    | (intro (x : State); refine_lift have : Keeps z x := ?val; ?main; (case' val => subst x); (case' main => first | clear_value x | subst x))
    | (intro x; subst x)
    | intro _
    | lift_lets
    | (with_reducible apply State.complete_keeps)
    | (with_reducible apply State.done_keeps)
    | (with_reducible apply State.run_keeps)
    | (with_reducible apply State.scArea_keeps)
    | (with_reducible apply State.scBegin_keeps)
    | (with_reducible apply State.scClaimed_keeps)
    | (with_reducible apply Keeps.ite)
    | split

theorem execScHalt_keeps (t : Tag) (same : Option SameStart) (hz : Keeps z s) : ∃ y, execScHalt t same s = .next y ∧ Keeps z y := by
  unfold execScHalt
  refine ⟨_, rfl, ?_⟩
  repeat' first
    | (with_reducible assumption)
    | (intro (x : State); refine_lift have : Keeps z x := ?val; ?main; (case' val => subst x); (case' main => first | clear_value x | subst x))
    | (intro x; subst x)
    | intro _
    | lift_lets
    | (with_reducible apply State.done_keeps)
    | (with_reducible apply State.run_keeps)
    | (with_reducible apply State.scHalt_keeps)
    | (with_reducible apply State.scLost_keeps)
    | (with_reducible apply State.scPriDrop_keeps)

theorem State.scMove_keeps (n a : Nat) (hz : Keeps z s) : Keeps z (State.scMove s n a) := by
  unfold State.scMove
  repeat' first
    | (with_reducible assumption)
    | (intro (x : State); refine_lift have : Keeps z x := ?val; ?main; (case' val => subst x); (case' main => first | clear_value x | subst x))
    | intro _
    | lift_lets
    | (with_reducible apply State.modSub_keeps)
    | (with_reducible apply State.put_keeps)
    | (with_reducible apply State.scNext_keeps)

theorem execScResumeAt_keeps (t : Tag) (hz : Keeps z s) : ∃ y, execScResumeAt t s = .next y ∧ Keeps z y := by
  unfold execScResumeAt
  refine ⟨_, rfl, ?_⟩
  repeat' first
    | (with_reducible assumption)
    | (intro (x : State); refine_lift have : Keeps z x := ?val; ?main; (case' val => subst x); (case' main => first | clear_value x | subst x))
    | (intro x; subst x)
    | intro _
    | lift_lets
    | (with_reducible apply State.complete_keeps)
    | (with_reducible apply State.done_keeps)
    | (with_reducible apply State.put_keeps)
    | (with_reducible apply State.run_keeps)
    | (with_reducible apply State.scClaimed_keeps)
    | (with_reducible apply State.scMove_keeps)
    | (with_reducible apply Keeps.ite)
    | split

theorem execScSuspend_keeps (t : Tag) (same : Option SameStart) (hz : Keeps z s) : ∃ y, execScSuspend t same s = .next y ∧ Keeps z y := by
  unfold execScSuspend
  refine ⟨_, rfl, ?_⟩
  repeat' first
    | (with_reducible assumption)
    | (intro (x : State); refine_lift have : Keeps z x := ?val; ?main; (case' val => subst x); (case' main => first | clear_value x | subst x))
    | (intro x; subst x)
    | intro _
    | lift_lets
    | (with_reducible apply State.done_keeps)
    | (with_reducible apply State.run_keeps)
    | (with_reducible apply State.scHold_keeps)
    | (with_reducible apply State.scLost_keeps)
    | (refine Keeps.fst ?_ (by assumption))

theorem execScResume_keeps (t : Tag) (hz : Keeps z s) : ∃ y, execScResume t s = .next y ∧ Keeps z y := by
  unfold execScResume
  refine ⟨_, rfl, ?_⟩
  repeat' first
    | (with_reducible assumption)
    | (intro (x : State); refine_lift have : Keeps z x := ?val; ?main; (case' val => subst x); (case' main => first | clear_value x | subst x))
    | (intro x; subst x)
    | intro _
    | lift_lets
    | (with_reducible apply State.complete_keeps)
    | (with_reducible apply State.done_keeps)
    | (with_reducible apply State.run_keeps)
    | (with_reducible apply State.scReread_keeps)
    | (with_reducible apply State.scUnhold_keeps)
    | (with_reducible apply Keeps.ite)
    | split

theorem execScStatus_keeps (t : Tag) (hz : Keeps z s) : ∃ y, execScStatus t s = .next y ∧ Keeps z y := by
  unfold execScStatus
  refine ⟨_, rfl, ?_⟩
  repeat' first
    | (with_reducible assumption)
    | (intro x; subst x)
    | intro _
    | lift_lets
    | (with_reducible apply State.done_keeps)
    | (with_reducible apply State.run_keeps)

theorem execCchInval_keeps (t : Tag) (hz : Keeps z s) : ∃ y, execCchInval t s = .next y ∧ Keeps z y := by
  unfold execCchInval
  refine ⟨_, rfl, ?_⟩
  repeat' first
    | (with_reducible assumption)
    | (intro x; subst x)
    | intro _
    | lift_lets
    | (with_reducible apply State.cchInval_keeps)
    | (with_reducible apply State.done_keeps)
    | (with_reducible apply State.run_keeps)

theorem execCchDrain_keeps (t : Tag) (hz : Keeps z s) : ∃ y, execCchDrain t s = .next y ∧ Keeps z y := by
  unfold execCchDrain
  refine ⟨_, rfl, ?_⟩
  repeat' first
    | (with_reducible assumption)
    | intro _
    | (with_reducible apply State.done_keeps)
    | (with_reducible apply State.run_keeps)
    | (with_reducible apply State.storeDrainAll_keeps)

theorem State.dcStart_keeps (n : Nat) (c : Cmd) (hz : Keeps z s) : Keeps z (State.dcStart s n c) := by
  unfold State.dcStart
  repeat' first
    | (with_reducible assumption)
    | (intro (x : State); refine_lift have : Keeps z x := ?val; ?main; (case' val => subst x); (case' main => first | clear_value x | subst x))
    | (intro x; subst x)
    | intro _
    | lift_lets
    | (with_reducible apply State.dcKick_keeps)
    | (with_reducible apply State.modChan_keeps)
    | (with_reducible apply State.put_keeps)
    | (with_reducible apply State.setDcAddr_keeps)

theorem execDcStart_keeps (t : Tag) (hz : Keeps z s) : ∃ y, execDcStart t s = .next y ∧ Keeps z y := by
  unfold execDcStart
  refine ⟨_, rfl, ?_⟩
  repeat' first
    | (with_reducible assumption)
    | (intro x; subst x)
    | intro _
    | lift_lets
    | (with_reducible apply State.complete_keeps)
    | (with_reducible apply State.dcStart_keeps)
    | (with_reducible apply State.done_keeps)
    | (with_reducible apply State.run_keeps)
    | (with_reducible apply Keeps.ite)

theorem State.dcWait_keeps (n : Nat) (t : Tag) (hz : Keeps z s) : Keeps z (State.dcWait s n t) := by
  unfold State.dcWait
  repeat' first
    | (with_reducible assumption)
    | intro _
    | (with_reducible apply State.modChan_keeps)

theorem execDcAbort_keeps (t : Tag) (same : Option SameStart) (hz : Keeps z s) : ∃ y, execDcAbort t same s = .next y ∧ Keeps z y := by
  unfold execDcAbort
  refine ⟨_, rfl, ?_⟩
  repeat' first
    | (with_reducible assumption)
    | (intro (x : State); refine_lift have : Keeps z x := ?val; ?main; (case' val => subst x); (case' main => first | clear_value x | subst x))
    | (intro x; subst x)
    | intro _
    | lift_lets
    | (with_reducible apply State.dcBegin_keeps)
    | (with_reducible apply State.dcLost_keeps)
    | (with_reducible apply State.dcPriDrop_keeps)
    | (with_reducible apply State.dcWait_keeps)
    | (with_reducible apply State.done_keeps)
    | (with_reducible apply State.run_keeps)
    | (with_reducible apply Keeps.ite)
    | split

theorem execDcSuspend_keeps (t : Tag) (same : Option SameStart) (hz : Keeps z s) : ∃ y, execDcSuspend t same s = .next y ∧ Keeps z y := by
  unfold execDcSuspend
  refine ⟨_, rfl, ?_⟩
  repeat' first
    | (with_reducible assumption)
    | (intro (x : State); refine_lift have : Keeps z x := ?val; ?main; (case' val => subst x); (case' main => first | clear_value x | subst x))
    | (intro x; subst x)
    | intro _
    | lift_lets
    | (with_reducible apply State.dcHold_keeps)
    | (with_reducible apply State.dcLost_keeps)
    | (with_reducible apply State.dcWait_keeps)
    | (with_reducible apply State.done_keeps)
    | (with_reducible apply State.run_keeps)
    | (with_reducible apply Keeps.ite)
    | (refine Keeps.fst ?_ (by assumption))
    | split

theorem execDcResume_keeps (t : Tag) (hz : Keeps z s) : ∃ y, execDcResume t s = .next y ∧ Keeps z y := by
  unfold execDcResume
  refine ⟨_, rfl, ?_⟩
  repeat' first
    | (with_reducible assumption)
    | (intro (x : State); refine_lift have : Keeps z x := ?val; ?main; (case' val => subst x); (case' main => first | clear_value x | subst x))
    | (intro x; subst x)
    | intro _
    | lift_lets
    | (with_reducible apply State.complete_keeps)
    | (with_reducible apply State.dcGo_keeps)
    | (with_reducible apply State.dcReread_keeps)
    | (with_reducible apply State.dcUnhold_keeps)
    | (with_reducible apply State.done_keeps)
    | (with_reducible apply State.modChan_keeps)
    | (with_reducible apply State.run_keeps)
    | (with_reducible apply Keeps.ite)
    | split

theorem execDcStatus_keeps (t : Tag) (hz : Keeps z s) : ∃ y, execDcStatus t s = .next y ∧ Keeps z y := by
  unfold execDcStatus
  refine ⟨_, rfl, ?_⟩
  repeat' first
    | (with_reducible assumption)
    | intro _
    | (with_reducible apply State.done_keeps)
    | (with_reducible apply State.run_keeps)

theorem execBmvRestart_keeps (t : Tag) (hz : Keeps z s) : ∃ y, execBmvRestart t s = .next y ∧ Keeps z y := by
  unfold execBmvRestart
  refine ⟨_, rfl, ?_⟩
  repeat' first
    | (with_reducible assumption)
    | (intro (x : State); refine_lift have : Keeps z x := ?val; ?main; (case' val => subst x); (case' main => first | clear_value x | subst x))
    | (intro x; subst x)
    | intro _
    | lift_lets
    | (with_reducible apply State.dcGo_keeps)
    | (with_reducible apply State.dcKick_keeps)
    | (with_reducible apply State.done_keeps)
    | (with_reducible apply State.log_keeps)
    | (with_reducible apply State.modChan_keeps)
    | (with_reducible apply State.put_keeps)
    | (with_reducible apply State.run_keeps)
    | (with_reducible refine Keeps.foldl ?_ _ (fun _ _ _ => ?_))
    | (with_reducible refine Keeps.foldlPair ?_ _ (fun _ _ _ => ?_))

end Sys2Proof.Machine
end

