-- ==== Sys2Proof/Laws/KeepsCmdCard.lean ====
section
/-!
SUPPORT. Every operation of Machine/CmdCard.lean keeps (Laws/Keeps.lean).
-/

namespace Sys2Proof.Machine

variable {z s : State}

set_option maxRecDepth 8000

theorem execCardOpen_keeps (t : Tag) (hz : Keeps z s) : ∃ y, execCardOpen t s = .next y ∧ Keeps z y := by
  unfold execCardOpen
  refine ⟨_, rfl, ?_⟩
  repeat' first
    | (with_reducible assumption)
    | (intro x; subst x)
    | intro _
    | lift_lets
    | (with_reducible apply State.cdGo_keeps)
    | (with_reducible apply State.complete_keeps)
    | (with_reducible apply State.done_keeps)
    | (with_reducible apply State.modCard_keeps)
    | (with_reducible apply State.run_keeps)
    | (with_reducible apply State.sessMake_keeps)
    | (with_reducible apply Keeps.ite)
    | (refine Keeps.fst ?_ (by assumption))
    | (with_reducible refine Keeps.upd rfl rfl rfl rfl rfl rfl rfl rfl rfl rfl rfl rfl rfl rfl rfl rfl ?_; first | (with_reducible assumption) | (with_reducible apply State.cdGo_keeps) | (with_reducible apply State.complete_keeps) | (with_reducible apply State.done_keeps) | (with_reducible apply State.modCard_keeps) | (with_reducible apply State.run_keeps) | (with_reducible apply State.sessMake_keeps) | (with_reducible apply Keeps.ite) | split)

theorem State.withSess_keeps (t : Tag) (h : Nat) (f : State → Sess → State) (Hf : ∀ y0 y1, Keeps z y0 → Keeps z (f y0 y1)) (hz : Keeps z s) : Keeps z (State.withSess s t h f) := by
  unfold State.withSess
  repeat' first
    | (with_reducible assumption)
    | intro _
    | (with_reducible apply Hf)
    | (with_reducible apply State.complete_keeps)
    | (refine Keeps.fst ?_ (by assumption))
    | (with_reducible refine Keeps.upd rfl rfl rfl rfl rfl rfl rfl rfl rfl rfl rfl rfl rfl rfl rfl rfl ?_; first | (with_reducible assumption) | (with_reducible apply State.complete_keeps) | split)

theorem State.sessReported_keeps (h : Nat) (hz : Keeps z s) : Keeps z (State.sessReported s h) := by
  unfold State.sessReported
  repeat' first
    | (with_reducible assumption)
    | intro _
    | (with_reducible apply Keeps.ite)
    | (with_reducible refine Keeps.upd rfl rfl rfl rfl rfl rfl rfl rfl rfl rfl rfl rfl rfl rfl rfl rfl ?_; first  | (with_reducible assumption))

theorem execCardClose_keeps (t : Tag) (hz : Keeps z s) : ∃ y, execCardClose t s = .next y ∧ Keeps z y := by
  unfold execCardClose
  refine ⟨_, rfl, ?_⟩
  repeat' first
    | (with_reducible assumption)
    | intro _
    | (with_reducible apply State.cdGo_keeps)
    | (with_reducible apply State.modCard_keeps)
    | (with_reducible apply State.run_keeps)
    | (with_reducible apply State.withSess_keeps)

theorem execCardApdu_keeps (t : Tag) (data : List Byte) (hz : Keeps z s) : ∃ y, execCardApdu t data s = .next y ∧ Keeps z y := by
  unfold execCardApdu
  refine ⟨_, rfl, ?_⟩
  repeat' first
    | (with_reducible assumption)
    | (intro x; subst x)
    | intro _
    | lift_lets
    | (with_reducible apply State.cdGo_keeps)
    | (with_reducible apply State.complete_keeps)
    | (with_reducible apply State.hostRd_keeps)
    | (with_reducible apply State.modCard_keeps)
    | (with_reducible apply State.run_keeps)
    | (with_reducible apply State.sessReported_keeps)
    | (with_reducible apply State.withSess_keeps)
    | (with_reducible apply Keeps.ite)
    | (refine Keeps.fst ?_ (by assumption))
    | (with_reducible refine Keeps.upd rfl rfl rfl rfl rfl rfl rfl rfl rfl rfl rfl rfl rfl rfl rfl rfl ?_; first | (with_reducible assumption) | (with_reducible apply State.cdGo_keeps) | (with_reducible apply State.complete_keeps) | (with_reducible apply State.hostRd_keeps) | (with_reducible apply State.modCard_keeps) | (with_reducible apply State.run_keeps) | (with_reducible apply State.sessReported_keeps) | (with_reducible apply State.withSess_keeps) | (with_reducible apply Keeps.ite) | split)

theorem execCardExcl_keeps (t : Tag) (hz : Keeps z s) : ∃ y, execCardExcl t s = .next y ∧ Keeps z y := by
  unfold execCardExcl
  refine ⟨_, rfl, ?_⟩
  repeat' first
    | (with_reducible assumption)
    | (intro x; subst x)
    | intro _
    | lift_lets
    | (with_reducible apply State.cdGo_keeps)
    | (with_reducible apply State.complete_keeps)
    | (with_reducible apply State.done_keeps)
    | (with_reducible apply State.exclEnd_keeps)
    | (with_reducible apply State.modCard_keeps)
    | (with_reducible apply State.run_keeps)
    | (with_reducible apply State.sessReported_keeps)
    | (with_reducible apply State.withSess_keeps)
    | (with_reducible apply Keeps.ite)

theorem execCardActivate_keeps (t : Tag) (hz : Keeps z s) : ∃ y, execCardActivate t s = .next y ∧ Keeps z y := by
  unfold execCardActivate
  refine ⟨_, rfl, ?_⟩
  repeat' first
    | (with_reducible assumption)
    | (intro (x : State); refine_lift have : Keeps z x := ?val; ?main; (case' val => subst x); (case' main => first | clear_value x | subst x))
    | (intro x; subst x)
    | intro _
    | lift_lets
    | (with_reducible apply State.actAsk_keeps)
    | (with_reducible apply State.complete_keeps)
    | (with_reducible apply State.modCard_keeps)
    | (with_reducible apply State.run_keeps)
    | (with_reducible apply Keeps.ite)

theorem execCardDeactivate_keeps (t : Tag) (hz : Keeps z s) : ∃ y, execCardDeactivate t s = .next y ∧ Keeps z y := by
  unfold execCardDeactivate
  refine ⟨_, rfl, ?_⟩
  repeat' first
    | (with_reducible assumption)
    | (intro (x : State); refine_lift have : Keeps z x := ?val; ?main; (case' val => subst x); (case' main => first | clear_value x | subst x))
    | (intro x; subst x)
    | intro _
    | lift_lets
    | (with_reducible apply State.actDone_keeps)
    | (with_reducible apply State.admDrop_keeps)
    | (with_reducible apply State.cdDeactivate_keeps)
    | (with_reducible apply State.done_keeps)
    | (with_reducible apply State.modCard_keeps)
    | (with_reducible apply State.put_keeps)
    | (with_reducible apply State.run_keeps)
    | (with_reducible apply Keeps.ite)

theorem execCardGetAtr_keeps (t : Tag) (hz : Keeps z s) : ∃ y, execCardGetAtr t s = .next y ∧ Keeps z y := by
  unfold execCardGetAtr
  refine ⟨_, rfl, ?_⟩
  repeat' first
    | (with_reducible assumption)
    | (intro x; subst x)
    | intro _
    | lift_lets
    | (with_reducible apply State.complete_keeps)
    | (with_reducible apply State.doneBuf_keeps)
    | (with_reducible apply State.run_keeps)
    | (with_reducible apply Keeps.ite)

theorem execCardSelftest_keeps (t : Tag) (res : BitVec 9) (hz : Keeps z s) : ∃ y, execCardSelftest t res s = .next y ∧ Keeps z y := by
  unfold execCardSelftest
  refine ⟨_, rfl, ?_⟩
  repeat' first
    | (with_reducible assumption)
    | (intro x; subst x)
    | intro _
    | lift_lets
    | (with_reducible apply State.complete_keeps)
    | (with_reducible apply State.done_keeps)
    | (with_reducible apply State.put_keeps)
    | (with_reducible apply State.run_keeps)
    | (with_reducible apply Keeps.ite)

end Sys2Proof.Machine
end

