-- ==== Sys2Proof/Laws/KeepsCmdMisc.lean ====
section
/-!
SUPPORT. Every operation of Machine/CmdMisc.lean keeps (Laws/Keeps.lean).
-/

namespace Sys2Proof.Machine

variable {z s : State}

set_option maxRecDepth 8000

theorem execLampSet_keeps (t : Tag) (hz : Keeps z s) : ∃ y, execLampSet t s = .next y ∧ Keeps z y := by
  unfold execLampSet
  refine ⟨_, rfl, ?_⟩
  repeat' first
    | (with_reducible assumption)
    | (intro (x : State); refine_lift have : Keeps z x := ?val; ?main; (case' val => subst x); (case' main => first | clear_value x | subst x))
    | (intro x; subst x)
    | intro _
    | lift_lets
    | (with_reducible apply State.complete_keeps)
    | (with_reducible apply State.done_keeps)
    | (with_reducible apply State.lampStore_keeps)
    | (with_reducible apply State.modLamp_keeps)
    | (with_reducible apply State.present_keeps)
    | (with_reducible apply State.run_keeps)
    | (with_reducible apply Keeps.ite)
    | split

theorem execLampPattern_keeps (t : Tag) (hz : Keeps z s) : ∃ y, execLampPattern t s = .next y ∧ Keeps z y := by
  unfold execLampPattern
  refine ⟨_, rfl, ?_⟩
  repeat' first
    | (with_reducible assumption)
    | (intro x; subst x)
    | intro _
    | lift_lets
    | (with_reducible apply State.complete_keeps)
    | (with_reducible apply State.done_keeps)
    | (with_reducible apply State.modLamp_keeps)
    | (with_reducible apply State.put_keeps)
    | (with_reducible apply State.run_keeps)
    | (with_reducible apply Keeps.ite)

theorem execLampStatus_keeps (t : Tag) (hz : Keeps z s) : ∃ y, execLampStatus t s = .next y ∧ Keeps z y := by
  unfold execLampStatus
  refine ⟨_, rfl, ?_⟩
  repeat' first
    | (with_reducible assumption)
    | (intro x; subst x)
    | intro _
    | lift_lets
    | (with_reducible apply State.complete_keeps)
    | (with_reducible apply State.run_keeps)

theorem execThmRead_keeps (t : Tag) (hz : Keeps z s) : ∃ y, execThmRead t s = .next y ∧ Keeps z y := by
  unfold execThmRead
  refine ⟨_, rfl, ?_⟩
  repeat' first
    | (with_reducible assumption)
    | intro _
    | (with_reducible apply State.done_keeps)
    | (with_reducible apply State.run_keeps)

theorem execRemotePost_keeps (t : Tag) (hz : Keeps z s) : ∃ y, execRemotePost t s = .next y ∧ Keeps z y := by
  unfold execRemotePost
  refine ⟨_, rfl, ?_⟩
  repeat' first
    | (with_reducible assumption)
    | intro _
    | (with_reducible apply State.done_keeps)
    | (with_reducible apply State.postRemote_keeps)
    | (with_reducible apply State.run_keeps)

theorem execAlarmClear_keeps (t : Tag) (hz : Keeps z s) : ∃ y, execAlarmClear t s = .next y ∧ Keeps z y := by
  unfold execAlarmClear
  refine ⟨_, rfl, ?_⟩
  repeat' first
    | (with_reducible assumption)
    | (intro (x : State); refine_lift have : Keeps z x := ?val; ?main; (case' val => subst x); (case' main => first | clear_value x | subst x))
    | (intro x; subst x)
    | intro _
    | lift_lets
    | (with_reducible apply State.almClear_keeps)
    | (with_reducible apply State.done_keeps)
    | (with_reducible apply State.run_keeps)

theorem execDiodeClear_keeps (t : Tag) (hz : Keeps z s) : ∃ y, execDiodeClear t s = .next y ∧ Keeps z y := by
  unfold execDiodeClear
  refine ⟨_, rfl, ?_⟩
  repeat' first
    | (with_reducible assumption)
    | intro _
    | (with_reducible apply State.diodeClear_keeps)
    | (with_reducible apply State.done_keeps)
    | (with_reducible apply State.run_keeps)

theorem execAdcConvert_keeps (t : Tag) (hz : Keeps z s) : ∃ y, execAdcConvert t s = .next y ∧ Keeps z y := by
  unfold execAdcConvert
  refine ⟨_, rfl, ?_⟩
  repeat' first
    | (with_reducible assumption)
    | intro _
    | (with_reducible apply State.run_keeps)
    | (with_reducible refine Keeps.upd rfl rfl rfl rfl rfl rfl rfl rfl rfl rfl rfl rfl rfl rfl rfl rfl ?_; first  | (with_reducible assumption))

theorem execAdcCal_keeps (t : Tag) (hz : Keeps z s) : ∃ y, execAdcCal t s = .next y ∧ Keeps z y := by
  unfold execAdcCal
  refine ⟨_, rfl, ?_⟩
  repeat' first
    | (with_reducible assumption)
    | intro _
    | (with_reducible apply State.complete_keeps)
    | (with_reducible apply State.run_keeps)
    | (with_reducible apply Keeps.ite)
    | (with_reducible refine Keeps.upd rfl rfl rfl rfl rfl rfl rfl rfl rfl rfl rfl rfl rfl rfl rfl rfl ?_; first  | (with_reducible assumption))

theorem execLedgerRead_keeps (t : Tag) (hz : Keeps z s) : ∃ y, execLedgerRead t s = .next y ∧ Keeps z y := by
  unfold execLedgerRead
  refine ⟨_, rfl, ?_⟩
  repeat' first
    | (with_reducible assumption)
    | intro _
    | (with_reducible apply State.doneBuf_keeps)
    | (with_reducible apply State.run_keeps)

theorem execLogRead_keeps (t : Tag) (more : Bool) (hz : Keeps z s) : ∃ y, execLogRead t more s = .next y ∧ Keeps z y := by
  unfold execLogRead
  refine ⟨_, rfl, ?_⟩
  repeat' first
    | (with_reducible assumption)
    | (intro (x : State); refine_lift have : Keeps z x := ?val; ?main; (case' val => subst x); (case' main => first | clear_value x | subst x))
    | (intro x; subst x)
    | intro _
    | lift_lets
    | (with_reducible apply State.complete_keeps)
    | (with_reducible apply State.hostPut_keeps)
    | (with_reducible apply State.runLong_keeps)
    | (with_reducible apply Keeps.ite)
    | (with_reducible refine Keeps.foldl ?_ _ (fun _ _ _ => ?_))
    | (with_reducible refine Keeps.foldlPair ?_ _ (fun _ _ _ => ?_))
    | (refine Keeps.fst ?_ (by assumption))
    | split

theorem execLogBounds_keeps (t : Tag) (hz : Keeps z s) : ∃ y, execLogBounds t s = .next y ∧ Keeps z y := by
  unfold execLogBounds
  refine ⟨_, rfl, ?_⟩
  repeat' first
    | (with_reducible assumption)
    | intro _
    | (with_reducible apply State.done_keeps)
    | (with_reducible apply State.run_keeps)

theorem execFwWrite_keeps (t : Tag) (data : List Byte) (err : Option DevErr) (more : Bool) (hz : Keeps z s) : ∃ y, execFwWrite t data err more s = .next y ∧ Keeps z y := by
  unfold execFwWrite
  refine ⟨_, rfl, ?_⟩
  repeat' first
    | (with_reducible assumption)
    | (intro (x : State); refine_lift have : Keeps z x := ?val; ?main; (case' val => subst x); (case' main => first | clear_value x | subst x))
    | (intro x; subst x)
    | intro _
    | lift_lets
    | (with_reducible apply State.claimSP0_keeps)
    | (with_reducible apply State.complete_keeps)
    | (with_reducible apply State.done_keeps)
    | (with_reducible apply State.emit_keeps)
    | (with_reducible apply State.freeSP0_keeps)
    | (with_reducible apply State.hostRd_keeps)
    | (with_reducible apply State.modCmd_keeps)
    | (with_reducible apply State.runLong_keeps)
    | (with_reducible apply Keeps.ite)
    | (refine Keeps.fst ?_ (by assumption))
    | split

theorem execFwErase_keeps (t : Tag) (err : Option DevErr) (more : Bool) (hz : Keeps z s) : ∃ y, execFwErase t err more s = .next y ∧ Keeps z y := by
  unfold execFwErase
  refine ⟨_, rfl, ?_⟩
  repeat' first
    | (with_reducible assumption)
    | (intro (x : State); refine_lift have : Keeps z x := ?val; ?main; (case' val => subst x); (case' main => first | clear_value x | subst x))
    | (intro x; subst x)
    | intro _
    | lift_lets
    | (with_reducible apply State.claimSP0_keeps)
    | (with_reducible apply State.complete_keeps)
    | (with_reducible apply State.done_keeps)
    | (with_reducible apply State.emit_keeps)
    | (with_reducible apply State.freeSP0_keeps)
    | (with_reducible apply State.runLong_keeps)
    | (with_reducible apply Keeps.ite)
    | (refine Keeps.fst ?_ (by assumption))
    | split

theorem execFwVerify_keeps (t : Tag) (img : Option (List Byte)) (hz : Keeps z s) : ∃ y, execFwVerify t img s = .next y ∧ Keeps z y := by
  unfold execFwVerify
  refine ⟨_, rfl, ?_⟩
  repeat' first
    | (with_reducible assumption)
    | (intro (x : State); refine_lift have : Keeps z x := ?val; ?main; (case' val => subst x); (case' main => first | clear_value x | subst x))
    | (intro x; subst x)
    | intro _
    | lift_lets
    | (with_reducible apply State.claimSP0_keeps)
    | (with_reducible apply State.complete_keeps)
    | (with_reducible apply State.done_keeps)
    | (with_reducible apply State.freeSP0_keeps)
    | (with_reducible apply State.run_keeps)
    | (with_reducible apply Keeps.ite)
    | (refine Keeps.fst ?_ (by assumption))
    | split

theorem execFwPrefer_keeps (t : Tag) (hz : Keeps z s) : ∃ y, execFwPrefer t s = .next y ∧ Keeps z y := by
  unfold execFwPrefer
  refine ⟨_, rfl, ?_⟩
  repeat' first
    | (with_reducible assumption)
    | intro _
    | (with_reducible apply State.commitAsk_keeps)
    | (with_reducible apply State.run_keeps)

theorem execFwActivate_keeps (t : Tag) (hz : Keeps z s) : ∃ y, execFwActivate t s = .next y ∧ Keeps z y := by
  unfold execFwActivate
  refine ⟨_, rfl, ?_⟩
  repeat' first
    | (with_reducible assumption)
    | (intro x; subst x)
    | intro _
    | lift_lets
    | (with_reducible apply State.complete_keeps)
    | (with_reducible apply State.done_keeps)
    | (with_reducible apply State.run_keeps)
    | (with_reducible apply Keeps.ite)
    | (with_reducible refine Keeps.upd rfl rfl rfl rfl rfl rfl rfl rfl rfl rfl rfl rfl rfl rfl rfl rfl ?_; first  | (with_reducible assumption) | (with_reducible apply State.complete_keeps) | (with_reducible apply State.done_keeps))

theorem State.rollRaise_keeps (o : Origin) (k svn : Nat) (hz : Keeps z s) : Keeps z (State.rollRaise s o k svn) := by
  unfold State.rollRaise
  repeat' first
    | (with_reducible assumption)
    | (intro (x : State); refine_lift have : Keeps z x := ?val; ?main; (case' val => subst x); (case' main => first | clear_value x | subst x))
    | (intro x; subst x)
    | intro _
    | lift_lets
    | (with_reducible apply State.journal_keeps)
    | (with_reducible apply State.put_keeps)
    | (with_reducible apply State.touch_keeps)
    | (with_reducible apply Keeps.ite)
    | (with_reducible refine Keeps.upd rfl rfl rfl rfl rfl rfl rfl rfl rfl rfl rfl rfl rfl rfl rfl rfl ?_; first  | (with_reducible assumption))

theorem execFwCommit_keeps (t : Tag) (hz : Keeps z s) : ∃ y, execFwCommit t s = .next y ∧ Keeps z y := by
  unfold execFwCommit
  refine ⟨_, rfl, ?_⟩
  repeat' first
    | (with_reducible assumption)
    | (intro (x : State); refine_lift have : Keeps z x := ?val; ?main; (case' val => subst x); (case' main => first | clear_value x | subst x))
    | (intro x; subst x)
    | intro _
    | lift_lets
    | (with_reducible apply State.done_keeps)
    | (with_reducible apply State.rollRaise_keeps)
    | (with_reducible apply State.run_keeps)

theorem execPatchLoad_keeps (t : Tag) (img : List Byte) (hz : Keeps z s) : ∃ y, execPatchLoad t img s = .next y ∧ Keeps z y := by
  unfold execPatchLoad
  refine ⟨_, rfl, ?_⟩
  repeat' first
    | (with_reducible assumption)
    | (intro (x : State); refine_lift have : Keeps z x := ?val; ?main; (case' val => subst x); (case' main => first | clear_value x | subst x))
    | (intro x; subst x)
    | intro _
    | lift_lets
    | (with_reducible apply State.complete_keeps)
    | (with_reducible apply State.done_keeps)
    | (with_reducible apply State.hostRd_keeps)
    | (with_reducible apply State.run_keeps)
    | (with_reducible apply Keeps.ite)
    | (with_reducible refine Keeps.upd rfl rfl rfl rfl rfl rfl rfl rfl rfl rfl rfl rfl rfl rfl rfl rfl ?_; first | (with_reducible assumption) | (with_reducible apply State.complete_keeps) | (with_reducible apply State.done_keeps) | (with_reducible apply State.hostRd_keeps) | (with_reducible apply State.run_keeps) | (with_reducible apply Keeps.ite) | split)
    | split

theorem State.authCard_keeps (hz : Keeps z s) : Keeps z (State.authCard s) := by
  unfold State.authCard
  repeat' first
    | (with_reducible assumption)
    | (intro (x : State); refine_lift have : Keeps z x := ?val; ?main; (case' val => subst x); (case' main => first | clear_value x | subst x))
    | (intro x; subst x)
    | intro _
    | lift_lets
    | (with_reducible apply State.actAsk_keeps)
    | (with_reducible apply State.cdGo_keeps)
    | (with_reducible apply State.modCard_keeps)
    | (with_reducible apply Keeps.ite)

theorem execAuthOpen_keeps (t : Tag) (hz : Keeps z s) : ∃ y, execAuthOpen t s = .next y ∧ Keeps z y := by
  unfold execAuthOpen
  refine ⟨_, rfl, ?_⟩
  repeat' first
    | (with_reducible assumption)
    | (intro (x : State); refine_lift have : Keeps z x := ?val; ?main; (case' val => subst x); (case' main => first | clear_value x | subst x))
    | (intro x; subst x)
    | intro _
    | lift_lets
    | (with_reducible apply State.authCard_keeps)
    | (with_reducible apply State.complete_keeps)
    | (with_reducible apply State.run_keeps)
    | (with_reducible apply Keeps.ite)
    | (with_reducible refine Keeps.upd rfl rfl rfl rfl rfl rfl rfl rfl rfl rfl rfl rfl rfl rfl rfl rfl ?_; first  | (with_reducible assumption))

theorem execAuthClose_keeps (t : Tag) (hz : Keeps z s) : ∃ y, execAuthClose t s = .next y ∧ Keeps z y := by
  unfold execAuthClose
  refine ⟨_, rfl, ?_⟩
  repeat' first
    | (with_reducible assumption)
    | intro _
    | (with_reducible apply State.authClose_keeps)
    | (with_reducible apply State.complete_keeps)
    | (with_reducible apply State.done_keeps)
    | (with_reducible apply State.run_keeps)
    | (with_reducible apply Keeps.ite)

theorem execAuthStatus_keeps (t : Tag) (hz : Keeps z s) : ∃ y, execAuthStatus t s = .next y ∧ Keeps z y := by
  unfold execAuthStatus
  refine ⟨_, rfl, ?_⟩
  repeat' first
    | (with_reducible assumption)
    | intro _
    | (with_reducible apply State.done_keeps)
    | (with_reducible apply State.run_keeps)

theorem State.keyChange_keeps (o : Origin) (k : Nat) (w : Word) (key : List Byte) (hz : Keeps z s) : Keeps z (State.keyChange s o k w key) := by
  unfold State.keyChange
  repeat' first
    | (with_reducible assumption)
    | (intro (x : State); refine_lift have : Keeps z x := ?val; ?main; (case' val => subst x); (case' main => first | clear_value x | subst x))
    | (intro x; subst x)
    | intro _
    | lift_lets
    | (with_reducible apply State.journal_keeps)
    | (with_reducible apply State.setReg_keeps)
    | (with_reducible apply State.touch_keeps)
    | (with_reducible refine Keeps.upd rfl rfl rfl rfl rfl rfl rfl rfl rfl rfl rfl rfl rfl rfl rfl rfl ?_; first | (with_reducible assumption) | (with_reducible apply State.journal_keeps) | (with_reducible apply State.setReg_keeps) | (with_reducible apply State.touch_keeps) | split)

theorem execKeySet_keeps (t : Tag) (data : List Byte) (hz : Keeps z s) : ∃ y, execKeySet t data s = .next y ∧ Keeps z y := by
  unfold execKeySet
  refine ⟨_, rfl, ?_⟩
  repeat' first
    | (with_reducible assumption)
    | (intro (x : State); refine_lift have : Keeps z x := ?val; ?main; (case' val => subst x); (case' main => first | clear_value x | subst x))
    | (intro x; subst x)
    | intro _
    | lift_lets
    | (with_reducible apply State.done_keeps)
    | (with_reducible apply State.hostRd_keeps)
    | (with_reducible apply State.keyChange_keeps)
    | (with_reducible apply State.run_keeps)

theorem execKeyRevoke_keeps (t : Tag) (hz : Keeps z s) : ∃ y, execKeyRevoke t s = .next y ∧ Keeps z y := by
  unfold execKeyRevoke
  refine ⟨_, rfl, ?_⟩
  repeat' first
    | (with_reducible assumption)
    | (intro x; subst x)
    | intro _
    | lift_lets
    | (with_reducible apply State.done_keeps)
    | (with_reducible apply State.keyChange_keeps)
    | (with_reducible apply State.run_keeps)

theorem execMeasure_keeps (t : Tag) (hz : Keeps z s) : ∃ y, execMeasure t s = .next y ∧ Keeps z y := by
  unfold execMeasure
  refine ⟨_, rfl, ?_⟩
  repeat' first
    | (with_reducible assumption)
    | intro _
    | (with_reducible apply State.doneBuf_keeps)
    | (with_reducible apply State.run_keeps)

end Sys2Proof.Machine
end

