-- ==== Sys2Proof/Laws/KeepsCold.lean ====
section
/-!
SUPPORT. Every operation of Machine/Cold.lean keeps (Laws/Keeps.lean).
-/

namespace Sys2Proof.Machine

variable {z s : State}

set_option maxRecDepth 8000

theorem State.rtcNow_keeps (hz : Keeps z s) : Keeps z (State.rtcNow s).2 := by
  unfold State.rtcNow
  split
  · exact hz.take _ rfl
  · exact State.touch_keeps hz

theorem State.latchRtc_keeps (k : Nat) (hz : Keeps z s) : Keeps z (State.latchRtc s k) := by
  unfold State.latchRtc
  dsimp only
  exact State.put_keeps _ _ (State.put_keeps _ _ (State.rtcNow_keeps hz))

theorem execVaultEnter_keeps (hz : Keeps z s) : ∃ y, execVaultEnter s = .next y ∧ Keeps z y := by
  unfold execVaultEnter
  refine ⟨_, rfl, ?_⟩
  repeat' first
    | (with_reducible assumption)
    | (intro (x : State); refine_lift have : Keeps z x := ?val; ?main; (case' val => subst x); (case' main => first | clear_value x | subst x))
    | (intro x; subst x)
    | intro _
    | lift_lets
    | (with_reducible apply State.releaseOutputs_keeps)
    | (with_reducible apply Keeps.ite)
    | (with_reducible refine Keeps.upd rfl rfl rfl rfl rfl rfl rfl rfl rfl rfl rfl rfl rfl rfl rfl rfl ?_; first  | (with_reducible assumption))

theorem execTamper_keeps (high : Bool) (hz : Keeps z s) : ∃ y, execTamper high s = .next y ∧ Keeps z y := by
  unfold execTamper
  refine ⟨_, rfl, ?_⟩
  repeat' first
    | (with_reducible assumption)
    | (intro (x : State); refine_lift have : Keeps z x := ?val; ?main; (case' val => subst x); (case' main => first | clear_value x | subst x))
    | (intro x; subst x)
    | intro _
    | lift_lets
    | (with_reducible apply State.latchRtc_keeps)
    | (with_reducible apply State.put_keeps)
    | (with_reducible apply Keeps.ite)
    | (with_reducible refine Keeps.upd rfl rfl rfl rfl rfl rfl rfl rfl rfl rfl rfl rfl rfl rfl rfl rfl ?_; first  | (with_reducible assumption))

theorem execVaultWake_keeps (hz : Keeps z s) : ∃ y, execVaultWake s = .next y ∧ Keeps z y := by
  unfold execVaultWake
  refine ⟨_, rfl, ?_⟩
  repeat' first
    | (with_reducible assumption)
    | intro _
    | (with_reducible apply State.latchRtc_keeps)
    | (with_reducible apply State.put_keeps)
    | (with_reducible apply Keeps.ite)

theorem State.batLost_keeps (hz : Keeps z s) : Keeps z (State.batLost s) := by
  unfold State.batLost
  repeat' first
    | (with_reducible assumption)
    | intro _
    | (with_reducible apply Keeps.keepRegs)

theorem execVbatLoss_keeps (hz : Keeps z s) : ∃ y, execVbatLoss s = .next y ∧ Keeps z y := by
  unfold execVbatLoss
  refine ⟨_, rfl, ?_⟩
  repeat' first
    | (with_reducible assumption)
    | (intro (x : State); refine_lift have : Keeps z x := ?val; ?main; (case' val => subst x); (case' main => first | clear_value x | subst x))
    | (intro x; subst x)
    | intro _
    | lift_lets
    | (with_reducible apply State.batLost_keeps)
    | (with_reducible apply State.put_keeps)
    | (with_reducible apply Keeps.ite)
    | (with_reducible refine Keeps.upd rfl rfl rfl rfl rfl rfl rfl rfl rfl rfl rfl rfl rfl rfl rfl rfl ?_; first  | (with_reducible assumption))

theorem execVbatFitted_keeps (hz : Keeps z s) : ∃ y, execVbatFitted s = .next y ∧ Keeps z y := by
  unfold execVbatFitted
  refine ⟨_, rfl, ?_⟩
  repeat' first
    | (with_reducible assumption)
    | intro _
    | (with_reducible apply State.put_keeps)
    | (with_reducible apply Keeps.ite)
    | (with_reducible refine Keeps.upd rfl rfl rfl rfl rfl rfl rfl rfl rfl rfl rfl rfl rfl rfl rfl rfl ?_; first  | (with_reducible assumption))

theorem execRtcCrystalStop_keeps (hz : Keeps z s) : ∃ y, execRtcCrystalStop s = .next y ∧ Keeps z y := by
  unfold execRtcCrystalStop
  refine ⟨_, rfl, ?_⟩
  repeat' first
    | (with_reducible assumption)
    | intro _
    | (with_reducible apply Keeps.ite)
    | (with_reducible refine Keeps.upd rfl rfl rfl rfl rfl rfl rfl rfl rfl rfl rfl rfl rfl rfl rfl rfl ?_; first  | (with_reducible assumption))

theorem State.scan_keeps (d : Dir) (hz : Keeps z s) : Keeps z (State.scan s d) := by
  unfold State.scan
  repeat' first
    | (with_reducible assumption)
    | (intro (x : State); refine_lift have : Keeps z x := ?val; ?main; (case' val => subst x); (case' main => first | clear_value x | subst x))
    | (intro x; subst x)
    | intro _
    | lift_lets
    | (with_reducible apply State.log_keeps)
    | (with_reducible refine Keeps.foldl ?_ _ (fun _ _ _ => ?_))
    | (with_reducible refine Keeps.foldlPair ?_ _ (fun _ _ _ => ?_))
    | (refine Keeps.fst ?_ (by assumption))
    | split

theorem State.scanEnd_keeps (hz : Keeps z s) : Keeps z (State.scanEnd s) := by
  unfold State.scanEnd
  repeat' first
    | (with_reducible assumption)
    | intro _
    | (with_reducible refine Keeps.upd rfl rfl rfl rfl rfl rfl rfl rfl rfl rfl rfl rfl rfl rfl rfl rfl ?_; first | (with_reducible assumption) | split)

theorem State.coldStore_mem (i : ColdIn) : (State.coldStore s i).mem = s.st.mem := by
  unfold State.coldStore
  dsimp only
  split <;> rfl

theorem State.coldBase_carries (i : ColdIn) (trig : Nat) : Carries s (State.coldBase s i trig) :=
  ⟨rfl, List.prefix_refl _, Nat.le_refl _, fun w => keepRegs_wf _ w, fun _ => rfl,
    fun w => (congrArg (cellWf fun _ => (0 : Byte)) (State.coldStore_mem i)).trans w, fun _ => rfl⟩

theorem State.coldLoad_keeps (img : Option (List (Nat × Word))) (trig : Nat) (hz : Keeps z t) : Keeps z (State.coldLoad t img trig) := by
  unfold State.coldLoad
  repeat' first
    | (with_reducible assumption)
    | (intro (x : State); refine_lift have : Keeps z x := ?val; ?main; (case' val => subst x); (case' main => first | clear_value x | subst x))
    | (intro x; subst x)
    | intro _
    | lift_lets
    | (with_reducible apply State.nvLoad_keeps)
    | (with_reducible apply State.putB_keeps)
    | (with_reducible apply State.put_keeps)
    | (with_reducible refine Keeps.elim ?_ (fun _ => ?_))

theorem State.vaultRecords_keeps (rtc : Nat) (hz : Keeps z t) : Keeps z (State.vaultRecords t rtc) := by
  unfold State.vaultRecords
  repeat' first
    | (with_reducible assumption)
    | (intro (x : State); refine_lift have : Keeps z x := ?val; ?main; (case' val => subst x); (case' main => first | clear_value x | subst x))
    | (intro x; subst x)
    | intro _
    | lift_lets
    | (with_reducible apply State.log_keeps)
    | (with_reducible apply Keeps.ite)

theorem State.coldRecords_keeps (found : Store) (rtc : Nat) (trig : Nat) (closed : Option Nat) (items : List JItem) (timeRec : Option Nat) (collapsed : Bool) (hz : Keeps z s) : Keeps z (State.coldRecords s found rtc trig closed items timeRec collapsed) := by
  unfold State.coldRecords
  repeat' first
    | (with_reducible assumption)
    | (intro (x : State); refine_lift have : Keeps z x := ?val; ?main; (case' val => subst x); (case' main => first | clear_value x | subst x))
    | (intro x; subst x)
    | intro _
    | lift_lets
    | (with_reducible apply State.jnlBounds_keeps)
    | (with_reducible apply State.journal_keeps)
    | (with_reducible apply State.logAt_keeps)
    | (with_reducible apply State.log_keeps)
    | (with_reducible apply State.put_keeps)
    | (with_reducible apply State.scanEnd_keeps)
    | (with_reducible apply State.scan_keeps)
    | (with_reducible apply State.vaultRecords_keeps)
    | (with_reducible apply Keeps.ite)
    | (with_reducible refine Keeps.foldl ?_ _ (fun _ _ _ => ?_))
    | (with_reducible refine Keeps.foldlPair ?_ _ (fun _ _ _ => ?_))
    | (refine Keeps.fst ?_ (by assumption))
    | split

theorem execColdReset_carries (i : ColdIn) (s : State) : ∃ y, execColdReset i s = .next y ∧ Carries s y := by
  unfold execColdReset
  refine ⟨_, rfl, ?_⟩
  dsimp only
  have h : Keeps s (if s.rst.vbat then s else s.batLost) :=
    Keeps.ite (Keeps.refl s) (State.batLost_keeps (Keeps.refl s))
  refine (h.carries.trans (State.coldBase_carries i (if s.rst.vault && s.rst.vbat then 2 else 1))).trans (Keeps.carries ?_)
  exact State.coreStart_keeps (State.linksIdle_keeps (State.cocShow_keeps (State.patchBoot_keeps
    (State.coldRecords_keeps _ _ _ _ _ _ _ (State.coldLoad_keeps _ _ (Keeps.refl _))))))

end Sys2Proof.Machine
end

