-- ==== Sys2Proof/Laws/KeepsFrame.lean ====
section
/-!
SUPPORT. Every operation of Machine/Frame.lean keeps (Laws/Keeps.lean).
-/

namespace Sys2Proof.Machine

variable {z s : State}

set_option maxRecDepth 8000

theorem State.frameAccount_keeps (hz : Keeps z s) : Keeps z (State.frameAccount s) := by
  unfold State.frameAccount
  repeat' first
    | (with_reducible assumption)
    | (intro (x : State); refine_lift have : Keeps z x := ?val; ?main; (case' val => subst x); (case' main => first | clear_value x | subst x))
    | (intro x; subst x)
    | intro _
    | lift_lets
    | (with_reducible apply State.count_keeps)
    | (with_reducible apply State.logAt_keeps)
    | (with_reducible apply State.put_keeps)
    | (with_reducible apply Keeps.ite)
    | (with_reducible refine Keeps.upd rfl rfl rfl rfl rfl rfl rfl rfl rfl rfl rfl rfl rfl rfl rfl rfl ?_; first | (with_reducible assumption) | (with_reducible apply State.count_keeps) | (with_reducible apply State.logAt_keeps) | (with_reducible apply State.put_keeps) | (with_reducible apply Keeps.ite) | split)
    | split

theorem State.tickAdvance_carries (done : Nat) (e : Int) : Carries s (State.tickAdvance s done e) :=
  ⟨rfl, List.prefix_refl _, Nat.le_refl _, id, id, id, id⟩

theorem State.tickCommit_keeps (hz : Keeps z s) : Keeps z (State.tickCommit s) := by
  unfold State.tickCommit
  repeat' first
    | (with_reducible assumption)
    | intro _
    | (with_reducible apply State.commitApply_keeps)
    | (with_reducible apply Keeps.ite)
    | (refine Keeps.fst ?_ (by assumption))
    | (with_reducible refine Keeps.upd rfl rfl rfl rfl rfl rfl rfl rfl rfl rfl rfl rfl rfl rfl rfl rfl ?_; first | (with_reducible assumption) | (with_reducible apply State.commitApply_keeps) | (with_reducible apply Keeps.ite) | split)

theorem State.tickStart_keeps (hz : Keeps z s) : Keeps z (State.tickStart s) := by
  unfold State.tickStart
  repeat' first
    | (with_reducible assumption)
    | (intro (x : State); refine_lift have : Keeps z x := ?val; ?main; (case' val => subst x); (case' main => first | clear_value x | subst x))
    | (intro x; subst x)
    | intro _
    | lift_lets
    | (with_reducible apply State.pfwRelease_keeps)
    | (with_reducible apply Keeps.ite)
    | (with_reducible refine Keeps.upd rfl rfl rfl rfl rfl rfl rfl rfl rfl rfl rfl rfl rfl rfl rfl rfl ?_; first  | (with_reducible assumption))

theorem State.tickPulse_keeps (hz : Keeps z s) : Keeps z (State.tickPulse s) := by
  unfold State.tickPulse
  repeat' first
    | (with_reducible assumption)
    | (intro (x : State); refine_lift have : Keeps z x := ?val; ?main; (case' val => subst x); (case' main => first | clear_value x | subst x))
    | (intro x; subst x)
    | intro _
    | lift_lets
    | (with_reducible apply State.put_keeps)
    | (with_reducible apply Keeps.ite)
    | (refine Keeps.fst ?_ (by assumption))
    | (with_reducible refine Keeps.upd rfl rfl rfl rfl rfl rfl rfl rfl rfl rfl rfl rfl rfl rfl rfl rfl ?_; first | (with_reducible assumption) | (with_reducible apply State.put_keeps) | (with_reducible apply Keeps.ite) | split)
    | split

theorem State.tickRebind_keeps (hz : Keeps z s) : Keeps z (State.tickRebind s) := by
  unfold State.tickRebind
  repeat' first
    | (with_reducible assumption)
    | (intro (x : State); refine_lift have : Keeps z x := ?val; ?main; (case' val => subst x); (case' main => first | clear_value x | subst x))
    | (intro x; subst x)
    | intro _
    | lift_lets
    | (with_reducible apply State.dcKick_keeps)
    | (with_reducible apply State.flushOwner_keeps)
    | (with_reducible apply State.servedShow_keeps)
    | (with_reducible apply Keeps.ite)
    | (with_reducible refine Keeps.foldl ?_ _ (fun _ _ _ => ?_))
    | (with_reducible refine Keeps.foldlPair ?_ _ (fun _ _ _ => ?_))
    | (with_reducible refine Keeps.upd rfl rfl rfl rfl rfl rfl rfl rfl rfl rfl rfl rfl rfl rfl rfl rfl ?_; first | (with_reducible assumption) | (with_reducible apply State.dcKick_keeps) | (with_reducible apply State.flushOwner_keeps) | (with_reducible apply State.servedShow_keeps) | (with_reducible apply Keeps.ite) | (with_reducible refine Keeps.foldl ?_ _ (fun _ _ _ => ?_)) | split)
    | split

theorem State.phase1_keeps (hz : Keeps z s) : Keeps z (State.phase1 s) := by
  unfold State.phase1
  dsimp only
  repeat' first
    | (with_reducible assumption)
    | intro _
    | (with_reducible apply State.cardTick_keeps)
    | (with_reducible apply State.flrTry_keeps)
    | (with_reducible apply State.lampAdmitted_keeps)
    | (with_reducible apply State.pmeTry_keeps)
    | (with_reducible apply State.put_keeps)
    | (with_reducible apply State.tickPulse_keeps)
    | (with_reducible apply State.tickRebind_keeps)
    | (with_reducible apply State.tickStart_keeps)
    | (with_reducible apply State.xSettle_keeps)
    | (with_reducible refine Keeps.foldl ?_ _ (fun _ _ _ => ?_))
    | (with_reducible refine Keeps.foldlPair ?_ _ (fun _ _ _ => ?_))

theorem State.phase3_keeps (f : FrameIn) (hz : Keeps z s) : Keeps z (State.phase3 s f) := by
  unfold State.phase3
  repeat' first
    | (with_reducible assumption)
    | (intro (x : State); refine_lift have : Keeps z x := ?val; ?main; (case' val => subst x); (case' main => first | clear_value x | subst x))
    | (intro x; subst x)
    | intro _
    | lift_lets
    | (with_reducible apply State.busCounts_keeps)
    | (with_reducible apply State.busEvents_keeps)
    | (with_reducible apply State.cocoon_keeps)
    | (with_reducible apply State.crossCheck_keeps)
    | (with_reducible apply State.forRails_keeps)
    | (with_reducible apply State.judgeBulk_keeps)
    | (with_reducible apply State.judgeDischarge_keeps)
    | (with_reducible apply State.judgeLost_keeps)
    | (with_reducible apply State.judgeRails_keeps)
    | (with_reducible apply State.ledger_keeps)
    | (with_reducible apply State.predict_keeps)
    | (with_reducible apply State.snapshots_keeps)
    | (with_reducible apply State.superviseRail_keeps)
    | (with_reducible apply State.thmPhase3_keeps)
    | (with_reducible apply Keeps.ite)
    | (with_reducible refine Keeps.upd rfl rfl rfl rfl rfl rfl rfl rfl rfl rfl rfl rfl rfl rfl rfl rfl ?_; first | (with_reducible assumption) | (with_reducible apply State.busCounts_keeps) | (with_reducible apply State.busEvents_keeps) | (with_reducible apply State.cocoon_keeps) | (with_reducible apply State.crossCheck_keeps) | (with_reducible apply State.forRails_keeps) | (with_reducible apply State.judgeBulk_keeps) | (with_reducible apply State.judgeDischarge_keeps) | (with_reducible apply State.judgeLost_keeps) | (with_reducible apply State.judgeRails_keeps) | (with_reducible apply State.ledger_keeps) | (with_reducible apply State.predict_keeps) | (with_reducible apply State.snapshots_keeps) | (with_reducible apply State.superviseRail_keeps) | (with_reducible apply State.thmPhase3_keeps) | (with_reducible apply Keeps.ite) | split)
    | split

theorem State.flagRail_keeps (n : Nat) (hz : Keeps z s) : Keeps z (State.flagRail s n) := by
  unfold State.flagRail
  repeat' first
    | (with_reducible assumption)
    | (intro (x : State); refine_lift have : Keeps z x := ?val; ?main; (case' val => subst x); (case' main => first | clear_value x | subst x))
    | intro _
    | lift_lets
    | (with_reducible apply State.log_keeps)
    | (with_reducible apply State.modRail_keeps)
    | (with_reducible apply State.put_keeps)
    | (with_reducible apply State.setRail_keeps)
    | (with_reducible apply Keeps.ite)

theorem State.swSample_keeps (high : Bool) (hz : Keeps z s) : Keeps z (State.swSample s high) := by
  unfold State.swSample
  repeat' first
    | (with_reducible assumption)
    | intro _
    | (with_reducible apply Keeps.ite)
    | (with_reducible refine Keeps.upd rfl rfl rfl rfl rfl rfl rfl rfl rfl rfl rfl rfl rfl rfl rfl rfl ?_; first | (with_reducible assumption) | (with_reducible apply Keeps.ite) | split)
    | split

theorem State.phase4_keeps (f : FrameIn) (hz : Keeps z s) : Keeps z (State.phase4 s f) := by
  unfold State.phase4
  dsimp only
  repeat' first
    | (with_reducible assumption)
    | intro _
    | (with_reducible apply State.flagRail_keeps)
    | (with_reducible apply State.forRails_keeps)
    | (with_reducible apply State.seqComplete_keeps)
    | (with_reducible apply State.setRail_keeps)
    | (with_reducible apply State.shutdownEnd_keeps)
    | (with_reducible apply State.swSample_keeps)
    | (with_reducible apply Keeps.ite)

theorem State.dcRefused_keeps (n : Nat) (hz : Keeps z s) : Keeps z (State.dcRefused s n) := by
  unfold State.dcRefused
  repeat' first
    | (with_reducible assumption)
    | (intro (x : State); refine_lift have : Keeps z x := ?val; ?main; (case' val => subst x); (case' main => first | clear_value x | subst x))
    | (intro x; subst x)
    | intro _
    | lift_lets
    | (with_reducible apply State.dcRecord_keeps)
    | (with_reducible apply State.dcShow_keeps)
    | (with_reducible apply State.modChan_keeps)
    | (with_reducible apply State.put_keeps)

theorem State.itemRefused_keeps (r : Nat) (hz : Keeps z s) : Keeps z (State.itemRefused s r) := by
  unfold State.itemRefused
  repeat' first
    | (with_reducible assumption)
    | intro _
    | (with_reducible apply State.cardRefused_keeps)
    | (with_reducible apply State.dcRefused_keeps)
    | (with_reducible apply State.lampRefused_keeps)
    | (with_reducible apply State.scFail_keeps)
    | (with_reducible apply Keeps.ite)

theorem State.phase5_keeps (hz : Keeps z s) : Keeps z (State.phase5 s) := by
  unfold State.phase5
  repeat' first
    | (with_reducible assumption)
    | intro _
    | lift_lets
    | (with_reducible apply State.itemRefused_keeps)
    | (with_reducible apply State.judgeAbandoned_keeps)
    | (with_reducible apply State.judge_keeps)
    | (with_reducible apply Keeps.ite)
    | (with_reducible refine Keeps.foldl ?_ _ (fun _ _ _ => ?_))

theorem State.bistTick_keeps (hz : Keeps z s) : Keeps z (State.bistTick s) := by
  unfold State.bistTick
  repeat' first
    | (with_reducible assumption)
    | (intro (x : State); refine_lift have : Keeps z x := ?val; ?main; (case' val => subst x); (case' main => first | clear_value x | subst x))
    | (intro x; subst x)
    | intro _
    | lift_lets
    | (with_reducible apply State.bistEnd_keeps)
    | (with_reducible apply State.put_keeps)
    | (with_reducible apply Keeps.ite)
    | (refine Keeps.fst ?_ (by assumption))
    | (with_reducible refine Keeps.upd rfl rfl rfl rfl rfl rfl rfl rfl rfl rfl rfl rfl rfl rfl rfl rfl ?_; first | (with_reducible assumption) | (with_reducible apply State.bistEnd_keeps) | (with_reducible apply State.put_keeps) | (with_reducible apply Keeps.ite) | split)
    | split
    | (refine Keeps.updF rfl rfl rfl rfl rfl rfl rfl rfl rfl rfl rfl rfl rfl rfl rfl rfl ?_; first | (with_reducible assumption) | (with_reducible apply State.bistEnd_keeps) | (with_reducible apply State.put_keeps) | (with_reducible apply Keeps.ite) | split)

theorem State.phase6_keeps (hz : Keeps z s) : Keeps z (State.phase6 s) := by
  unfold State.phase6
  repeat' first
    | (with_reducible assumption)
    | intro _
    | (with_reducible apply State.evDropRecord_keeps)
    | (with_reducible apply State.lampService_keeps)
    | (with_reducible apply Keeps.ite)
    | (with_reducible refine Keeps.foldl ?_ _ (fun _ _ _ => ?_))
    | (with_reducible refine Keeps.foldlPair ?_ _ (fun _ _ _ => ?_))
    | split

theorem State.phaseMax_keeps (cycles : List Nat) (hz : Keeps z s) : Keeps z (State.phaseMax s cycles) := by
  unfold State.phaseMax
  repeat' first
    | (with_reducible assumption)
    | intro _
    | (with_reducible apply State.put_keeps)
    | (with_reducible refine Keeps.foldl ?_ _ (fun _ _ _ => ?_))

theorem State.framePhases_keeps (f : FrameIn) (hz : Keeps z s) : Keeps z (State.framePhases s f) := by
  unfold State.framePhases
  repeat' first
    | (with_reducible assumption)
    | (intro (x : State); refine_lift have : Keeps z x := ?val; ?main; (case' val => subst x); (case' main => first | clear_value x | subst x))
    | (intro x; subst x)
    | intro _
    | lift_lets
    | (with_reducible apply State.bistTick_keeps)
    | (with_reducible apply State.evWaiting_keeps)
    | (with_reducible apply State.fastPath_keeps)
    | (with_reducible apply State.phase1_keeps)
    | (with_reducible apply State.phase3_keeps)
    | (with_reducible apply State.phase4_keeps)
    | (with_reducible apply State.phase5_keeps)
    | (with_reducible apply State.phase6_keeps)
    | (with_reducible apply State.phaseMax_keeps)
    | (with_reducible apply State.pollCmds_keeps)
    | (with_reducible apply State.sweep_keeps)
    | (with_reducible apply State.thmTick_keeps)
    | (with_reducible apply Keeps.ite)
    | split

theorem State.sleepFrame_carries (f : FrameIn) : Carries s (State.sleepFrame s f) := by
  have h := State.frameAccount_keeps (State.opened_keeps (Keeps.refl s))
  have k := State.swSample_keeps f.swarmHigh (State.thmTick_keeps (State.put_keeps FRM_VIPTR_PTR (s.get FRM_VIPTR_PTR + 1)
    (Keeps.refl (s.opened.frameAccount.tickAdvance 0 f.xtal))))
  exact (h.carries.trans (State.tickAdvance_carries 0 f.xtal)).trans (Keeps.carries (Keeps.same k rfl))

theorem execFrameTick_carries (f : FrameIn) (s : State) : ∃ y, execFrameTick f s = .next y ∧ Carries s y := by
  unfold execFrameTick
  refine ⟨_, rfl, ?_⟩
  split
  · exact (Keeps.refl s).carries
  · split
    · exact State.tickAdvance_carries _ _
    · split
      · exact State.sleepFrame_carries f
      · have h := State.tickCommit_keeps (State.frameAccount_keeps (State.opened_keeps (Keeps.refl s)))
        exact (h.carries.trans (State.tickAdvance_carries _ _)).trans (State.framePhases_keeps f (Keeps.refl _)).carries

end Sys2Proof.Machine
end

