-- ==== Sys2Proof/Laws/KeepsPorts.lean ====
section
/-!
SUPPORT. Every operation of Machine/Ports.lean keeps (Laws/Keeps.lean).
-/

namespace Sys2Proof.Machine

variable {z s : State}

set_option maxRecDepth 8000

theorem State.modPort_keeps (n : Nat) (f : DPort → DPort) (hz : Keeps z s) : Keeps z (State.modPort s n f) :=
  hz.same (by simp [State.kept, State.units, State.modPort, modAt])

theorem State.cceStart_keeps (n : Nat) (hz : Keeps z s) : Keeps z (State.cceStart s n) := by
  unfold State.cceStart
  repeat' first
    | (with_reducible assumption)
    | (intro (x : State); refine_lift have : Keeps z x := ?val; ?main; (case' val => subst x); (case' main => first | clear_value x | subst x))
    | (intro x; subst x)
    | intro _
    | lift_lets
    | (with_reducible apply State.log_keeps)
    | (with_reducible apply State.modSub_keeps)
    | (with_reducible apply State.present_keeps)
    | (with_reducible apply State.scFail_keeps)
    | (with_reducible apply Keeps.ite)
    | (refine Keeps.fst ?_ (by assumption))
    | split

theorem execCceWrite_keeps (n : Fin 32) (hz : Keeps z s) : ∃ y, execCceWrite n s = .next y ∧ Keeps z y := by
  unfold execCceWrite
  refine ⟨_, rfl, ?_⟩
  repeat' first
    | (with_reducible assumption)
    | intro _
    | (with_reducible apply State.cceStart_keeps)
    | (with_reducible apply Keeps.ite)

theorem execCceRead_keeps (n : Fin 32) (hz : Keeps z s) : ∃ y, execCceRead n s = .next y ∧ Keeps z y := by
  unfold execCceRead
  refine ⟨_, rfl, ?_⟩
  repeat' first
    | (with_reducible assumption)
    | intro _
    | (with_reducible apply State.cceStart_keeps)
    | (with_reducible apply Keeps.ite)

theorem execCceControl_keeps (n : Fin 32) (hz : Keeps z s) : ∃ y, execCceControl n s = .next y ∧ Keeps z y := by
  unfold execCceControl
  refine ⟨_, rfl, ?_⟩
  repeat' first
    | (with_reducible assumption)
    | intro _
    | (with_reducible apply State.cceStart_keeps)
    | (with_reducible apply Keeps.ite)

theorem State.scListFail_keeps (n : Nat) (w : Walk) (hz : Keeps z s) : Keeps z (State.scListFail s n w) := by
  unfold State.scListFail
  repeat' first
    | (with_reducible assumption)
    | (intro (x : State); refine_lift have : Keeps z x := ?val; ?main; (case' val => subst x); (case' main => first | clear_value x | subst x))
    | (intro x; subst x)
    | intro _
    | lift_lets
    | (with_reducible apply State.log_keeps)
    | (with_reducible apply State.scFail_keeps)
    | (refine Keeps.fst ?_ (by assumption))
    | split

theorem State.readSegs_keeps (n : Nat) (w : Walk) (hz : Keeps z s) : Keeps z (State.readSegs s n w) := by
  unfold State.readSegs
  repeat' first
    | (with_reducible assumption)
    | intro _
    | (with_reducible apply State.hostRd_keeps)
    | (with_reducible refine Keeps.foldl ?_ _ (fun _ _ _ => ?_))

theorem State.gather_keeps (n : Nat) (ps : List (Nat × Nat)) (l : List Byte) (hz : Keeps z s) :
    Keeps z (State.gather s n ps l).1 := by
  induction ps generalizing s l with
  | nil => exact hz
  | cons p ps ih =>
    obtain ⟨a, k⟩ := p
    unfold State.gather
    split
    · exact ih _ hz
    · exact ih _ (State.hostRd_keeps _ _ _ hz)

theorem State.wires_keeps (n c : Nat) (ws : List Wire) (h : List Byte) (hz : Keeps z s) : Keeps z (State.wires s n c ws h).1 := by
  induction ws generalizing s c h with
  | nil => exact hz
  | cons w l ih =>
    cases w with
    | start b | lit b | pec => exact ih _ _ hz
    | mem a k | block a k v => exact ih _ _ (State.gather_keeps n [(a, k)] h hz)

theorem State.send_keeps (x : Nat) (n : Nat) (ws : List Wire) (h : List Byte) (hz : Keeps z s) : Keeps z (State.send s x n ws h) := by
  unfold State.send
  repeat' first
    | (with_reducible assumption)
    | (intro (x : State); refine_lift have : Keeps z x := ?val; ?main; (case' val => subst x); (case' main => first | clear_value x | subst x))
    | (intro x; subst x)
    | intro _
    | lift_lets
    | (with_reducible apply State.emit_keeps)
    | (with_reducible apply State.modSub_keeps)
    | (with_reducible apply State.wires_keeps)
    | (with_reducible apply Keeps.ite)
    | (refine Keeps.fst ?_ (by assumption))
    | split

theorem State.sendNew_keeps (x : Nat) (n : Nat) (ps : List (Nat × Nat)) (last : Bool) (h : List Byte) (hz : Keeps z s) : Keeps z (State.sendNew s x n ps last h) := by
  unfold State.sendNew
  repeat' first
    | (with_reducible assumption)
    | (intro (x : State); refine_lift have : Keeps z x := ?val; ?main; (case' val => subst x); (case' main => first | clear_value x | subst x))
    | (intro x; subst x)
    | intro _
    | lift_lets
    | (with_reducible apply State.modSub_keeps)
    | (with_reducible apply State.send_keeps)
    | (with_reducible apply Keeps.ite)
    | split

theorem State.writePieces_keeps (n : Nat) (x0 : List (Nat × Nat)) (x1 : List Byte) (hz : Keeps z s) : Keeps z (State.writePieces s n x0 x1) := by
  induction x0 generalizing s x1 with
  | nil => unfold State.writePieces; (try split) <;> exact hz
  | cons x l ih =>
  unfold State.writePieces
  repeat' first
    | (with_reducible assumption)
    | (with_reducible apply ih)
    | intro _
    | lift_lets
    | (with_reducible apply State.cchTouch_keeps)
    | (with_reducible apply State.hostPut_keeps)

theorem State.deliver_keeps (n : Nat) (ps : List (Nat × Nat)) (data : List Byte) (hz : Keeps z s) : Keeps z (State.deliver s n ps data) := by
  unfold State.deliver
  repeat' first
    | (with_reducible assumption)
    | (intro (x : State); refine_lift have : Keeps z x := ?val; ?main; (case' val => subst x); (case' main => first | clear_value x | subst x))
    | (intro x; subst x)
    | intro _
    | lift_lets
    | (with_reducible apply State.modSub_keeps)
    | (with_reducible apply State.writePieces_keeps)
    | (with_reducible apply Keeps.ite)
    | (with_reducible refine Keeps.upd rfl rfl rfl rfl rfl rfl rfl rfl rfl rfl rfl rfl rfl rfl rfl rfl ?_; first | (with_reducible assumption) | (with_reducible apply State.modSub_keeps) | (with_reducible apply State.writePieces_keeps) | (with_reducible apply Keeps.ite) | split)
    | split

theorem State.postApert_keeps (n : Nat) (hz : Keeps z s) : Keeps z (State.postApert s n) := by
  unfold State.postApert
  repeat' first
    | (with_reducible assumption)
    | (intro x; subst x)
    | intro _
    | lift_lets
    | (with_reducible apply State.postRemote_keeps)
    | (with_reducible refine Keeps.foldl ?_ _ (fun _ _ _ => ?_))

theorem State.opDone_keeps (n : Nat) (st : Nat) (hz : Keeps z s) : Keeps z (State.opDone s n st) := by
  unfold State.opDone
  repeat' first
    | (with_reducible assumption)
    | (intro (x : State); refine_lift have : Keeps z x := ?val; ?main; (case' val => subst x); (case' main => first | clear_value x | subst x))
    | (intro x; subst x)
    | intro _
    | lift_lets
    | (with_reducible apply State.modSub_keeps)
    | (with_reducible apply State.portRelease_keeps)
    | (with_reducible apply State.postApert_keeps)
    | (with_reducible apply State.scEntryDone_keeps)
    | (with_reducible apply State.scHoldTake_keeps)
    | (with_reducible apply State.scNext_keeps)
    | (with_reducible apply State.ssr_keeps)
    | (with_reducible apply Keeps.ite)
    | split

theorem State.opShort_keeps (n : Nat) (hz : Keeps z s) : Keeps z (State.opShort s n) := by
  unfold State.opShort
  repeat' first
    | (with_reducible assumption)
    | intro _
    | (with_reducible apply State.modSub_keeps)
    | (with_reducible apply State.opDone_keeps)
    | (with_reducible apply State.scFail_keeps)
    | (with_reducible apply Keeps.ite)

theorem State.opFull_keeps (n extra : Nat) (hz : Keeps z s) : Keeps z (State.opFull s n extra) := by
  unfold State.opFull
  repeat' first
    | (with_reducible assumption)
    | (intro (x : State); refine_lift have : Keeps z x := ?val; ?main; (case' val => subst x); (case' main => first | clear_value x | subst x))
    | intro _
    | lift_lets
    | (with_reducible apply State.modSub_keeps)
    | (with_reducible apply State.opDone_keeps)
    | (with_reducible apply State.scFail_keeps)
    | (with_reducible apply Keeps.ite)

theorem State.burstOpen_keeps (x : Nat) (n : Nat) (hz : Keeps z s) : Keeps z (State.burstOpen s x n) := by
  unfold State.burstOpen
  repeat' first
    | (with_reducible assumption)
    | (intro (x : State); refine_lift have : Keeps z x := ?val; ?main; (case' val => subst x); (case' main => first | clear_value x | subst x))
    | (intro x; subst x)
    | intro _
    | lift_lets
    | (with_reducible apply State.admDrop_keeps)
    | (with_reducible apply State.modPort_keeps)
    | (with_reducible apply State.modSub_keeps)
    | (with_reducible apply State.put_keeps)
    | (with_reducible apply Keeps.ite)
    | split

theorem State.devFail_keeps (x n : Nat) (e : DevErr) (hz : Keeps z s) : Keeps z (State.devFail s x n e) := by
  unfold State.devFail
  repeat' first
    | (with_reducible assumption)
    | (intro (x : State); refine_lift have : Keeps z x := ?val; ?main; (case' val => subst x); (case' main => first | clear_value x | subst x))
    | intro _
    | lift_lets
    | (with_reducible apply State.log_keeps)
    | (with_reducible apply State.modPort_keeps)
    | (with_reducible apply State.modSub_keeps)
    | (with_reducible apply State.put_keeps)
    | (with_reducible apply State.scFail_keeps)
    | (with_reducible apply Keeps.ite)
    | (refine Keeps.fst ?_ (by assumption))
    | (with_reducible refine Keeps.upd rfl rfl rfl rfl rfl rfl rfl rfl rfl rfl rfl rfl rfl rfl rfl rfl ?_; first | (with_reducible assumption) | (with_reducible apply State.log_keeps) | (with_reducible apply State.modPort_keeps) | (with_reducible apply State.modSub_keeps) | (with_reducible apply State.put_keeps) | (with_reducible apply State.scFail_keeps) | (with_reducible apply Keeps.ite) | split)

theorem State.flashMove_keeps (x n k : Nat) (hz : Keeps z s) : Keeps z (State.flashMove s x n k) := by
  unfold State.flashMove
  repeat' first
    | (with_reducible assumption)
    | intro _
    | (with_reducible apply State.modSub_keeps)
    | (with_reducible apply Keeps.ite)

theorem State.scAdvance_keeps (x : Nat) (n : Nat) (w : Walk) (k : Nat) (hz : Keeps z s) : Keeps z (State.scAdvance s x n w k) := by
  unfold State.scAdvance
  repeat' first
    | (with_reducible assumption)
    | (intro (x : State); refine_lift have : Keeps z x := ?val; ?main; (case' val => subst x); (case' main => first | clear_value x | subst x))
    | (intro x; subst x)
    | intro _
    | lift_lets
    | (with_reducible apply State.flashMove_keeps)
    | (with_reducible apply State.modPort_keeps)
    | (with_reducible apply State.modSub_keeps)
    | (with_reducible apply State.put_keeps)
    | (with_reducible apply State.scShow_keeps)

theorem State.asRead_keeps (x : Nat) (n : Nat) (b : BurstIn) (hz : Keeps z s) : Keeps z (State.asRead s x n b) := by
  unfold State.asRead
  repeat' first
    | (with_reducible assumption)
    | (intro (x : State); refine_lift have : Keeps z x := ?val; ?main; (case' val => subst x); (case' main => first | clear_value x | subst x))
    | (intro x; subst x)
    | intro _
    | lift_lets
    | (with_reducible apply State.deliver_keeps)
    | (with_reducible apply State.modPort_keeps)
    | (with_reducible apply State.opDone_keeps)
    | (with_reducible apply State.opShort_keeps)
    | (with_reducible apply State.put_keeps)
    | (with_reducible apply State.readSegs_keeps)
    | (with_reducible apply State.scAdvance_keeps)
    | (with_reducible apply State.scFail_keeps)
    | (with_reducible apply State.scListFail_keeps)
    | (with_reducible apply Keeps.ite)
    | (refine Keeps.fst ?_ (by assumption))
    | split

theorem State.gpioDrive_keeps (mask vals : Nat) (hz : Keeps z s) : Keeps z (State.gpioDrive s mask vals) := by
  unfold State.gpioDrive
  repeat' first
    | (with_reducible assumption)
    | (intro x; subst x)
    | intro _
    | lift_lets
    | (with_reducible apply State.put_keeps)

theorem State.gpioOp_keeps (n : Nat) (b : BurstIn) (hz : Keeps z s) : Keeps z (State.gpioOp s n b) := by
  unfold State.gpioOp
  repeat' first
    | (with_reducible assumption)
    | (intro (x : State); refine_lift have : Keeps z x := ?val; ?main; (case' val => subst x); (case' main => first | clear_value x | subst x))
    | (intro x; subst x)
    | intro _
    | lift_lets
    | (with_reducible apply State.deliver_keeps)
    | (with_reducible apply State.gather_keeps)
    | (with_reducible apply State.gpioDrive_keeps)
    | (with_reducible apply State.opDone_keeps)
    | (with_reducible apply State.readSegs_keeps)
    | (with_reducible apply State.scAdvance_keeps)
    | (with_reducible apply State.scFail_keeps)
    | (with_reducible apply State.scListFail_keeps)
    | (with_reducible apply Keeps.ite)
    | (refine Keeps.fst ?_ (by assumption))
    | split

theorem State.flashPoll_keeps (x : Nat) (n : Nat) (b : BurstIn) (done : State → State) (Hdone : ∀ y0, Keeps z y0 → Keeps z (done y0)) (hz : Keeps z s) : Keeps z (State.flashPoll s x n b done) := by
  unfold State.flashPoll
  repeat' first
    | (with_reducible assumption)
    | (intro (x : State); refine_lift have : Keeps z x := ?val; ?main; (case' val => subst x); (case' main => first | clear_value x | subst x))
    | (intro x; subst x)
    | intro _
    | lift_lets
    | (with_reducible apply Hdone)
    | (with_reducible apply State.modPort_keeps)
    | (with_reducible apply State.modSub_keeps)
    | (with_reducible apply Keeps.ite)
    | split

theorem State.flashErase_keeps (x : Nat) (n : Nat) (k : Nat) (b : BurstIn) (hz : Keeps z s) : Keeps z (State.flashErase s x n k b) := by
  unfold State.flashErase
  repeat' first
    | (with_reducible assumption)
    | (intro (x : State); refine_lift have : Keeps z x := ?val; ?main; (case' val => subst x); (case' main => first | clear_value x | subst x))
    | (intro x; subst x)
    | intro _
    | lift_lets
    | (with_reducible apply State.emit_keeps)
    | (with_reducible apply State.flashPoll_keeps)
    | (with_reducible apply State.modSub_keeps)
    | (with_reducible apply State.opDone_keeps)
    | (with_reducible apply Keeps.ite)
    | (refine Keeps.fst ?_ (by assumption))
    | split

theorem State.controlOp_keeps (x : Nat) (n : Nat) (b : BurstIn) (hz : Keeps z s) : Keeps z (State.controlOp s x n b) := by
  unfold State.controlOp
  repeat' first
    | (with_reducible assumption)
    | (intro (x : State); refine_lift have : Keeps z x := ?val; ?main; (case' val => subst x); (case' main => first | clear_value x | subst x))
    | (intro x; subst x)
    | intro _
    | lift_lets
    | (with_reducible apply State.emit_keeps)
    | (with_reducible apply State.flashErase_keeps)
    | (with_reducible apply State.log_keeps)
    | (with_reducible apply State.modPort_keeps)
    | (with_reducible apply State.modSub_keeps)
    | (with_reducible apply State.opDone_keeps)
    | (with_reducible apply State.put_keeps)
    | (with_reducible apply Keeps.ite)
    | (refine Keeps.fst ?_ (by assumption))
    | split

theorem State.sendAgain_keeps (x : Nat) (n : Nat) (b : BurstIn) (hz : Keeps z s) : Keeps z (State.sendAgain s x n b) := by
  unfold State.sendAgain
  repeat' first
    | (with_reducible assumption)
    | (intro (x : State); refine_lift have : Keeps z x := ?val; ?main; (case' val => subst x); (case' main => first | clear_value x | subst x))
    | (intro x; subst x)
    | intro _
    | lift_lets
    | (with_reducible apply State.devFail_keeps)
    | (with_reducible apply State.modSub_keeps)
    | (with_reducible apply State.scFail_keeps)
    | (with_reducible apply State.send_keeps)
    | (refine Keeps.fst ?_ (by assumption))
    | split

theorem State.flashProgram_keeps (x : Nat) (n : Nat) (b : BurstIn) (hz : Keeps z s) : Keeps z (State.flashProgram s x n b) := by
  unfold State.flashProgram
  repeat' first
    | (with_reducible assumption)
    | (intro (x : State); refine_lift have : Keeps z x := ?val; ?main; (case' val => subst x); (case' main => first | clear_value x | subst x))
    | (intro x; subst x)
    | intro _
    | lift_lets
    | (with_reducible apply State.emit_keeps)
    | (with_reducible apply State.flashPoll_keeps)
    | (with_reducible apply State.gather_keeps)
    | (with_reducible apply State.modSub_keeps)
    | (with_reducible apply State.opDone_keeps)
    | (with_reducible apply State.readSegs_keeps)
    | (with_reducible apply State.scAdvance_keeps)
    | (with_reducible apply State.scFail_keeps)
    | (with_reducible apply State.scListFail_keeps)
    | (with_reducible apply Keeps.ite)
    | (refine Keeps.fst ?_ (by assumption))
    | split

theorem State.dataOp_keeps (x : Nat) (n : Nat) (b : BurstIn) (hz : Keeps z s) : Keeps z (State.dataOp s x n b) := by
  unfold State.dataOp
  repeat' first
    | (with_reducible assumption)
    | (intro (x : State); refine_lift have : Keeps z x := ?val; ?main; (case' val => subst x); (case' main => first | clear_value x | subst x))
    | (intro x; subst x)
    | intro _
    | lift_lets
    | (with_reducible apply State.deliver_keeps)
    | (with_reducible apply State.devFail_keeps)
    | (with_reducible apply State.emit_keeps)
    | (with_reducible apply State.modSub_keeps)
    | (with_reducible apply State.opFull_keeps)
    | (with_reducible apply State.opShort_keeps)
    | (with_reducible apply State.readSegs_keeps)
    | (with_reducible apply State.scAdvance_keeps)
    | (with_reducible apply State.scFail_keeps)
    | (with_reducible apply State.scListFail_keeps)
    | (with_reducible apply State.sendNew_keeps)
    | (with_reducible apply Keeps.ite)
    | (refine Keeps.fst ?_ (by assumption))
    | split

theorem State.burstBegin_keeps (x : Nat) (n : Nat) (b : BurstIn) (hz : Keeps z s) : Keeps z (State.burstBegin s x n b) := by
  unfold State.burstBegin
  repeat' first
    | (with_reducible assumption)
    | (intro (x : State); refine_lift have : Keeps z x := ?val; ?main; (case' val => subst x); (case' main => first | clear_value x | subst x))
    | (intro x; subst x)
    | intro _
    | lift_lets
    | (with_reducible apply State.burstOpen_keeps)
    | (with_reducible apply State.log_keeps)
    | (with_reducible apply State.modSub_keeps)
    | (with_reducible apply Keeps.ite)
    | split

theorem execPortBurst_keeps (x : Fin 13) (b : BurstIn) (hz : Keeps z s) : ∃ y, execPortBurst x b s = .next y ∧ Keeps z y := by
  unfold execPortBurst
  refine ⟨_, rfl, ?_⟩
  repeat' first
    | (with_reducible assumption)
    | (intro (x : State); refine_lift have : Keeps z x := ?val; ?main; (case' val => subst x); (case' main => first | clear_value x | subst x))
    | (intro x; subst x)
    | intro _
    | lift_lets
    | (with_reducible apply State.asRead_keeps)
    | (with_reducible apply State.burstBegin_keeps)
    | (with_reducible apply State.controlOp_keeps)
    | (with_reducible apply State.dataOp_keeps)
    | (with_reducible apply State.devFail_keeps)
    | (with_reducible apply State.flashProgram_keeps)
    | (with_reducible apply State.gpioOp_keeps)
    | (with_reducible apply State.opShort_keeps)
    | (with_reducible apply State.sendAgain_keeps)
    | (with_reducible apply Keeps.ite)
    | (refine Keeps.fst ?_ (by assumption))
    | split

theorem State.senseRun_keeps (n : Nat) (lv : Nat) (hz : Keeps z s) : Keeps z (State.senseRun s n lv) := by
  unfold State.senseRun
  repeat' first
    | (with_reducible assumption)
    | (intro (x : State); refine_lift have : Keeps z x := ?val; ?main; (case' val => subst x); (case' main => first | clear_value x | subst x))
    | (intro x; subst x)
    | intro _
    | lift_lets
    | (with_reducible apply State.modPort_keeps)
    | (with_reducible apply State.modSub_keeps)
    | (with_reducible apply State.scEntryDone_keeps)
    | (with_reducible apply State.writePieces_keeps)
    | (with_reducible apply Keeps.ite)
    | (with_reducible refine Keeps.foldl ?_ _ (fun _ _ _ => ?_))
    | (with_reducible refine Keeps.foldlPair ?_ _ (fun _ _ _ => ?_))
    | (with_reducible refine Keeps.upd rfl rfl rfl rfl rfl rfl rfl rfl rfl rfl rfl rfl rfl rfl rfl rfl ?_; first | (with_reducible assumption) | (with_reducible apply State.modPort_keeps) | (with_reducible apply State.modSub_keeps) | (with_reducible apply State.scEntryDone_keeps) | (with_reducible apply State.writePieces_keeps) | (with_reducible apply Keeps.ite) | (with_reducible refine Keeps.foldl ?_ _ (fun _ _ _ => ?_)) | split)
    | split

theorem execCceSense_keeps (n : Fin 32) (lv : Nat) (hz : Keeps z s) : ∃ y, execCceSense n lv s = .next y ∧ Keeps z y := by
  unfold execCceSense
  refine ⟨_, rfl, ?_⟩
  repeat' first
    | (with_reducible assumption)
    | (intro (x : State); refine_lift have : Keeps z x := ?val; ?main; (case' val => subst x); (case' main => first | clear_value x | subst x))
    | (intro x; subst x)
    | intro _
    | lift_lets
    | (with_reducible apply State.admDrop_keeps)
    | (with_reducible apply State.modSub_keeps)
    | (with_reducible apply State.present_keeps)
    | (with_reducible apply State.senseRun_keeps)
    | (with_reducible apply Keeps.ite)
    | split

theorem execFlashBusyTimeout_keeps (x : Fin 2) (hz : Keeps z s) : ∃ y, execFlashBusyTimeout x s = .next y ∧ Keeps z y := by
  unfold execFlashBusyTimeout
  refine ⟨_, rfl, ?_⟩
  repeat' first
    | (with_reducible assumption)
    | (intro (x : State); refine_lift have : Keeps z x := ?val; ?main; (case' val => subst x); (case' main => first | clear_value x | subst x))
    | (intro x; subst x)
    | intro _
    | lift_lets
    | (with_reducible apply State.scFail_keeps)
    | (with_reducible apply Keeps.ite)
    | (refine Keeps.fst ?_ (by assumption))
    | split

theorem execAsCharacterReceived_keeps (x : Fin 2) (c : Byte) (bad : Bool) (brk : Bool) (hz : Keeps z s) : ∃ y, execAsCharacterReceived x c bad brk s = .next y ∧ Keeps z y := by
  unfold execAsCharacterReceived
  refine ⟨_, rfl, ?_⟩
  repeat' first
    | (with_reducible assumption)
    | (intro (x : State); refine_lift have : Keeps z x := ?val; ?main; (case' val => subst x); (case' main => first | clear_value x | subst x))
    | (intro x; subst x)
    | intro _
    | lift_lets
    | (with_reducible apply State.modPort_keeps)
    | (with_reducible apply State.put_keeps)
    | (with_reducible apply Keeps.ite)
    | split

theorem execAsReadIdleEnd_keeps (x : Fin 2) (hz : Keeps z s) : ∃ y, execAsReadIdleEnd x s = .next y ∧ Keeps z y := by
  unfold execAsReadIdleEnd
  refine ⟨_, rfl, ?_⟩
  repeat' first
    | (with_reducible assumption)
    | (intro x; subst x)
    | intro _
    | lift_lets
    | (with_reducible apply State.opShort_keeps)
    | (with_reducible apply Keeps.ite)

theorem execIbiReceived_keeps (x : Fin 2) (addr : BitVec 7) (payload : Byte) (hz : Keeps z s) : ∃ y, execIbiReceived x addr payload s = .next y ∧ Keeps z y := by
  unfold execIbiReceived
  refine ⟨_, rfl, ?_⟩
  repeat' first
    | (with_reducible assumption)
    | (intro (x : State); refine_lift have : Keeps z x := ?val; ?main; (case' val => subst x); (case' main => first | clear_value x | subst x))
    | (intro x; subst x)
    | intro _
    | lift_lets
    | (with_reducible apply State.count_keeps)
    | (with_reducible apply State.modPort_keeps)
    | (with_reducible apply State.put_keeps)
    | (with_reducible apply Keeps.ite)
    | (with_reducible refine Keeps.upd rfl rfl rfl rfl rfl rfl rfl rfl rfl rfl rfl rfl rfl rfl rfl rfl ?_; first | (with_reducible assumption) | (with_reducible apply State.count_keeps) | (with_reducible apply State.modPort_keeps) | (with_reducible apply State.put_keeps) | (with_reducible apply Keeps.ite) | split)

theorem execDpHotjoin_keeps (x : Fin 2) (addr : Nat) (hz : Keeps z s) : ∃ y, execDpHotjoin x addr s = .next y ∧ Keeps z y := by
  unfold execDpHotjoin
  refine ⟨_, rfl, ?_⟩
  repeat' first
    | (with_reducible assumption)
    | intro _
    | (with_reducible apply State.log_keeps)
    | (with_reducible apply State.put_keeps)
    | (with_reducible apply Keeps.ite)

theorem execGpioEdge_keeps (g : Fin 32) (high : Bool) (hz : Keeps z s) : ∃ y, execGpioEdge g high s = .next y ∧ Keeps z y := by
  unfold execGpioEdge
  refine ⟨_, rfl, ?_⟩
  repeat' first
    | (with_reducible assumption)
    | (intro (x : State); refine_lift have : Keeps z x := ?val; ?main; (case' val => subst x); (case' main => first | clear_value x | subst x))
    | (intro x; subst x)
    | intro _
    | lift_lets
    | (with_reducible apply State.put_keeps)
    | (with_reducible apply Keeps.ite)
    | (with_reducible refine Keeps.upd rfl rfl rfl rfl rfl rfl rfl rfl rfl rfl rfl rfl rfl rfl rfl rfl ?_; first | (with_reducible assumption) | (with_reducible apply State.put_keeps) | (with_reducible apply Keeps.ite) | split)
    | split

theorem execSfdpDiscovery_keeps (c : Fin 4) (words : Option (List Word)) (badWord : Nat) (hz : Keeps z s) : ∃ y, execSfdpDiscovery c words badWord s = .next y ∧ Keeps z y := by
  unfold execSfdpDiscovery
  refine ⟨_, rfl, ?_⟩
  repeat' first
    | (with_reducible assumption)
    | (intro (x : State); refine_lift have : Keeps z x := ?val; ?main; (case' val => subst x); (case' main => first | clear_value x | subst x))
    | (intro x; subst x)
    | intro _
    | lift_lets
    | (with_reducible apply State.log_keeps)
    | (with_reducible apply State.put_keeps)
    | (with_reducible apply State.setReg_keeps)
    | (with_reducible apply Keeps.ite)
    | (with_reducible refine Keeps.foldl ?_ _ (fun _ _ _ => ?_))
    | (refine Keeps.fst ?_ (by assumption))
    | (with_reducible refine Keeps.upd rfl rfl rfl rfl rfl rfl rfl rfl rfl rfl rfl rfl rfl rfl rfl rfl ?_; first | (with_reducible assumption) | (with_reducible apply State.log_keeps) | (with_reducible apply State.put_keeps) | (with_reducible apply State.setReg_keeps) | (with_reducible apply Keeps.ite) | split)

theorem execPbBusIdle_keeps (x : Fin 6) (hz : Keeps z s) : ∃ y, execPbBusIdle x s = .next y ∧ Keeps z y := by
  unfold execPbBusIdle
  refine ⟨_, rfl, ?_⟩
  repeat' first
    | (with_reducible assumption)
    | intro _
    | (with_reducible apply State.modPort_keeps)

theorem execAsCtsChange_keeps (x : Fin 2) (high : Bool) (hz : Keeps z s) : ∃ y, execAsCtsChange x high s = .next y ∧ Keeps z y := by
  unfold execAsCtsChange
  refine ⟨_, rfl, ?_⟩
  repeat' first
    | (with_reducible assumption)
    | intro _
    | (with_reducible apply State.modPort_keeps)

end Sys2Proof.Machine
end

