-- ==== Sys2Proof/Laws/Regs.lean ====
section
/-!
SUPPORT. The register file: what a read of a field gives after a write of a field, and that records, journal items and what
leaves the block change no register but the two counts of dropped records.
-/

namespace Sys2Proof.Machine

/-! ## Fields of a word -/

theorem fieldOf_testBit (x : Word) (lo w i : Nat) : (fieldOf x lo w).testBit i = (decide (i < w) && x.getLsbD (lo + i)) := by
  simp [fieldOf, Nat.testBit_mod_two_pow, Nat.testBit_div_two_pow, BitVec.getLsbD, Nat.add_comm]

theorem fieldMask_getLsbD (lo w i : Nat) : (fieldMask lo w).getLsbD i = (decide (i < 32) && decide (lo ≤ i) && decide (i < lo + w)) := by
  simp only [fieldMask, BitVec.getLsbD_ofNat, Nat.testBit_mul_two_pow, Nat.testBit_two_pow_sub_one]
  by_cases h : lo ≤ i
  · have e : decide (i - lo < w) = decide (i < lo + w) := by congr 1; simp only [eq_iff_iff]; omega
    simp [h, e]
  · simp [h]

theorem withField_getLsbD (x : Word) (lo w v i : Nat) :
    (withField x lo w v).getLsbD i =
      (decide (i < 32) && (if lo ≤ i ∧ i < lo + w then v.testBit (i - lo) else x.getLsbD i)) := by
  simp only [withField, BitVec.getLsbD_or, BitVec.getLsbD_and, BitVec.getLsbD_not, fieldMask_getLsbD, BitVec.getLsbD_ofNat,
    Nat.testBit_mul_two_pow, Nat.testBit_mod_two_pow]
  by_cases h32 : i < 32 <;> by_cases h1 : lo ≤ i <;> by_cases h2 : i < lo + w <;> simp [h32, h1, h2]
  · intro h; omega
  · have : ¬ (i - lo < w) := by omega
    simp [this]

/-- A field that was written reads back what fits it. -/
theorem fieldOf_withField_same (x : Word) (lo w v : Nat) (h : lo + w ≤ 32) : fieldOf (withField x lo w v) lo w = v % 2 ^ w := by
  apply Nat.eq_of_testBit_eq
  intro i
  rw [fieldOf_testBit, withField_getLsbD, Nat.testBit_mod_two_pow]
  by_cases hi : i < w
  · have h1 : lo + i < 32 := by omega
    have h2 : lo + i < lo + w := by omega
    simp [hi, h1]
  · simp [hi]

/-- A disjoint field keeps its value. -/
theorem fieldOf_withField_other (x : Word) (lo w v lo' w' : Nat) (h : lo' + w' ≤ 32) (d : lo + w ≤ lo' ∨ lo' + w' ≤ lo) :
    fieldOf (withField x lo w v) lo' w' = fieldOf x lo' w' := by
  apply Nat.eq_of_testBit_eq
  intro i
  rw [fieldOf_testBit, fieldOf_testBit, withField_getLsbD]
  by_cases hi : i < w'
  · have h1 : lo' + i < 32 := by omega
    have h2 : ¬ (lo ≤ lo' + i ∧ lo' + i < lo + w) := by omega
    simp [hi, h1, h2]
  · simp [hi]

/-! ## Registers -/

variable {s t : State}

theorem State.get_regs (s : State) (f : FRef) : s.get f = fieldOf (cellGet resetWord s.regs f.off) f.lo f.w := rfl

/-- A field that was written reads back what fits it. -/
theorem State.get_put_same (h : regsWf s = true) (f : FRef) (v : Nat) (hf : f.lo + f.w ≤ 32) :
    (s.put f v).get f = v % 2 ^ f.w := by
  have hs := ((cellWf_iff resetWord s.regs).1 h).1
  simp only [State.get_regs, State.put, State.setReg, cellGet_set_same resetWord hs]
  exact fieldOf_withField_same _ _ _ _ hf

/-- A field elsewhere keeps its value. -/
theorem State.get_put_other (h : regsWf s = true) (f g : FRef) (v : Nat) (hg : g.lo + g.w ≤ 32)
    (d : f.off ≠ g.off ∨ f.lo + f.w ≤ g.lo ∨ g.lo + g.w ≤ f.lo) : (s.put f v).get g = s.get g := by
  have hs := ((cellWf_iff resetWord s.regs).1 h).1
  by_cases e : g.off = f.off
  · simp only [State.get_regs, State.put, State.setReg, e, cellGet_set_same resetWord hs]
    rw [fieldOf_withField_other _ _ _ _ _ _ hg (d.resolve_left (fun x => x e.symm))]
    rfl
  · simp only [State.get_regs, State.put, State.setReg, cellGet_set_other resetWord hs e]

theorem State.reg_put_other (h : regsWf s = true) (f : FRef) (v k : Nat) (d : k ≠ f.off) :
    (s.put f v).reg k = s.reg k := by
  have hs := ((cellWf_iff resetWord s.regs).1 h).1
  simp only [State.reg, State.put, State.setReg, cellGet_set_other resetWord hs d]

theorem State.regsWf_put (h : regsWf s = true) (f : FRef) (v : Nat) : regsWf (s.put f v) = true :=
  (State.put_keeps f v (Keeps.refl s)).regs h

theorem State.regsWf_setReg (h : regsWf s = true) (k : Nat) (w : Word) : regsWf (s.setReg k w) = true :=
  (State.setReg_keeps k w (Keeps.refl s)).regs h

theorem State.regsWf_log (h : regsWf s = true) (c n : Nat) (a : List (Option Nat)) : regsWf (s.log c n a) = true :=
  (State.log_keeps c n a (Keeps.refl s)).regs h

/-- A record changes no register but the counts of dropped records. -/
theorem State.reg_log (h : regsWf s = true) (c n : Nat) (a : List (Option Nat)) (k : Nat) (h1 : k ≠ JNL_EVDROP_COUNT.off)
    (h2 : k ≠ RNG_EVDROP_COUNT.off) : (s.log c n a).reg k = s.reg k := by
  have e (u : State) (f : FRef) : (u.count f) = u.put f (satInc f.w (u.get f)) := rfl
  unfold State.log State.logAt State.logWith
  dsimp only
  split
  · rfl
  · have w : regsWf s.touch = true := h
    split
    · exact State.reg_put_other w _ _ _ h1
    · split
      · exact State.reg_put_other w _ _ _ h1
      · rw [e]
        refine (State.reg_put_other ?_ _ _ _ h2).trans (State.reg_put_other w _ _ _ h1)
        exact State.regsWf_put w JNL_EVDROP_COUNT _

theorem State.get_log (h : regsWf s = true) (c n : Nat) (a : List (Option Nat)) (f : FRef) (h1 : f.off ≠ JNL_EVDROP_COUNT.off)
    (h2 : f.off ≠ RNG_EVDROP_COUNT.off) : (s.log c n a).get f = s.get f := by
  simp only [State.get, State.reg_log h c n a f.off h1 h2]

end Sys2Proof.Machine
end

