-- ==== Sys2Proof/Laws/State.lean ====
section
/-!
SUPPORT. What each named update of the state leaves alone, one lemma for each field, and what it makes of the field it changes.
-/

namespace Sys2Proof.Machine

variable (s : State)

@[simp] theorem State.setReg_tb (k : Nat) (w : Word) : (s.setReg k w).tb = s.tb := rfl
@[simp] theorem State.setReg_st (k : Nat) (w : Word) : (s.setReg k w).st = s.st := rfl
@[simp] theorem State.setReg_rails (k : Nat) (w : Word) : (s.setReg k w).rails = s.rails := rfl
@[simp] theorem State.setReg_seq (k : Nat) (w : Word) : (s.setReg k w).seq = s.seq := rfl
@[simp] theorem State.setReg_sw (k : Nat) (w : Word) : (s.setReg k w).sw = s.sw := rfl
@[simp] theorem State.setReg_sup (k : Nat) (w : Word) : (s.setReg k w).sup = s.sup := rfl
@[simp] theorem State.setReg_thm (k : Nat) (w : Word) : (s.setReg k w).thm = s.thm := rfl
@[simp] theorem State.setReg_adm (k : Nat) (w : Word) : (s.setReg k w).adm = s.adm := rfl
@[simp] theorem State.setReg_lamps (k : Nat) (w : Word) : (s.setReg k w).lamps = s.lamps := rfl
@[simp] theorem State.setReg_pins (k : Nat) (w : Word) : (s.setReg k w).pins = s.pins := rfl
@[simp] theorem State.setReg_rng (k : Nat) (w : Word) : (s.setReg k w).rng = s.rng := rfl
@[simp] theorem State.setReg_hst (k : Nat) (w : Word) : (s.setReg k w).hst = s.hst := rfl
@[simp] theorem State.setReg_snt (k : Nat) (w : Word) : (s.setReg k w).snt = s.snt := rfl
@[simp] theorem State.setReg_chr (k : Nat) (w : Word) : (s.setReg k w).chr = s.chr := rfl
@[simp] theorem State.setReg_rst (k : Nat) (w : Word) : (s.setReg k w).rst = s.rst := rfl
@[simp] theorem State.setReg_cpe (k : Nat) (w : Word) : (s.setReg k w).cpe = s.cpe := rfl
@[simp] theorem State.setReg_cch (k : Nat) (w : Word) : (s.setReg k w).cch = s.cch := rfl
@[simp] theorem State.setReg_dpt (k : Nat) (w : Word) : (s.setReg k w).dpt = s.dpt := rfl
@[simp] theorem State.setReg_bmv (k : Nat) (w : Word) : (s.setReg k w).bmv = s.bmv := rfl
@[simp] theorem State.setReg_crd (k : Nat) (w : Word) : (s.setReg k w).crd = s.crd := rfl
@[simp] theorem State.setReg_out (k : Nat) (w : Word) : (s.setReg k w).out = s.out := rfl
@[simp] theorem State.setReg_free (k : Nat) (w : Word) : (s.setReg k w).free = s.free := rfl
@[simp] theorem State.setReg_pending (k : Nat) (w : Word) : (s.setReg k w).pending = s.pending := rfl

@[simp] theorem State.put_tb (f : FRef) (v : Nat) : (s.put f v).tb = s.tb := rfl
@[simp] theorem State.put_st (f : FRef) (v : Nat) : (s.put f v).st = s.st := rfl
@[simp] theorem State.put_rails (f : FRef) (v : Nat) : (s.put f v).rails = s.rails := rfl
@[simp] theorem State.put_seq (f : FRef) (v : Nat) : (s.put f v).seq = s.seq := rfl
@[simp] theorem State.put_sw (f : FRef) (v : Nat) : (s.put f v).sw = s.sw := rfl
@[simp] theorem State.put_sup (f : FRef) (v : Nat) : (s.put f v).sup = s.sup := rfl
@[simp] theorem State.put_thm (f : FRef) (v : Nat) : (s.put f v).thm = s.thm := rfl
@[simp] theorem State.put_adm (f : FRef) (v : Nat) : (s.put f v).adm = s.adm := rfl
@[simp] theorem State.put_lamps (f : FRef) (v : Nat) : (s.put f v).lamps = s.lamps := rfl
@[simp] theorem State.put_pins (f : FRef) (v : Nat) : (s.put f v).pins = s.pins := rfl
@[simp] theorem State.put_rng (f : FRef) (v : Nat) : (s.put f v).rng = s.rng := rfl
@[simp] theorem State.put_hst (f : FRef) (v : Nat) : (s.put f v).hst = s.hst := rfl
@[simp] theorem State.put_snt (f : FRef) (v : Nat) : (s.put f v).snt = s.snt := rfl
@[simp] theorem State.put_chr (f : FRef) (v : Nat) : (s.put f v).chr = s.chr := rfl
@[simp] theorem State.put_rst (f : FRef) (v : Nat) : (s.put f v).rst = s.rst := rfl
@[simp] theorem State.put_cpe (f : FRef) (v : Nat) : (s.put f v).cpe = s.cpe := rfl
@[simp] theorem State.put_cch (f : FRef) (v : Nat) : (s.put f v).cch = s.cch := rfl
@[simp] theorem State.put_dpt (f : FRef) (v : Nat) : (s.put f v).dpt = s.dpt := rfl
@[simp] theorem State.put_bmv (f : FRef) (v : Nat) : (s.put f v).bmv = s.bmv := rfl
@[simp] theorem State.put_crd (f : FRef) (v : Nat) : (s.put f v).crd = s.crd := rfl
@[simp] theorem State.put_out (f : FRef) (v : Nat) : (s.put f v).out = s.out := rfl
@[simp] theorem State.put_free (f : FRef) (v : Nat) : (s.put f v).free = s.free := rfl
@[simp] theorem State.put_pending (f : FRef) (v : Nat) : (s.put f v).pending = s.pending := rfl

@[simp] theorem State.putB_tb (f : FRef) (b : Bool) : (s.putB f b).tb = s.tb := rfl
@[simp] theorem State.putB_st (f : FRef) (b : Bool) : (s.putB f b).st = s.st := rfl
@[simp] theorem State.putB_rails (f : FRef) (b : Bool) : (s.putB f b).rails = s.rails := rfl
@[simp] theorem State.putB_seq (f : FRef) (b : Bool) : (s.putB f b).seq = s.seq := rfl
@[simp] theorem State.putB_sw (f : FRef) (b : Bool) : (s.putB f b).sw = s.sw := rfl
@[simp] theorem State.putB_sup (f : FRef) (b : Bool) : (s.putB f b).sup = s.sup := rfl
@[simp] theorem State.putB_thm (f : FRef) (b : Bool) : (s.putB f b).thm = s.thm := rfl
@[simp] theorem State.putB_adm (f : FRef) (b : Bool) : (s.putB f b).adm = s.adm := rfl
@[simp] theorem State.putB_lamps (f : FRef) (b : Bool) : (s.putB f b).lamps = s.lamps := rfl
@[simp] theorem State.putB_pins (f : FRef) (b : Bool) : (s.putB f b).pins = s.pins := rfl
@[simp] theorem State.putB_rng (f : FRef) (b : Bool) : (s.putB f b).rng = s.rng := rfl
@[simp] theorem State.putB_hst (f : FRef) (b : Bool) : (s.putB f b).hst = s.hst := rfl
@[simp] theorem State.putB_snt (f : FRef) (b : Bool) : (s.putB f b).snt = s.snt := rfl
@[simp] theorem State.putB_chr (f : FRef) (b : Bool) : (s.putB f b).chr = s.chr := rfl
@[simp] theorem State.putB_rst (f : FRef) (b : Bool) : (s.putB f b).rst = s.rst := rfl
@[simp] theorem State.putB_cpe (f : FRef) (b : Bool) : (s.putB f b).cpe = s.cpe := rfl
@[simp] theorem State.putB_cch (f : FRef) (b : Bool) : (s.putB f b).cch = s.cch := rfl
@[simp] theorem State.putB_dpt (f : FRef) (b : Bool) : (s.putB f b).dpt = s.dpt := rfl
@[simp] theorem State.putB_bmv (f : FRef) (b : Bool) : (s.putB f b).bmv = s.bmv := rfl
@[simp] theorem State.putB_crd (f : FRef) (b : Bool) : (s.putB f b).crd = s.crd := rfl
@[simp] theorem State.putB_out (f : FRef) (b : Bool) : (s.putB f b).out = s.out := rfl
@[simp] theorem State.putB_free (f : FRef) (b : Bool) : (s.putB f b).free = s.free := rfl
@[simp] theorem State.putB_pending (f : FRef) (b : Bool) : (s.putB f b).pending = s.pending := rfl

@[simp] theorem State.putS_tb (f : FRef) (v : Int) : (s.putS f v).tb = s.tb := rfl
@[simp] theorem State.putS_st (f : FRef) (v : Int) : (s.putS f v).st = s.st := rfl
@[simp] theorem State.putS_rails (f : FRef) (v : Int) : (s.putS f v).rails = s.rails := rfl
@[simp] theorem State.putS_seq (f : FRef) (v : Int) : (s.putS f v).seq = s.seq := rfl
@[simp] theorem State.putS_sw (f : FRef) (v : Int) : (s.putS f v).sw = s.sw := rfl
@[simp] theorem State.putS_sup (f : FRef) (v : Int) : (s.putS f v).sup = s.sup := rfl
@[simp] theorem State.putS_thm (f : FRef) (v : Int) : (s.putS f v).thm = s.thm := rfl
@[simp] theorem State.putS_adm (f : FRef) (v : Int) : (s.putS f v).adm = s.adm := rfl
@[simp] theorem State.putS_lamps (f : FRef) (v : Int) : (s.putS f v).lamps = s.lamps := rfl
@[simp] theorem State.putS_pins (f : FRef) (v : Int) : (s.putS f v).pins = s.pins := rfl
@[simp] theorem State.putS_rng (f : FRef) (v : Int) : (s.putS f v).rng = s.rng := rfl
@[simp] theorem State.putS_hst (f : FRef) (v : Int) : (s.putS f v).hst = s.hst := rfl
@[simp] theorem State.putS_snt (f : FRef) (v : Int) : (s.putS f v).snt = s.snt := rfl
@[simp] theorem State.putS_chr (f : FRef) (v : Int) : (s.putS f v).chr = s.chr := rfl
@[simp] theorem State.putS_rst (f : FRef) (v : Int) : (s.putS f v).rst = s.rst := rfl
@[simp] theorem State.putS_cpe (f : FRef) (v : Int) : (s.putS f v).cpe = s.cpe := rfl
@[simp] theorem State.putS_cch (f : FRef) (v : Int) : (s.putS f v).cch = s.cch := rfl
@[simp] theorem State.putS_dpt (f : FRef) (v : Int) : (s.putS f v).dpt = s.dpt := rfl
@[simp] theorem State.putS_bmv (f : FRef) (v : Int) : (s.putS f v).bmv = s.bmv := rfl
@[simp] theorem State.putS_crd (f : FRef) (v : Int) : (s.putS f v).crd = s.crd := rfl
@[simp] theorem State.putS_out (f : FRef) (v : Int) : (s.putS f v).out = s.out := rfl
@[simp] theorem State.putS_free (f : FRef) (v : Int) : (s.putS f v).free = s.free := rfl
@[simp] theorem State.putS_pending (f : FRef) (v : Int) : (s.putS f v).pending = s.pending := rfl

@[simp] theorem State.count_tb (f : FRef) : (s.count f).tb = s.tb := rfl
@[simp] theorem State.count_st (f : FRef) : (s.count f).st = s.st := rfl
@[simp] theorem State.count_rails (f : FRef) : (s.count f).rails = s.rails := rfl
@[simp] theorem State.count_seq (f : FRef) : (s.count f).seq = s.seq := rfl
@[simp] theorem State.count_sw (f : FRef) : (s.count f).sw = s.sw := rfl
@[simp] theorem State.count_sup (f : FRef) : (s.count f).sup = s.sup := rfl
@[simp] theorem State.count_thm (f : FRef) : (s.count f).thm = s.thm := rfl
@[simp] theorem State.count_adm (f : FRef) : (s.count f).adm = s.adm := rfl
@[simp] theorem State.count_lamps (f : FRef) : (s.count f).lamps = s.lamps := rfl
@[simp] theorem State.count_pins (f : FRef) : (s.count f).pins = s.pins := rfl
@[simp] theorem State.count_rng (f : FRef) : (s.count f).rng = s.rng := rfl
@[simp] theorem State.count_hst (f : FRef) : (s.count f).hst = s.hst := rfl
@[simp] theorem State.count_snt (f : FRef) : (s.count f).snt = s.snt := rfl
@[simp] theorem State.count_chr (f : FRef) : (s.count f).chr = s.chr := rfl
@[simp] theorem State.count_rst (f : FRef) : (s.count f).rst = s.rst := rfl
@[simp] theorem State.count_cpe (f : FRef) : (s.count f).cpe = s.cpe := rfl
@[simp] theorem State.count_cch (f : FRef) : (s.count f).cch = s.cch := rfl
@[simp] theorem State.count_dpt (f : FRef) : (s.count f).dpt = s.dpt := rfl
@[simp] theorem State.count_bmv (f : FRef) : (s.count f).bmv = s.bmv := rfl
@[simp] theorem State.count_crd (f : FRef) : (s.count f).crd = s.crd := rfl
@[simp] theorem State.count_out (f : FRef) : (s.count f).out = s.out := rfl
@[simp] theorem State.count_free (f : FRef) : (s.count f).free = s.free := rfl
@[simp] theorem State.count_pending (f : FRef) : (s.count f).pending = s.pending := rfl

@[simp] theorem State.touch_regs : (s.touch).regs = s.regs := rfl
@[simp] theorem State.touch_st : (s.touch).st = s.st := rfl
@[simp] theorem State.touch_rails : (s.touch).rails = s.rails := rfl
@[simp] theorem State.touch_seq : (s.touch).seq = s.seq := rfl
@[simp] theorem State.touch_sw : (s.touch).sw = s.sw := rfl
@[simp] theorem State.touch_sup : (s.touch).sup = s.sup := rfl
@[simp] theorem State.touch_thm : (s.touch).thm = s.thm := rfl
@[simp] theorem State.touch_adm : (s.touch).adm = s.adm := rfl
@[simp] theorem State.touch_lamps : (s.touch).lamps = s.lamps := rfl
@[simp] theorem State.touch_pins : (s.touch).pins = s.pins := rfl
@[simp] theorem State.touch_rng : (s.touch).rng = s.rng := rfl
@[simp] theorem State.touch_hst : (s.touch).hst = s.hst := rfl
@[simp] theorem State.touch_snt : (s.touch).snt = s.snt := rfl
@[simp] theorem State.touch_chr : (s.touch).chr = s.chr := rfl
@[simp] theorem State.touch_rst : (s.touch).rst = s.rst := rfl
@[simp] theorem State.touch_cpe : (s.touch).cpe = s.cpe := rfl
@[simp] theorem State.touch_cch : (s.touch).cch = s.cch := rfl
@[simp] theorem State.touch_dpt : (s.touch).dpt = s.dpt := rfl
@[simp] theorem State.touch_bmv : (s.touch).bmv = s.bmv := rfl
@[simp] theorem State.touch_crd : (s.touch).crd = s.crd := rfl
@[simp] theorem State.touch_out : (s.touch).out = s.out := rfl
@[simp] theorem State.touch_pending : (s.touch).pending = s.pending := rfl

@[simp] theorem State.journal_regs (e : JEntry) : (s.journal e).regs = s.regs := rfl
@[simp] theorem State.journal_tb (e : JEntry) : (s.journal e).tb = s.tb := rfl
@[simp] theorem State.journal_rails (e : JEntry) : (s.journal e).rails = s.rails := rfl
@[simp] theorem State.journal_seq (e : JEntry) : (s.journal e).seq = s.seq := rfl
@[simp] theorem State.journal_sw (e : JEntry) : (s.journal e).sw = s.sw := rfl
@[simp] theorem State.journal_sup (e : JEntry) : (s.journal e).sup = s.sup := rfl
@[simp] theorem State.journal_thm (e : JEntry) : (s.journal e).thm = s.thm := rfl
@[simp] theorem State.journal_adm (e : JEntry) : (s.journal e).adm = s.adm := rfl
@[simp] theorem State.journal_lamps (e : JEntry) : (s.journal e).lamps = s.lamps := rfl
@[simp] theorem State.journal_pins (e : JEntry) : (s.journal e).pins = s.pins := rfl
@[simp] theorem State.journal_rng (e : JEntry) : (s.journal e).rng = s.rng := rfl
@[simp] theorem State.journal_hst (e : JEntry) : (s.journal e).hst = s.hst := rfl
@[simp] theorem State.journal_snt (e : JEntry) : (s.journal e).snt = s.snt := rfl
@[simp] theorem State.journal_chr (e : JEntry) : (s.journal e).chr = s.chr := rfl
@[simp] theorem State.journal_rst (e : JEntry) : (s.journal e).rst = s.rst := rfl
@[simp] theorem State.journal_cpe (e : JEntry) : (s.journal e).cpe = s.cpe := rfl
@[simp] theorem State.journal_cch (e : JEntry) : (s.journal e).cch = s.cch := rfl
@[simp] theorem State.journal_dpt (e : JEntry) : (s.journal e).dpt = s.dpt := rfl
@[simp] theorem State.journal_bmv (e : JEntry) : (s.journal e).bmv = s.bmv := rfl
@[simp] theorem State.journal_crd (e : JEntry) : (s.journal e).crd = s.crd := rfl
@[simp] theorem State.journal_out (e : JEntry) : (s.journal e).out = s.out := rfl
@[simp] theorem State.journal_free (e : JEntry) : (s.journal e).free = s.free := rfl
@[simp] theorem State.journal_pending (e : JEntry) : (s.journal e).pending = s.pending := rfl

@[simp] theorem State.emit_regs (o : Out) : (s.emit o).regs = s.regs := rfl
@[simp] theorem State.emit_tb (o : Out) : (s.emit o).tb = s.tb := rfl
@[simp] theorem State.emit_st (o : Out) : (s.emit o).st = s.st := rfl
@[simp] theorem State.emit_rails (o : Out) : (s.emit o).rails = s.rails := rfl
@[simp] theorem State.emit_seq (o : Out) : (s.emit o).seq = s.seq := rfl
@[simp] theorem State.emit_sw (o : Out) : (s.emit o).sw = s.sw := rfl
@[simp] theorem State.emit_sup (o : Out) : (s.emit o).sup = s.sup := rfl
@[simp] theorem State.emit_thm (o : Out) : (s.emit o).thm = s.thm := rfl
@[simp] theorem State.emit_adm (o : Out) : (s.emit o).adm = s.adm := rfl
@[simp] theorem State.emit_lamps (o : Out) : (s.emit o).lamps = s.lamps := rfl
@[simp] theorem State.emit_pins (o : Out) : (s.emit o).pins = s.pins := rfl
@[simp] theorem State.emit_rng (o : Out) : (s.emit o).rng = s.rng := rfl
@[simp] theorem State.emit_hst (o : Out) : (s.emit o).hst = s.hst := rfl
@[simp] theorem State.emit_snt (o : Out) : (s.emit o).snt = s.snt := rfl
@[simp] theorem State.emit_chr (o : Out) : (s.emit o).chr = s.chr := rfl
@[simp] theorem State.emit_rst (o : Out) : (s.emit o).rst = s.rst := rfl
@[simp] theorem State.emit_cpe (o : Out) : (s.emit o).cpe = s.cpe := rfl
@[simp] theorem State.emit_cch (o : Out) : (s.emit o).cch = s.cch := rfl
@[simp] theorem State.emit_dpt (o : Out) : (s.emit o).dpt = s.dpt := rfl
@[simp] theorem State.emit_bmv (o : Out) : (s.emit o).bmv = s.bmv := rfl
@[simp] theorem State.emit_crd (o : Out) : (s.emit o).crd = s.crd := rfl
@[simp] theorem State.emit_free (o : Out) : (s.emit o).free = s.free := rfl
@[simp] theorem State.emit_pending (o : Out) : (s.emit o).pending = s.pending := rfl

@[simp] theorem State.modRail_regs (n : Nat) (f : Rail → Rail) : (s.modRail n f).regs = s.regs := rfl
@[simp] theorem State.modRail_tb (n : Nat) (f : Rail → Rail) : (s.modRail n f).tb = s.tb := rfl
@[simp] theorem State.modRail_st (n : Nat) (f : Rail → Rail) : (s.modRail n f).st = s.st := rfl
@[simp] theorem State.modRail_seq (n : Nat) (f : Rail → Rail) : (s.modRail n f).seq = s.seq := rfl
@[simp] theorem State.modRail_sw (n : Nat) (f : Rail → Rail) : (s.modRail n f).sw = s.sw := rfl
@[simp] theorem State.modRail_sup (n : Nat) (f : Rail → Rail) : (s.modRail n f).sup = s.sup := rfl
@[simp] theorem State.modRail_thm (n : Nat) (f : Rail → Rail) : (s.modRail n f).thm = s.thm := rfl
@[simp] theorem State.modRail_adm (n : Nat) (f : Rail → Rail) : (s.modRail n f).adm = s.adm := rfl
@[simp] theorem State.modRail_lamps (n : Nat) (f : Rail → Rail) : (s.modRail n f).lamps = s.lamps := rfl
@[simp] theorem State.modRail_pins (n : Nat) (f : Rail → Rail) : (s.modRail n f).pins = s.pins := rfl
@[simp] theorem State.modRail_rng (n : Nat) (f : Rail → Rail) : (s.modRail n f).rng = s.rng := rfl
@[simp] theorem State.modRail_hst (n : Nat) (f : Rail → Rail) : (s.modRail n f).hst = s.hst := rfl
@[simp] theorem State.modRail_snt (n : Nat) (f : Rail → Rail) : (s.modRail n f).snt = s.snt := rfl
@[simp] theorem State.modRail_chr (n : Nat) (f : Rail → Rail) : (s.modRail n f).chr = s.chr := rfl
@[simp] theorem State.modRail_rst (n : Nat) (f : Rail → Rail) : (s.modRail n f).rst = s.rst := rfl
@[simp] theorem State.modRail_cpe (n : Nat) (f : Rail → Rail) : (s.modRail n f).cpe = s.cpe := rfl
@[simp] theorem State.modRail_cch (n : Nat) (f : Rail → Rail) : (s.modRail n f).cch = s.cch := rfl
@[simp] theorem State.modRail_dpt (n : Nat) (f : Rail → Rail) : (s.modRail n f).dpt = s.dpt := rfl
@[simp] theorem State.modRail_bmv (n : Nat) (f : Rail → Rail) : (s.modRail n f).bmv = s.bmv := rfl
@[simp] theorem State.modRail_crd (n : Nat) (f : Rail → Rail) : (s.modRail n f).crd = s.crd := rfl
@[simp] theorem State.modRail_out (n : Nat) (f : Rail → Rail) : (s.modRail n f).out = s.out := rfl
@[simp] theorem State.modRail_free (n : Nat) (f : Rail → Rail) : (s.modRail n f).free = s.free := rfl
@[simp] theorem State.modRail_pending (n : Nat) (f : Rail → Rail) : (s.modRail n f).pending = s.pending := rfl

@[simp] theorem State.modLamp_regs (c : Nat) (f : Lamp → Lamp) : (s.modLamp c f).regs = s.regs := rfl
@[simp] theorem State.modLamp_tb (c : Nat) (f : Lamp → Lamp) : (s.modLamp c f).tb = s.tb := rfl
@[simp] theorem State.modLamp_st (c : Nat) (f : Lamp → Lamp) : (s.modLamp c f).st = s.st := rfl
@[simp] theorem State.modLamp_rails (c : Nat) (f : Lamp → Lamp) : (s.modLamp c f).rails = s.rails := rfl
@[simp] theorem State.modLamp_seq (c : Nat) (f : Lamp → Lamp) : (s.modLamp c f).seq = s.seq := rfl
@[simp] theorem State.modLamp_sw (c : Nat) (f : Lamp → Lamp) : (s.modLamp c f).sw = s.sw := rfl
@[simp] theorem State.modLamp_sup (c : Nat) (f : Lamp → Lamp) : (s.modLamp c f).sup = s.sup := rfl
@[simp] theorem State.modLamp_thm (c : Nat) (f : Lamp → Lamp) : (s.modLamp c f).thm = s.thm := rfl
@[simp] theorem State.modLamp_adm (c : Nat) (f : Lamp → Lamp) : (s.modLamp c f).adm = s.adm := rfl
@[simp] theorem State.modLamp_pins (c : Nat) (f : Lamp → Lamp) : (s.modLamp c f).pins = s.pins := rfl
@[simp] theorem State.modLamp_rng (c : Nat) (f : Lamp → Lamp) : (s.modLamp c f).rng = s.rng := rfl
@[simp] theorem State.modLamp_hst (c : Nat) (f : Lamp → Lamp) : (s.modLamp c f).hst = s.hst := rfl
@[simp] theorem State.modLamp_snt (c : Nat) (f : Lamp → Lamp) : (s.modLamp c f).snt = s.snt := rfl
@[simp] theorem State.modLamp_chr (c : Nat) (f : Lamp → Lamp) : (s.modLamp c f).chr = s.chr := rfl
@[simp] theorem State.modLamp_rst (c : Nat) (f : Lamp → Lamp) : (s.modLamp c f).rst = s.rst := rfl
@[simp] theorem State.modLamp_cpe (c : Nat) (f : Lamp → Lamp) : (s.modLamp c f).cpe = s.cpe := rfl
@[simp] theorem State.modLamp_cch (c : Nat) (f : Lamp → Lamp) : (s.modLamp c f).cch = s.cch := rfl
@[simp] theorem State.modLamp_dpt (c : Nat) (f : Lamp → Lamp) : (s.modLamp c f).dpt = s.dpt := rfl
@[simp] theorem State.modLamp_bmv (c : Nat) (f : Lamp → Lamp) : (s.modLamp c f).bmv = s.bmv := rfl
@[simp] theorem State.modLamp_crd (c : Nat) (f : Lamp → Lamp) : (s.modLamp c f).crd = s.crd := rfl
@[simp] theorem State.modLamp_out (c : Nat) (f : Lamp → Lamp) : (s.modLamp c f).out = s.out := rfl
@[simp] theorem State.modLamp_free (c : Nat) (f : Lamp → Lamp) : (s.modLamp c f).free = s.free := rfl
@[simp] theorem State.modLamp_pending (c : Nat) (f : Lamp → Lamp) : (s.modLamp c f).pending = s.pending := rfl

@[simp] theorem State.modSub_regs (n : Nat) (f : Sub → Sub) : (s.modSub n f).regs = s.regs := rfl
@[simp] theorem State.modSub_tb (n : Nat) (f : Sub → Sub) : (s.modSub n f).tb = s.tb := rfl
@[simp] theorem State.modSub_st (n : Nat) (f : Sub → Sub) : (s.modSub n f).st = s.st := rfl
@[simp] theorem State.modSub_rails (n : Nat) (f : Sub → Sub) : (s.modSub n f).rails = s.rails := rfl
@[simp] theorem State.modSub_seq (n : Nat) (f : Sub → Sub) : (s.modSub n f).seq = s.seq := rfl
@[simp] theorem State.modSub_sw (n : Nat) (f : Sub → Sub) : (s.modSub n f).sw = s.sw := rfl
@[simp] theorem State.modSub_sup (n : Nat) (f : Sub → Sub) : (s.modSub n f).sup = s.sup := rfl
@[simp] theorem State.modSub_thm (n : Nat) (f : Sub → Sub) : (s.modSub n f).thm = s.thm := rfl
@[simp] theorem State.modSub_adm (n : Nat) (f : Sub → Sub) : (s.modSub n f).adm = s.adm := rfl
@[simp] theorem State.modSub_lamps (n : Nat) (f : Sub → Sub) : (s.modSub n f).lamps = s.lamps := rfl
@[simp] theorem State.modSub_pins (n : Nat) (f : Sub → Sub) : (s.modSub n f).pins = s.pins := rfl
@[simp] theorem State.modSub_rng (n : Nat) (f : Sub → Sub) : (s.modSub n f).rng = s.rng := rfl
@[simp] theorem State.modSub_hst (n : Nat) (f : Sub → Sub) : (s.modSub n f).hst = s.hst := rfl
@[simp] theorem State.modSub_snt (n : Nat) (f : Sub → Sub) : (s.modSub n f).snt = s.snt := rfl
@[simp] theorem State.modSub_chr (n : Nat) (f : Sub → Sub) : (s.modSub n f).chr = s.chr := rfl
@[simp] theorem State.modSub_rst (n : Nat) (f : Sub → Sub) : (s.modSub n f).rst = s.rst := rfl
@[simp] theorem State.modSub_cch (n : Nat) (f : Sub → Sub) : (s.modSub n f).cch = s.cch := rfl
@[simp] theorem State.modSub_dpt (n : Nat) (f : Sub → Sub) : (s.modSub n f).dpt = s.dpt := rfl
@[simp] theorem State.modSub_bmv (n : Nat) (f : Sub → Sub) : (s.modSub n f).bmv = s.bmv := rfl
@[simp] theorem State.modSub_crd (n : Nat) (f : Sub → Sub) : (s.modSub n f).crd = s.crd := rfl
@[simp] theorem State.modSub_out (n : Nat) (f : Sub → Sub) : (s.modSub n f).out = s.out := rfl
@[simp] theorem State.modSub_free (n : Nat) (f : Sub → Sub) : (s.modSub n f).free = s.free := rfl
@[simp] theorem State.modSub_pending (n : Nat) (f : Sub → Sub) : (s.modSub n f).pending = s.pending := rfl

@[simp] theorem State.modChan_regs (n : Nat) (f : Chan → Chan) : (s.modChan n f).regs = s.regs := rfl
@[simp] theorem State.modChan_tb (n : Nat) (f : Chan → Chan) : (s.modChan n f).tb = s.tb := rfl
@[simp] theorem State.modChan_st (n : Nat) (f : Chan → Chan) : (s.modChan n f).st = s.st := rfl
@[simp] theorem State.modChan_rails (n : Nat) (f : Chan → Chan) : (s.modChan n f).rails = s.rails := rfl
@[simp] theorem State.modChan_seq (n : Nat) (f : Chan → Chan) : (s.modChan n f).seq = s.seq := rfl
@[simp] theorem State.modChan_sw (n : Nat) (f : Chan → Chan) : (s.modChan n f).sw = s.sw := rfl
@[simp] theorem State.modChan_sup (n : Nat) (f : Chan → Chan) : (s.modChan n f).sup = s.sup := rfl
@[simp] theorem State.modChan_thm (n : Nat) (f : Chan → Chan) : (s.modChan n f).thm = s.thm := rfl
@[simp] theorem State.modChan_adm (n : Nat) (f : Chan → Chan) : (s.modChan n f).adm = s.adm := rfl
@[simp] theorem State.modChan_lamps (n : Nat) (f : Chan → Chan) : (s.modChan n f).lamps = s.lamps := rfl
@[simp] theorem State.modChan_pins (n : Nat) (f : Chan → Chan) : (s.modChan n f).pins = s.pins := rfl
@[simp] theorem State.modChan_rng (n : Nat) (f : Chan → Chan) : (s.modChan n f).rng = s.rng := rfl
@[simp] theorem State.modChan_hst (n : Nat) (f : Chan → Chan) : (s.modChan n f).hst = s.hst := rfl
@[simp] theorem State.modChan_snt (n : Nat) (f : Chan → Chan) : (s.modChan n f).snt = s.snt := rfl
@[simp] theorem State.modChan_chr (n : Nat) (f : Chan → Chan) : (s.modChan n f).chr = s.chr := rfl
@[simp] theorem State.modChan_rst (n : Nat) (f : Chan → Chan) : (s.modChan n f).rst = s.rst := rfl
@[simp] theorem State.modChan_cpe (n : Nat) (f : Chan → Chan) : (s.modChan n f).cpe = s.cpe := rfl
@[simp] theorem State.modChan_cch (n : Nat) (f : Chan → Chan) : (s.modChan n f).cch = s.cch := rfl
@[simp] theorem State.modChan_dpt (n : Nat) (f : Chan → Chan) : (s.modChan n f).dpt = s.dpt := rfl
@[simp] theorem State.modChan_crd (n : Nat) (f : Chan → Chan) : (s.modChan n f).crd = s.crd := rfl
@[simp] theorem State.modChan_out (n : Nat) (f : Chan → Chan) : (s.modChan n f).out = s.out := rfl
@[simp] theorem State.modChan_free (n : Nat) (f : Chan → Chan) : (s.modChan n f).free = s.free := rfl
@[simp] theorem State.modChan_pending (n : Nat) (f : Chan → Chan) : (s.modChan n f).pending = s.pending := rfl

@[simp] theorem State.modCard_regs (p : Nat) (f : Card → Card) : (s.modCard p f).regs = s.regs := rfl
@[simp] theorem State.modCard_tb (p : Nat) (f : Card → Card) : (s.modCard p f).tb = s.tb := rfl
@[simp] theorem State.modCard_st (p : Nat) (f : Card → Card) : (s.modCard p f).st = s.st := rfl
@[simp] theorem State.modCard_rails (p : Nat) (f : Card → Card) : (s.modCard p f).rails = s.rails := rfl
@[simp] theorem State.modCard_seq (p : Nat) (f : Card → Card) : (s.modCard p f).seq = s.seq := rfl
@[simp] theorem State.modCard_sw (p : Nat) (f : Card → Card) : (s.modCard p f).sw = s.sw := rfl
@[simp] theorem State.modCard_sup (p : Nat) (f : Card → Card) : (s.modCard p f).sup = s.sup := rfl
@[simp] theorem State.modCard_thm (p : Nat) (f : Card → Card) : (s.modCard p f).thm = s.thm := rfl
@[simp] theorem State.modCard_adm (p : Nat) (f : Card → Card) : (s.modCard p f).adm = s.adm := rfl
@[simp] theorem State.modCard_lamps (p : Nat) (f : Card → Card) : (s.modCard p f).lamps = s.lamps := rfl
@[simp] theorem State.modCard_pins (p : Nat) (f : Card → Card) : (s.modCard p f).pins = s.pins := rfl
@[simp] theorem State.modCard_rng (p : Nat) (f : Card → Card) : (s.modCard p f).rng = s.rng := rfl
@[simp] theorem State.modCard_hst (p : Nat) (f : Card → Card) : (s.modCard p f).hst = s.hst := rfl
@[simp] theorem State.modCard_snt (p : Nat) (f : Card → Card) : (s.modCard p f).snt = s.snt := rfl
@[simp] theorem State.modCard_chr (p : Nat) (f : Card → Card) : (s.modCard p f).chr = s.chr := rfl
@[simp] theorem State.modCard_rst (p : Nat) (f : Card → Card) : (s.modCard p f).rst = s.rst := rfl
@[simp] theorem State.modCard_cpe (p : Nat) (f : Card → Card) : (s.modCard p f).cpe = s.cpe := rfl
@[simp] theorem State.modCard_cch (p : Nat) (f : Card → Card) : (s.modCard p f).cch = s.cch := rfl
@[simp] theorem State.modCard_dpt (p : Nat) (f : Card → Card) : (s.modCard p f).dpt = s.dpt := rfl
@[simp] theorem State.modCard_bmv (p : Nat) (f : Card → Card) : (s.modCard p f).bmv = s.bmv := rfl
@[simp] theorem State.modCard_out (p : Nat) (f : Card → Card) : (s.modCard p f).out = s.out := rfl
@[simp] theorem State.modCard_free (p : Nat) (f : Card → Card) : (s.modCard p f).free = s.free := rfl
@[simp] theorem State.modCard_pending (p : Nat) (f : Card → Card) : (s.modCard p f).pending = s.pending := rfl

@[simp] theorem State.modPort_regs (x : Nat) (f : DPort → DPort) : (s.modPort x f).regs = s.regs := rfl
@[simp] theorem State.modPort_tb (x : Nat) (f : DPort → DPort) : (s.modPort x f).tb = s.tb := rfl
@[simp] theorem State.modPort_st (x : Nat) (f : DPort → DPort) : (s.modPort x f).st = s.st := rfl
@[simp] theorem State.modPort_rails (x : Nat) (f : DPort → DPort) : (s.modPort x f).rails = s.rails := rfl
@[simp] theorem State.modPort_seq (x : Nat) (f : DPort → DPort) : (s.modPort x f).seq = s.seq := rfl
@[simp] theorem State.modPort_sw (x : Nat) (f : DPort → DPort) : (s.modPort x f).sw = s.sw := rfl
@[simp] theorem State.modPort_sup (x : Nat) (f : DPort → DPort) : (s.modPort x f).sup = s.sup := rfl
@[simp] theorem State.modPort_thm (x : Nat) (f : DPort → DPort) : (s.modPort x f).thm = s.thm := rfl
@[simp] theorem State.modPort_adm (x : Nat) (f : DPort → DPort) : (s.modPort x f).adm = s.adm := rfl
@[simp] theorem State.modPort_lamps (x : Nat) (f : DPort → DPort) : (s.modPort x f).lamps = s.lamps := rfl
@[simp] theorem State.modPort_pins (x : Nat) (f : DPort → DPort) : (s.modPort x f).pins = s.pins := rfl
@[simp] theorem State.modPort_rng (x : Nat) (f : DPort → DPort) : (s.modPort x f).rng = s.rng := rfl
@[simp] theorem State.modPort_hst (x : Nat) (f : DPort → DPort) : (s.modPort x f).hst = s.hst := rfl
@[simp] theorem State.modPort_snt (x : Nat) (f : DPort → DPort) : (s.modPort x f).snt = s.snt := rfl
@[simp] theorem State.modPort_chr (x : Nat) (f : DPort → DPort) : (s.modPort x f).chr = s.chr := rfl
@[simp] theorem State.modPort_rst (x : Nat) (f : DPort → DPort) : (s.modPort x f).rst = s.rst := rfl
@[simp] theorem State.modPort_cpe (x : Nat) (f : DPort → DPort) : (s.modPort x f).cpe = s.cpe := rfl
@[simp] theorem State.modPort_cch (x : Nat) (f : DPort → DPort) : (s.modPort x f).cch = s.cch := rfl
@[simp] theorem State.modPort_bmv (x : Nat) (f : DPort → DPort) : (s.modPort x f).bmv = s.bmv := rfl
@[simp] theorem State.modPort_crd (x : Nat) (f : DPort → DPort) : (s.modPort x f).crd = s.crd := rfl
@[simp] theorem State.modPort_out (x : Nat) (f : DPort → DPort) : (s.modPort x f).out = s.out := rfl
@[simp] theorem State.modPort_free (x : Nat) (f : DPort → DPort) : (s.modPort x f).free = s.free := rfl
@[simp] theorem State.modPort_pending (x : Nat) (f : DPort → DPort) : (s.modPort x f).pending = s.pending := rfl

@[simp] theorem State.modRing_regs (r : RingId) (f : RingX → RingX) : (s.modRing r f).regs = s.regs := rfl
@[simp] theorem State.modRing_tb (r : RingId) (f : RingX → RingX) : (s.modRing r f).tb = s.tb := rfl
@[simp] theorem State.modRing_st (r : RingId) (f : RingX → RingX) : (s.modRing r f).st = s.st := rfl
@[simp] theorem State.modRing_rails (r : RingId) (f : RingX → RingX) : (s.modRing r f).rails = s.rails := rfl
@[simp] theorem State.modRing_seq (r : RingId) (f : RingX → RingX) : (s.modRing r f).seq = s.seq := rfl
@[simp] theorem State.modRing_sw (r : RingId) (f : RingX → RingX) : (s.modRing r f).sw = s.sw := rfl
@[simp] theorem State.modRing_sup (r : RingId) (f : RingX → RingX) : (s.modRing r f).sup = s.sup := rfl
@[simp] theorem State.modRing_thm (r : RingId) (f : RingX → RingX) : (s.modRing r f).thm = s.thm := rfl
@[simp] theorem State.modRing_adm (r : RingId) (f : RingX → RingX) : (s.modRing r f).adm = s.adm := rfl
@[simp] theorem State.modRing_lamps (r : RingId) (f : RingX → RingX) : (s.modRing r f).lamps = s.lamps := rfl
@[simp] theorem State.modRing_pins (r : RingId) (f : RingX → RingX) : (s.modRing r f).pins = s.pins := rfl
@[simp] theorem State.modRing_hst (r : RingId) (f : RingX → RingX) : (s.modRing r f).hst = s.hst := rfl
@[simp] theorem State.modRing_snt (r : RingId) (f : RingX → RingX) : (s.modRing r f).snt = s.snt := rfl
@[simp] theorem State.modRing_chr (r : RingId) (f : RingX → RingX) : (s.modRing r f).chr = s.chr := rfl
@[simp] theorem State.modRing_rst (r : RingId) (f : RingX → RingX) : (s.modRing r f).rst = s.rst := rfl
@[simp] theorem State.modRing_cpe (r : RingId) (f : RingX → RingX) : (s.modRing r f).cpe = s.cpe := rfl
@[simp] theorem State.modRing_cch (r : RingId) (f : RingX → RingX) : (s.modRing r f).cch = s.cch := rfl
@[simp] theorem State.modRing_dpt (r : RingId) (f : RingX → RingX) : (s.modRing r f).dpt = s.dpt := rfl
@[simp] theorem State.modRing_bmv (r : RingId) (f : RingX → RingX) : (s.modRing r f).bmv = s.bmv := rfl
@[simp] theorem State.modRing_crd (r : RingId) (f : RingX → RingX) : (s.modRing r f).crd = s.crd := rfl
@[simp] theorem State.modRing_out (r : RingId) (f : RingX → RingX) : (s.modRing r f).out = s.out := rfl
@[simp] theorem State.modRing_free (r : RingId) (f : RingX → RingX) : (s.modRing r f).free = s.free := rfl
@[simp] theorem State.modRing_pending (r : RingId) (f : RingX → RingX) : (s.modRing r f).pending = s.pending := rfl

@[simp] theorem State.modCmd_regs (t : Tag) (f : Cmd → Cmd) : (s.modCmd t f).regs = s.regs := rfl
@[simp] theorem State.modCmd_tb (t : Tag) (f : Cmd → Cmd) : (s.modCmd t f).tb = s.tb := rfl
@[simp] theorem State.modCmd_st (t : Tag) (f : Cmd → Cmd) : (s.modCmd t f).st = s.st := rfl
@[simp] theorem State.modCmd_rails (t : Tag) (f : Cmd → Cmd) : (s.modCmd t f).rails = s.rails := rfl
@[simp] theorem State.modCmd_seq (t : Tag) (f : Cmd → Cmd) : (s.modCmd t f).seq = s.seq := rfl
@[simp] theorem State.modCmd_sw (t : Tag) (f : Cmd → Cmd) : (s.modCmd t f).sw = s.sw := rfl
@[simp] theorem State.modCmd_sup (t : Tag) (f : Cmd → Cmd) : (s.modCmd t f).sup = s.sup := rfl
@[simp] theorem State.modCmd_thm (t : Tag) (f : Cmd → Cmd) : (s.modCmd t f).thm = s.thm := rfl
@[simp] theorem State.modCmd_adm (t : Tag) (f : Cmd → Cmd) : (s.modCmd t f).adm = s.adm := rfl
@[simp] theorem State.modCmd_lamps (t : Tag) (f : Cmd → Cmd) : (s.modCmd t f).lamps = s.lamps := rfl
@[simp] theorem State.modCmd_pins (t : Tag) (f : Cmd → Cmd) : (s.modCmd t f).pins = s.pins := rfl
@[simp] theorem State.modCmd_hst (t : Tag) (f : Cmd → Cmd) : (s.modCmd t f).hst = s.hst := rfl
@[simp] theorem State.modCmd_snt (t : Tag) (f : Cmd → Cmd) : (s.modCmd t f).snt = s.snt := rfl
@[simp] theorem State.modCmd_chr (t : Tag) (f : Cmd → Cmd) : (s.modCmd t f).chr = s.chr := rfl
@[simp] theorem State.modCmd_rst (t : Tag) (f : Cmd → Cmd) : (s.modCmd t f).rst = s.rst := rfl
@[simp] theorem State.modCmd_cpe (t : Tag) (f : Cmd → Cmd) : (s.modCmd t f).cpe = s.cpe := rfl
@[simp] theorem State.modCmd_cch (t : Tag) (f : Cmd → Cmd) : (s.modCmd t f).cch = s.cch := rfl
@[simp] theorem State.modCmd_dpt (t : Tag) (f : Cmd → Cmd) : (s.modCmd t f).dpt = s.dpt := rfl
@[simp] theorem State.modCmd_bmv (t : Tag) (f : Cmd → Cmd) : (s.modCmd t f).bmv = s.bmv := rfl
@[simp] theorem State.modCmd_crd (t : Tag) (f : Cmd → Cmd) : (s.modCmd t f).crd = s.crd := rfl
@[simp] theorem State.modCmd_out (t : Tag) (f : Cmd → Cmd) : (s.modCmd t f).out = s.out := rfl
@[simp] theorem State.modCmd_free (t : Tag) (f : Cmd → Cmd) : (s.modCmd t f).free = s.free := rfl
@[simp] theorem State.modCmd_pending (t : Tag) (f : Cmd → Cmd) : (s.modCmd t f).pending = s.pending := rfl

@[simp] theorem State.dropCmd_regs (t : Tag) : (s.dropCmd t).regs = s.regs := rfl
@[simp] theorem State.dropCmd_tb (t : Tag) : (s.dropCmd t).tb = s.tb := rfl
@[simp] theorem State.dropCmd_st (t : Tag) : (s.dropCmd t).st = s.st := rfl
@[simp] theorem State.dropCmd_rails (t : Tag) : (s.dropCmd t).rails = s.rails := rfl
@[simp] theorem State.dropCmd_seq (t : Tag) : (s.dropCmd t).seq = s.seq := rfl
@[simp] theorem State.dropCmd_sw (t : Tag) : (s.dropCmd t).sw = s.sw := rfl
@[simp] theorem State.dropCmd_sup (t : Tag) : (s.dropCmd t).sup = s.sup := rfl
@[simp] theorem State.dropCmd_thm (t : Tag) : (s.dropCmd t).thm = s.thm := rfl
@[simp] theorem State.dropCmd_adm (t : Tag) : (s.dropCmd t).adm = s.adm := rfl
@[simp] theorem State.dropCmd_lamps (t : Tag) : (s.dropCmd t).lamps = s.lamps := rfl
@[simp] theorem State.dropCmd_pins (t : Tag) : (s.dropCmd t).pins = s.pins := rfl
@[simp] theorem State.dropCmd_hst (t : Tag) : (s.dropCmd t).hst = s.hst := rfl
@[simp] theorem State.dropCmd_chr (t : Tag) : (s.dropCmd t).chr = s.chr := rfl
@[simp] theorem State.dropCmd_rst (t : Tag) : (s.dropCmd t).rst = s.rst := rfl
@[simp] theorem State.dropCmd_cpe (t : Tag) : (s.dropCmd t).cpe = s.cpe := rfl
@[simp] theorem State.dropCmd_cch (t : Tag) : (s.dropCmd t).cch = s.cch := rfl
@[simp] theorem State.dropCmd_dpt (t : Tag) : (s.dropCmd t).dpt = s.dpt := rfl
@[simp] theorem State.dropCmd_bmv (t : Tag) : (s.dropCmd t).bmv = s.bmv := rfl
@[simp] theorem State.dropCmd_crd (t : Tag) : (s.dropCmd t).crd = s.crd := rfl
@[simp] theorem State.dropCmd_out (t : Tag) : (s.dropCmd t).out = s.out := rfl
@[simp] theorem State.dropCmd_free (t : Tag) : (s.dropCmd t).free = s.free := rfl
@[simp] theorem State.dropCmd_pending (t : Tag) : (s.dropCmd t).pending = s.pending := rfl

@[simp] theorem State.push_regs (c : Instr) : (s.push c).regs = s.regs := rfl
@[simp] theorem State.push_tb (c : Instr) : (s.push c).tb = s.tb := rfl
@[simp] theorem State.push_st (c : Instr) : (s.push c).st = s.st := rfl
@[simp] theorem State.push_rails (c : Instr) : (s.push c).rails = s.rails := rfl
@[simp] theorem State.push_seq (c : Instr) : (s.push c).seq = s.seq := rfl
@[simp] theorem State.push_sw (c : Instr) : (s.push c).sw = s.sw := rfl
@[simp] theorem State.push_sup (c : Instr) : (s.push c).sup = s.sup := rfl
@[simp] theorem State.push_thm (c : Instr) : (s.push c).thm = s.thm := rfl
@[simp] theorem State.push_adm (c : Instr) : (s.push c).adm = s.adm := rfl
@[simp] theorem State.push_lamps (c : Instr) : (s.push c).lamps = s.lamps := rfl
@[simp] theorem State.push_pins (c : Instr) : (s.push c).pins = s.pins := rfl
@[simp] theorem State.push_rng (c : Instr) : (s.push c).rng = s.rng := rfl
@[simp] theorem State.push_hst (c : Instr) : (s.push c).hst = s.hst := rfl
@[simp] theorem State.push_snt (c : Instr) : (s.push c).snt = s.snt := rfl
@[simp] theorem State.push_chr (c : Instr) : (s.push c).chr = s.chr := rfl
@[simp] theorem State.push_rst (c : Instr) : (s.push c).rst = s.rst := rfl
@[simp] theorem State.push_cpe (c : Instr) : (s.push c).cpe = s.cpe := rfl
@[simp] theorem State.push_cch (c : Instr) : (s.push c).cch = s.cch := rfl
@[simp] theorem State.push_dpt (c : Instr) : (s.push c).dpt = s.dpt := rfl
@[simp] theorem State.push_bmv (c : Instr) : (s.push c).bmv = s.bmv := rfl
@[simp] theorem State.push_crd (c : Instr) : (s.push c).crd = s.crd := rfl
@[simp] theorem State.push_out (c : Instr) : (s.push c).out = s.out := rfl
@[simp] theorem State.push_free (c : Instr) : (s.push c).free = s.free := rfl

@[simp] theorem State.setReg_regs (k : Nat) (w : Word) : (s.setReg k w).regs = cellSet resetWord s.regs k w := rfl
@[simp] theorem State.journal_jq (e : JEntry) : (s.journal e).st.jq = s.st.jq ++ [e] := rfl
@[simp] theorem State.journal_evq (e : JEntry) : (s.journal e).st.evq = s.st.evq := rfl
@[simp] theorem State.emit_out (o : Out) : (s.emit o).out = s.out ++ [o] := rfl
@[simp] theorem State.modRail_rails (n : Nat) (f : Rail → Rail) : (s.modRail n f).rails = modAt s.rails n f := rfl
@[simp] theorem State.modLamp_lamps (c : Nat) (f : Lamp → Lamp) : (s.modLamp c f).lamps = modAt s.lamps c f := rfl
@[simp] theorem State.modSub_cpe (n : Nat) (f : Sub → Sub) : (s.modSub n f).cpe = modAt s.cpe n f := rfl
@[simp] theorem State.modChan_chans (n : Nat) (f : Chan → Chan) : (s.modChan n f).bmv.chans = modAt s.bmv.chans n f := rfl
@[simp] theorem State.modCard_ports (p : Nat) (f : Card → Card) : (s.modCard p f).crd.ports = modAt s.crd.ports p f := rfl
@[simp] theorem State.modPort_ports (x : Nat) (f : DPort → DPort) : (s.modPort x f).dpt.ports = modAt s.dpt.ports x f := rfl
@[simp] theorem State.push_pending (c : Instr) : (s.push c).pending = c :: s.pending := rfl
@[simp] theorem State.touch_frame : s.touch.tb.frame = s.tb.frame := rfl
@[simp] theorem State.touch_ticks : s.touch.tb.ticks = s.tb.ticks := rfl
@[simp] theorem State.touch_free_succ : s.touch.free = s.free + 1 := rfl

/-- SUBFRAME never falls within a frame (R51). -/
theorem State.touch_sub_le : s.tb.sub ≤ s.touch.tb.sub := by
  simp only [State.touch]
  split
  · assumption
  · exact BitVec.le_refl _

@[simp] theorem State.logWith_tb (only : Bool) (ts : Nat) (g : Origin) (code subj : Nat) (args : List (Option Nat)) :
    (s.logWith only ts g code subj args).tb = s.tb := by
  unfold State.logWith; dsimp only; split
  · rfl
  · split
    · rfl
    · split <;> rfl
@[simp] theorem State.logWith_rails (only : Bool) (ts : Nat) (g : Origin) (code subj : Nat) (args : List (Option Nat)) :
    (s.logWith only ts g code subj args).rails = s.rails := by
  unfold State.logWith; dsimp only; split
  · rfl
  · split
    · rfl
    · split <;> rfl
@[simp] theorem State.logWith_seq (only : Bool) (ts : Nat) (g : Origin) (code subj : Nat) (args : List (Option Nat)) :
    (s.logWith only ts g code subj args).seq = s.seq := by
  unfold State.logWith; dsimp only; split
  · rfl
  · split
    · rfl
    · split <;> rfl
@[simp] theorem State.logWith_sw (only : Bool) (ts : Nat) (g : Origin) (code subj : Nat) (args : List (Option Nat)) :
    (s.logWith only ts g code subj args).sw = s.sw := by
  unfold State.logWith; dsimp only; split
  · rfl
  · split
    · rfl
    · split <;> rfl
@[simp] theorem State.logWith_sup (only : Bool) (ts : Nat) (g : Origin) (code subj : Nat) (args : List (Option Nat)) :
    (s.logWith only ts g code subj args).sup = s.sup := by
  unfold State.logWith; dsimp only; split
  · rfl
  · split
    · rfl
    · split <;> rfl
@[simp] theorem State.logWith_thm (only : Bool) (ts : Nat) (g : Origin) (code subj : Nat) (args : List (Option Nat)) :
    (s.logWith only ts g code subj args).thm = s.thm := by
  unfold State.logWith; dsimp only; split
  · rfl
  · split
    · rfl
    · split <;> rfl
@[simp] theorem State.logWith_adm (only : Bool) (ts : Nat) (g : Origin) (code subj : Nat) (args : List (Option Nat)) :
    (s.logWith only ts g code subj args).adm = s.adm := by
  unfold State.logWith; dsimp only; split
  · rfl
  · split
    · rfl
    · split <;> rfl
@[simp] theorem State.logWith_lamps (only : Bool) (ts : Nat) (g : Origin) (code subj : Nat) (args : List (Option Nat)) :
    (s.logWith only ts g code subj args).lamps = s.lamps := by
  unfold State.logWith; dsimp only; split
  · rfl
  · split
    · rfl
    · split <;> rfl
@[simp] theorem State.logWith_pins (only : Bool) (ts : Nat) (g : Origin) (code subj : Nat) (args : List (Option Nat)) :
    (s.logWith only ts g code subj args).pins = s.pins := by
  unfold State.logWith; dsimp only; split
  · rfl
  · split
    · rfl
    · split <;> rfl
@[simp] theorem State.logWith_hst (only : Bool) (ts : Nat) (g : Origin) (code subj : Nat) (args : List (Option Nat)) :
    (s.logWith only ts g code subj args).hst = s.hst := by
  unfold State.logWith; dsimp only; split
  · rfl
  · split
    · rfl
    · split <;> rfl
@[simp] theorem State.logWith_snt (only : Bool) (ts : Nat) (g : Origin) (code subj : Nat) (args : List (Option Nat)) :
    (s.logWith only ts g code subj args).snt = s.snt := by
  unfold State.logWith; dsimp only; split
  · rfl
  · split
    · rfl
    · split <;> rfl
@[simp] theorem State.logWith_chr (only : Bool) (ts : Nat) (g : Origin) (code subj : Nat) (args : List (Option Nat)) :
    (s.logWith only ts g code subj args).chr = s.chr := by
  unfold State.logWith; dsimp only; split
  · rfl
  · split
    · rfl
    · split <;> rfl
@[simp] theorem State.logWith_rst (only : Bool) (ts : Nat) (g : Origin) (code subj : Nat) (args : List (Option Nat)) :
    (s.logWith only ts g code subj args).rst = s.rst := by
  unfold State.logWith; dsimp only; split
  · rfl
  · split
    · rfl
    · split <;> rfl
@[simp] theorem State.logWith_cpe (only : Bool) (ts : Nat) (g : Origin) (code subj : Nat) (args : List (Option Nat)) :
    (s.logWith only ts g code subj args).cpe = s.cpe := by
  unfold State.logWith; dsimp only; split
  · rfl
  · split
    · rfl
    · split <;> rfl
@[simp] theorem State.logWith_cch (only : Bool) (ts : Nat) (g : Origin) (code subj : Nat) (args : List (Option Nat)) :
    (s.logWith only ts g code subj args).cch = s.cch := by
  unfold State.logWith; dsimp only; split
  · rfl
  · split
    · rfl
    · split <;> rfl
@[simp] theorem State.logWith_dpt (only : Bool) (ts : Nat) (g : Origin) (code subj : Nat) (args : List (Option Nat)) :
    (s.logWith only ts g code subj args).dpt = s.dpt := by
  unfold State.logWith; dsimp only; split
  · rfl
  · split
    · rfl
    · split <;> rfl
@[simp] theorem State.logWith_bmv (only : Bool) (ts : Nat) (g : Origin) (code subj : Nat) (args : List (Option Nat)) :
    (s.logWith only ts g code subj args).bmv = s.bmv := by
  unfold State.logWith; dsimp only; split
  · rfl
  · split
    · rfl
    · split <;> rfl
@[simp] theorem State.logWith_crd (only : Bool) (ts : Nat) (g : Origin) (code subj : Nat) (args : List (Option Nat)) :
    (s.logWith only ts g code subj args).crd = s.crd := by
  unfold State.logWith; dsimp only; split
  · rfl
  · split
    · rfl
    · split <;> rfl
@[simp] theorem State.logWith_out (only : Bool) (ts : Nat) (g : Origin) (code subj : Nat) (args : List (Option Nat)) :
    (s.logWith only ts g code subj args).out = s.out := by
  unfold State.logWith; dsimp only; split
  · rfl
  · split
    · rfl
    · split <;> rfl
@[simp] theorem State.logWith_free (only : Bool) (ts : Nat) (g : Origin) (code subj : Nat) (args : List (Option Nat)) :
    (s.logWith only ts g code subj args).free = s.free := by
  unfold State.logWith; dsimp only; split
  · rfl
  · split
    · rfl
    · split <;> rfl
@[simp] theorem State.logWith_pending (only : Bool) (ts : Nat) (g : Origin) (code subj : Nat) (args : List (Option Nat)) :
    (s.logWith only ts g code subj args).pending = s.pending := by
  unfold State.logWith; dsimp only; split
  · rfl
  · split
    · rfl
    · split <;> rfl

@[simp] theorem State.logAt_tb (ts : Nat) (g : Origin) (code subj : Nat) (args : List (Option Nat)) :
    (s.logAt ts g code subj args).tb = s.tb := s.logWith_tb _ _ _ _ _ _
@[simp] theorem State.logAt_rails (ts : Nat) (g : Origin) (code subj : Nat) (args : List (Option Nat)) :
    (s.logAt ts g code subj args).rails = s.rails := s.logWith_rails _ _ _ _ _ _
@[simp] theorem State.logAt_seq (ts : Nat) (g : Origin) (code subj : Nat) (args : List (Option Nat)) :
    (s.logAt ts g code subj args).seq = s.seq := s.logWith_seq _ _ _ _ _ _
@[simp] theorem State.logAt_sw (ts : Nat) (g : Origin) (code subj : Nat) (args : List (Option Nat)) :
    (s.logAt ts g code subj args).sw = s.sw := s.logWith_sw _ _ _ _ _ _
@[simp] theorem State.logAt_sup (ts : Nat) (g : Origin) (code subj : Nat) (args : List (Option Nat)) :
    (s.logAt ts g code subj args).sup = s.sup := s.logWith_sup _ _ _ _ _ _
@[simp] theorem State.logAt_thm (ts : Nat) (g : Origin) (code subj : Nat) (args : List (Option Nat)) :
    (s.logAt ts g code subj args).thm = s.thm := s.logWith_thm _ _ _ _ _ _
@[simp] theorem State.logAt_adm (ts : Nat) (g : Origin) (code subj : Nat) (args : List (Option Nat)) :
    (s.logAt ts g code subj args).adm = s.adm := s.logWith_adm _ _ _ _ _ _
@[simp] theorem State.logAt_lamps (ts : Nat) (g : Origin) (code subj : Nat) (args : List (Option Nat)) :
    (s.logAt ts g code subj args).lamps = s.lamps := s.logWith_lamps _ _ _ _ _ _
@[simp] theorem State.logAt_pins (ts : Nat) (g : Origin) (code subj : Nat) (args : List (Option Nat)) :
    (s.logAt ts g code subj args).pins = s.pins := s.logWith_pins _ _ _ _ _ _
@[simp] theorem State.logAt_hst (ts : Nat) (g : Origin) (code subj : Nat) (args : List (Option Nat)) :
    (s.logAt ts g code subj args).hst = s.hst := s.logWith_hst _ _ _ _ _ _
@[simp] theorem State.logAt_snt (ts : Nat) (g : Origin) (code subj : Nat) (args : List (Option Nat)) :
    (s.logAt ts g code subj args).snt = s.snt := s.logWith_snt _ _ _ _ _ _
@[simp] theorem State.logAt_chr (ts : Nat) (g : Origin) (code subj : Nat) (args : List (Option Nat)) :
    (s.logAt ts g code subj args).chr = s.chr := s.logWith_chr _ _ _ _ _ _
@[simp] theorem State.logAt_rst (ts : Nat) (g : Origin) (code subj : Nat) (args : List (Option Nat)) :
    (s.logAt ts g code subj args).rst = s.rst := s.logWith_rst _ _ _ _ _ _
@[simp] theorem State.logAt_cpe (ts : Nat) (g : Origin) (code subj : Nat) (args : List (Option Nat)) :
    (s.logAt ts g code subj args).cpe = s.cpe := s.logWith_cpe _ _ _ _ _ _
@[simp] theorem State.logAt_cch (ts : Nat) (g : Origin) (code subj : Nat) (args : List (Option Nat)) :
    (s.logAt ts g code subj args).cch = s.cch := s.logWith_cch _ _ _ _ _ _
@[simp] theorem State.logAt_dpt (ts : Nat) (g : Origin) (code subj : Nat) (args : List (Option Nat)) :
    (s.logAt ts g code subj args).dpt = s.dpt := s.logWith_dpt _ _ _ _ _ _
@[simp] theorem State.logAt_bmv (ts : Nat) (g : Origin) (code subj : Nat) (args : List (Option Nat)) :
    (s.logAt ts g code subj args).bmv = s.bmv := s.logWith_bmv _ _ _ _ _ _
@[simp] theorem State.logAt_crd (ts : Nat) (g : Origin) (code subj : Nat) (args : List (Option Nat)) :
    (s.logAt ts g code subj args).crd = s.crd := s.logWith_crd _ _ _ _ _ _
@[simp] theorem State.logAt_out (ts : Nat) (g : Origin) (code subj : Nat) (args : List (Option Nat)) :
    (s.logAt ts g code subj args).out = s.out := s.logWith_out _ _ _ _ _ _
@[simp] theorem State.logAt_free (ts : Nat) (g : Origin) (code subj : Nat) (args : List (Option Nat)) :
    (s.logAt ts g code subj args).free = s.free := s.logWith_free _ _ _ _ _ _
@[simp] theorem State.logAt_pending (ts : Nat) (g : Origin) (code subj : Nat) (args : List (Option Nat)) :
    (s.logAt ts g code subj args).pending = s.pending := s.logWith_pending _ _ _ _ _ _

@[simp] theorem State.log_rails (code subj : Nat) (args : List (Option Nat)) : (s.log code subj args).rails = s.rails :=
  s.touch.logAt_rails _ _ _ _ _
@[simp] theorem State.log_seq (code subj : Nat) (args : List (Option Nat)) : (s.log code subj args).seq = s.seq :=
  s.touch.logAt_seq _ _ _ _ _
@[simp] theorem State.log_sw (code subj : Nat) (args : List (Option Nat)) : (s.log code subj args).sw = s.sw :=
  s.touch.logAt_sw _ _ _ _ _
@[simp] theorem State.log_sup (code subj : Nat) (args : List (Option Nat)) : (s.log code subj args).sup = s.sup :=
  s.touch.logAt_sup _ _ _ _ _
@[simp] theorem State.log_thm (code subj : Nat) (args : List (Option Nat)) : (s.log code subj args).thm = s.thm :=
  s.touch.logAt_thm _ _ _ _ _
@[simp] theorem State.log_adm (code subj : Nat) (args : List (Option Nat)) : (s.log code subj args).adm = s.adm :=
  s.touch.logAt_adm _ _ _ _ _
@[simp] theorem State.log_lamps (code subj : Nat) (args : List (Option Nat)) : (s.log code subj args).lamps = s.lamps :=
  s.touch.logAt_lamps _ _ _ _ _
@[simp] theorem State.log_pins (code subj : Nat) (args : List (Option Nat)) : (s.log code subj args).pins = s.pins :=
  s.touch.logAt_pins _ _ _ _ _
@[simp] theorem State.log_hst (code subj : Nat) (args : List (Option Nat)) : (s.log code subj args).hst = s.hst :=
  s.touch.logAt_hst _ _ _ _ _
@[simp] theorem State.log_snt (code subj : Nat) (args : List (Option Nat)) : (s.log code subj args).snt = s.snt :=
  s.touch.logAt_snt _ _ _ _ _
@[simp] theorem State.log_chr (code subj : Nat) (args : List (Option Nat)) : (s.log code subj args).chr = s.chr :=
  s.touch.logAt_chr _ _ _ _ _
@[simp] theorem State.log_rst (code subj : Nat) (args : List (Option Nat)) : (s.log code subj args).rst = s.rst :=
  s.touch.logAt_rst _ _ _ _ _
@[simp] theorem State.log_cpe (code subj : Nat) (args : List (Option Nat)) : (s.log code subj args).cpe = s.cpe :=
  s.touch.logAt_cpe _ _ _ _ _
@[simp] theorem State.log_cch (code subj : Nat) (args : List (Option Nat)) : (s.log code subj args).cch = s.cch :=
  s.touch.logAt_cch _ _ _ _ _
@[simp] theorem State.log_dpt (code subj : Nat) (args : List (Option Nat)) : (s.log code subj args).dpt = s.dpt :=
  s.touch.logAt_dpt _ _ _ _ _
@[simp] theorem State.log_bmv (code subj : Nat) (args : List (Option Nat)) : (s.log code subj args).bmv = s.bmv :=
  s.touch.logAt_bmv _ _ _ _ _
@[simp] theorem State.log_crd (code subj : Nat) (args : List (Option Nat)) : (s.log code subj args).crd = s.crd :=
  s.touch.logAt_crd _ _ _ _ _
@[simp] theorem State.log_out (code subj : Nat) (args : List (Option Nat)) : (s.log code subj args).out = s.out :=
  s.touch.logAt_out _ _ _ _ _
@[simp] theorem State.log_pending (code subj : Nat) (args : List (Option Nat)) : (s.log code subj args).pending = s.pending :=
  s.touch.logAt_pending _ _ _ _ _
@[simp] theorem State.log_free (code subj : Nat) (args : List (Option Nat)) : (s.log code subj args).free = s.free + 1 :=
  s.touch.logAt_free _ _ _ _ _

@[simp] theorem State.opened_regs : s.opened.regs = s.regs := rfl
@[simp] theorem State.opened_st : s.opened.st = s.st := rfl
@[simp] theorem State.opened_rails : s.opened.rails = s.rails := rfl
@[simp] theorem State.opened_seq : s.opened.seq = s.seq := rfl
@[simp] theorem State.opened_sw : s.opened.sw = s.sw := rfl
@[simp] theorem State.opened_sup : s.opened.sup = s.sup := rfl
@[simp] theorem State.opened_thm : s.opened.thm = s.thm := rfl
@[simp] theorem State.opened_adm : s.opened.adm = s.adm := rfl
@[simp] theorem State.opened_lamps : s.opened.lamps = s.lamps := rfl
@[simp] theorem State.opened_pins : s.opened.pins = s.pins := rfl
@[simp] theorem State.opened_rng : s.opened.rng = s.rng := rfl
@[simp] theorem State.opened_hst : s.opened.hst = s.hst := rfl
@[simp] theorem State.opened_snt : s.opened.snt = s.snt := rfl
@[simp] theorem State.opened_chr : s.opened.chr = s.chr := rfl
@[simp] theorem State.opened_rst : s.opened.rst = s.rst := rfl
@[simp] theorem State.opened_cpe : s.opened.cpe = s.cpe := rfl
@[simp] theorem State.opened_cch : s.opened.cch = s.cch := rfl
@[simp] theorem State.opened_dpt : s.opened.dpt = s.dpt := rfl
@[simp] theorem State.opened_bmv : s.opened.bmv = s.bmv := rfl
@[simp] theorem State.opened_crd : s.opened.crd = s.crd := rfl
@[simp] theorem State.opened_out : s.opened.out = s.out := rfl
@[simp] theorem State.opened_free : s.opened.free = s.free := rfl
@[simp] theorem State.opened_pending : s.opened.pending = s.pending := rfl

@[simp] theorem State.modCch_tb (f : Cch → Cch) : (s.modCch f).tb = s.tb := rfl
@[simp] theorem State.modCch_st (f : Cch → Cch) : (s.modCch f).st = s.st := rfl
@[simp] theorem State.modCch_rails (f : Cch → Cch) : (s.modCch f).rails = s.rails := rfl
@[simp] theorem State.modCch_seq (f : Cch → Cch) : (s.modCch f).seq = s.seq := rfl
@[simp] theorem State.modCch_sw (f : Cch → Cch) : (s.modCch f).sw = s.sw := rfl
@[simp] theorem State.modCch_sup (f : Cch → Cch) : (s.modCch f).sup = s.sup := rfl
@[simp] theorem State.modCch_thm (f : Cch → Cch) : (s.modCch f).thm = s.thm := rfl
@[simp] theorem State.modCch_adm (f : Cch → Cch) : (s.modCch f).adm = s.adm := rfl
@[simp] theorem State.modCch_lamps (f : Cch → Cch) : (s.modCch f).lamps = s.lamps := rfl
@[simp] theorem State.modCch_pins (f : Cch → Cch) : (s.modCch f).pins = s.pins := rfl
@[simp] theorem State.modCch_rng (f : Cch → Cch) : (s.modCch f).rng = s.rng := rfl
@[simp] theorem State.modCch_hst (f : Cch → Cch) : (s.modCch f).hst = s.hst := rfl
@[simp] theorem State.modCch_snt (f : Cch → Cch) : (s.modCch f).snt = s.snt := rfl
@[simp] theorem State.modCch_chr (f : Cch → Cch) : (s.modCch f).chr = s.chr := rfl
@[simp] theorem State.modCch_rst (f : Cch → Cch) : (s.modCch f).rst = s.rst := rfl
@[simp] theorem State.modCch_cpe (f : Cch → Cch) : (s.modCch f).cpe = s.cpe := rfl
@[simp] theorem State.modCch_dpt (f : Cch → Cch) : (s.modCch f).dpt = s.dpt := rfl
@[simp] theorem State.modCch_bmv (f : Cch → Cch) : (s.modCch f).bmv = s.bmv := rfl
@[simp] theorem State.modCch_crd (f : Cch → Cch) : (s.modCch f).crd = s.crd := rfl
@[simp] theorem State.modCch_out (f : Cch → Cch) : (s.modCch f).out = s.out := rfl
@[simp] theorem State.modCch_free (f : Cch → Cch) : (s.modCch f).free = s.free := rfl
@[simp] theorem State.modCch_pending (f : Cch → Cch) : (s.modCch f).pending = s.pending := rfl

@[simp] theorem State.mramPut_regs (a : Nat) (l : List Byte) : (s.mramPut a l).regs = s.regs := rfl
@[simp] theorem State.mramPut_tb (a : Nat) (l : List Byte) : (s.mramPut a l).tb = s.tb := rfl
@[simp] theorem State.mramPut_rails (a : Nat) (l : List Byte) : (s.mramPut a l).rails = s.rails := rfl
@[simp] theorem State.mramPut_seq (a : Nat) (l : List Byte) : (s.mramPut a l).seq = s.seq := rfl
@[simp] theorem State.mramPut_sw (a : Nat) (l : List Byte) : (s.mramPut a l).sw = s.sw := rfl
@[simp] theorem State.mramPut_sup (a : Nat) (l : List Byte) : (s.mramPut a l).sup = s.sup := rfl
@[simp] theorem State.mramPut_thm (a : Nat) (l : List Byte) : (s.mramPut a l).thm = s.thm := rfl
@[simp] theorem State.mramPut_adm (a : Nat) (l : List Byte) : (s.mramPut a l).adm = s.adm := rfl
@[simp] theorem State.mramPut_lamps (a : Nat) (l : List Byte) : (s.mramPut a l).lamps = s.lamps := rfl
@[simp] theorem State.mramPut_pins (a : Nat) (l : List Byte) : (s.mramPut a l).pins = s.pins := rfl
@[simp] theorem State.mramPut_rng (a : Nat) (l : List Byte) : (s.mramPut a l).rng = s.rng := rfl
@[simp] theorem State.mramPut_hst (a : Nat) (l : List Byte) : (s.mramPut a l).hst = s.hst := rfl
@[simp] theorem State.mramPut_snt (a : Nat) (l : List Byte) : (s.mramPut a l).snt = s.snt := rfl
@[simp] theorem State.mramPut_chr (a : Nat) (l : List Byte) : (s.mramPut a l).chr = s.chr := rfl
@[simp] theorem State.mramPut_rst (a : Nat) (l : List Byte) : (s.mramPut a l).rst = s.rst := rfl
@[simp] theorem State.mramPut_cpe (a : Nat) (l : List Byte) : (s.mramPut a l).cpe = s.cpe := rfl
@[simp] theorem State.mramPut_cch (a : Nat) (l : List Byte) : (s.mramPut a l).cch = s.cch := rfl
@[simp] theorem State.mramPut_dpt (a : Nat) (l : List Byte) : (s.mramPut a l).dpt = s.dpt := rfl
@[simp] theorem State.mramPut_bmv (a : Nat) (l : List Byte) : (s.mramPut a l).bmv = s.bmv := rfl
@[simp] theorem State.mramPut_crd (a : Nat) (l : List Byte) : (s.mramPut a l).crd = s.crd := rfl
@[simp] theorem State.mramPut_out (a : Nat) (l : List Byte) : (s.mramPut a l).out = s.out := rfl
@[simp] theorem State.mramPut_free (a : Nat) (l : List Byte) : (s.mramPut a l).free = s.free := rfl
@[simp] theorem State.mramPut_pending (a : Nat) (l : List Byte) : (s.mramPut a l).pending = s.pending := rfl

@[simp] theorem State.opened_early : s.opened.tb.early = true := rfl
@[simp] theorem State.mramPut_mem (a : Nat) (l : List Byte) : (s.mramPut a l).st.mem = putBytes s.st.mem a l := rfl

end Sys2Proof.Machine
end

