-- ==== Sys2Proof/WellFormed.lean ====
section
/-!
DEFINITION. Well-formed commands: the operands that the outside can give, where a type alone does not say it. The meanings are
total and do not ask for it.
-/

namespace Sys2Proof

/-- A frame's inputs: 1 to 6 phases complete, a duration for each phase (R47), 12-bit codes for the 24
rails (R87, R89), and masks within their widths (R43). -/
def frameWf (f : FrameIn) : Bool :=
  decide (1 ≤ f.done) && decide (f.done ≤ 6) && f.cycles.length == 6 &&
    f.vs.length == 24 && f.vs.all (fun v => decide (v < 4096)) && f.isn.length == 8 &&
    decide (f.staleVs < 2 ^ 24) && decide (f.staleOther < 2 ^ 13) && decide (f.pg < 2 ^ 24) &&
    decide (f.fast.length ≤ 126)

/-- A register offset: a word of Owner BAR0 or of the Owner's BAR2, which follows it (R6, R194). -/
def offWf (off : Nat) : Bool := off % 4 == 0 && decide (off < 0x80000)

/-- A submission entry has 10 parameter words (Table 9-3). -/
def entryWf (e : SqEntry) : Bool := e.params.length == 10

/-- A burst moves at most 64 bytes (R347). -/
def burstWf (b : BurstIn) : Bool := decide (b.dev.length ≤ 64) && decide (b.host.length ≤ 64)

/-- An image has at least its 256-byte header (R151). -/
def imgWf : Option (List Byte) → Bool
  | some h => decide (256 ≤ h.length)
  | none => true

/-- A completion timeout lies in ranges A and B: 50 µs to 250 ms (R196). -/
def cfgWf (c : FnCfg) : Bool :=
  match c.cto with
  | some t => decide (50 ≤ t) && decide (t ≤ 250000)
  | none => true

/-- Is the command well formed? -/
def wellFormed : Instr → Bool
  | .frameTick f => frameWf f
  | .stagedRegisterWrite _ off _ => offWf off
  | .registerWrite _ off _ => offWf off
  | .entryFetch b => decide (b.length = 64 ∨ b.length = 128 ∨ b.length = 192 ∨ b.length = 256)
  | .mailboxRequest (.cmd _ e) => entryWf e
  | .viServed _ _ c => cfgWf c
  | .portBurst _ b => burstWf b
  | .chainCacheFill b err => err || b.length == 64
  | .descriptorFetch _ b => b.length == 64
  | .bmvBurstRead _ d err => err || decide (1 ≤ d.length)
  | .serviceSlotVerify h => imgWf h
  | .fwVerify _ h => imgWf h
  | .patchLoad _ h => imgWf (some h)
  | .keySet _ d => d.length == 64
  | .invalidationRequest _ _ _ lo hi => decide (lo ≤ hi)
  | .diodeConversion uv _ _ => decide (uv < 2 ^ 16)
  | _ => true

end Sys2Proof
end

