-- ==== Sys2Proof/Tests/Slice0.lean ====
section
/-!
SUPPORT. The model's own tests: ill-formed terms, small checks against the spec's own words and tables, and for each
statement with hypotheses a state and operands that meet them.
-/

namespace Sys2Proof.Tests
open Sys2Proof Sys2Proof.Machine

/-! ## Builders -/

/-- Fields written one after another. -/
def sets (s : State) (l : List (FRef × Nat)) : State := l.foldl (fun s x => s.put x.1 x.2) s

/-- CORE and Service run, and link HPA is up with every function served. -/
def live : State :=
  sets { State.reset with
    rst := { State.reset.rst with core := true }
    snt := { State.reset.snt with boot := 8 }
    hst := { State.reset.hst with fnA := List.replicate 17 true } }
    [(linkF .hpa, 2), (GLB_STATUS_SVC_RUN, 1)]

/-- A submission entry: opcode, parameters and buffer length. -/
def entry (op : Nat) (ps : List Nat) (len : Nat) : SqEntry :=
  ⟨BitVec.ofNat 8 op, 0, 1, 0, 0x1000, BitVec.ofNat 32 len, 0, (ps ++ List.replicate (10 - ps.length) 0).map fun p => BitVec.ofNat 32 p⟩

/-- The state with one fetched command of tag 0 that may start. -/
def State.ready (s : State) (r : RingId) (op : Nat) (ps : List Nat) (len : Nat := 0) : State :=
  { s with rng := { s.rng with cmds :=
    [⟨0, r, s.originOf (whoOf r), entry op ps len, if opFwd op then .granted else .fetched, 0, false, false⟩] } }

/-- The command of tag 0 once it has started. -/
def started (s : State) : Cmd :=
  match s.cmd 0 with
  | some d => { d with st := .running }
  | none => ⟨0, .sub, .sentinel, entry 0 [] 0, .running, 0, false, false⟩

/-- `Starts` as a check. -/
def startsB (s : State) (op : Nat) : Bool :=
  match s.cmd 0 with
  | some d => d.entry.op.toNat == op && s.mayRun d && !(s.hst.pri.any fun q => q.tgt == .buf 0) &&
      decide (s.cmdCheck d.ring d.entry = none)
  | none => false

theorem starts_of {s : State} {op : Nat} (h : startsB s op = true) : Starts s 0 op (started s) (s.begin 0 op) := by
  unfold startsB at h
  split at h
  · rename_i d e
    simp only [Bool.and_eq_true, beq_iff_eq, decide_eq_true_eq, Bool.not_eq_true'] at h
    refine ⟨d, e, h.1.1.1, h.1.1.2, h.1.2, h.2, ?_, rfl⟩
    unfold started
    rw [e]
  · cases h

/-- Two active cards, the first visible to VI0. -/
def card0 : State :=
  sets { live with crd := { live.crd with ports := live.crd.ports.map fun (c : Card) => { c with ph := .run, chans := 4 } } }
    [(CRD_PCFG0_EN 0, 1), (CRD_PSTAT_PRESENT 0, 1), (CRD_PSTAT_STATE 0, cdACTIVE), (CRD_VIPERM_VIS, 1), (HST_VIBIND_EN 0, 1)]

/-- The Owner holds session 5 on card 0. -/
def cardOpen : State := { card0 with crd := { card0.crd with sess := [⟨5, 0, 0, none, false⟩] } }

/-- Session 5 holds the card exclusively. -/
def cardHeld : State := sets cardOpen [(sessExcl 0, 1), (sessExHandle 0, 5)]

/-- A command of identifier 9 on the Owner Submission ring, with tag 1. -/
def other (op : Byte) (st : CmdSt) : Cmd := ⟨1, .sub, .owner .hpa, { entry op.toNat [] 0 with cid := 9 }, st, 0, false, false⟩

/-- An ABORT of tag 0 that may start, and the command it names. -/
def abortOf (op : Byte) (st : CmdSt) : State :=
  let s := State.ready live .sub 0x03 [0, 9]
  { s with rng := { s.rng with cmds := s.rng.cmds ++ [other op st] } }

/-- An image of no body (R151): its kind and key, the digest of no bytes, and a signature r and s of one value. -/
def imageBytes (kind key : Byte) (sig : Nat) : List Byte :=
  [0x57, 0x4D, 0x47, 0x31, 1, 0, kind, key] ++ zeros 56 ++
    leBytes 48 0x5BB99848F1D21AD5FB656FE7BFDE4E27DAE1F663BFC70C4C4307BE1411B7FD216AE3B1B17E32D94C3896AC51A760B038 ++
    leBytes 48 sig ++ leBytes 48 sig ++ zeros 48

/-- A Service image signed with key 0, and a patch image signed with key 1. -/
def serviceImage : List Byte := imageBytes 0 0
  0xf5c748ac8c251cd9727778067ac87715b5dc74262013d687290e545419715651a299b206084d1cf89e8b69984b5c5b47
def patchImage : List Byte := imageBytes 1 1
  0x9806c1bbc94ac4759824c5a7ace61045b09b2d0f7acdf7a8516b89efd63b58f834530712ce4e6834cab0de4609e8d2

/-- The public keys of the two images in OTP keys 0 and 1. -/
def keyed (s : State) : State := { s with snt := { s.snt with otpKeys := [
  leBytes 48 0x64ce9f58464be6b5b1e4de8c20ad6810940e4fd7222801a9b148c50eb27546099c313bf8c48d3d794439e3241403f99d ++ leBytes 48 0x7b79280ecb94c122780759f1abc38e730d4fc190dea3b17514b5a8dd084a997a13e720274bbedbcd1f2c1d452d7887a6,
  leBytes 48 0x67b37826c6881dac2909ea905c3eec03ca5946b2d4e030b44a30bf868ff3a03ca107c7af61f302fcca815fb871355028 ++ leBytes 48 0xb19a7fb518e3b118e40c76032139e3c238c3f551635f457aca855f1f6a1c52223b380b1354af5b0f38cbe541b1a945ff] } }

/-- A burst in which the device takes or gives nothing. -/
def quietBurst : BurstIn := ⟨0, [], [], [], false, 0, false, false, 0, 0, none, none⟩


/-- States and operands that meet the hypotheses of GeneralCommandsComplete. -/
theorem witness_GeneralCommandsComplete :
    (∃ s t c u, Starts s t 0x00 c u) ∧
    (∃ s t c u, Starts s t 0xF0 c u) ∧
    (∃ s t c u, Starts s t 0x02 c u) ∧
    (∃ s t c u, Starts s t 0x04 c u) :=
  ⟨⟨(State.ready live .sub 0x00 []), 0, _, _, (starts_of (by decide))⟩,
    ⟨(State.ready live .adm 0xF0 [7, 8]), 0, _, _, (starts_of (by decide))⟩,
    ⟨(State.ready live .sub 0x02 []), 0, _, _, (starts_of (by decide))⟩,
    ⟨(State.ready live .adm 0x04 [65535]), 0, _, _, (starts_of (by decide))⟩⟩

/-- States and operands that meet the hypotheses of IdentifyAndAbortComplete. -/
theorem witness_IdentifyAndAbortComplete :
    (∃ s t c u, Starts s t 0x01 c u) ∧
    (∃ s t c u, Starts s t 0x03 c u ∧ (∀ r, abortRing c.ring (c.p 0) = some r → ∀ d ∈ u.rng.cmds, d.ring = r →
      d.entry.cid.toNat ≠ c.p 1)) ∧
    (∃ (s : State) (t : Tag) (c : Cmd) (u : State) (r : RingId) (d : Cmd), Starts s t 0x03 c u ∧ abortRing c.ring (c.p 0)
      = some r ∧ (u.rng.cmds.find? fun x => x.ring == r && x.entry.cid.toNat == c.p 1) = some d ∧ d.tag ≠ t ∧ d.st ≠
      .running) ∧
    (∃ (s : State) (t : Tag) (c : Cmd) (u : State) (r : RingId) (d : Cmd) (v : State) (k : Nat), Starts s t 0x03 c u ∧
      abortRing c.ring (c.p 0) = some r ∧ (u.rng.cmds.find? fun x => x.ring == r && x.entry.cid.toNat == c.p 1) = some d
      ∧ d.tag ≠ t ∧ d.st = .running ∧ (d.entry.op.toNat ∈ [0x24, 0x80, 0x90, 0x91] ∨ (d.entry.op.toNat = 0x21 ∧ bitOf
      (d.p 0) 0 = true)) ∧ u.cmdResidue d = (v, k)) ∧
    (∃ (s : State) (t : Tag) (c : Cmd) (u : State) (r : RingId) (d : Cmd), Starts s t 0x03 c u ∧ abortRing c.ring (c.p 0)
      = some r ∧ (u.rng.cmds.find? fun x => x.ring == r && x.entry.cid.toNat == c.p 1) = some d ∧ d.tag ≠ t ∧ d.st =
      .running ∧ d.entry.op.toNat ∉ [0x20, 0x21, 0x24, 0x52, 0x80, 0x90, 0x91, 0xF1]) :=
  ⟨⟨(State.ready live .sub 0x01 [] 256), 0, _, _, (starts_of (by decide))⟩,
    ⟨(State.ready live .sub 0x03 [0, 5]), 0, _, _, (starts_of (by decide)), (fun r _ d hd _ => (by decide : ∀ d ∈
      ((State.ready live .sub 0x03 [0, 5]).begin 0 0x03).rng.cmds, d.entry.cid.toNat ≠ 5) d hd)⟩,
    ⟨(abortOf 0x00 .fetched), 0, _, _, .sub, other 0x00 .fetched, (starts_of (by decide)), by decide, by decide,
      by decide, by decide⟩,
    ⟨(abortOf 0x24 .running), 0, _, _, .sub, other 0x24 .running, _, _, (starts_of (by decide)), by decide, by decide,
      by decide, by decide, by decide, ((Prod.eta _).symm)⟩,
    ⟨(abortOf 0x02 .running), 0, _, _, .sub, other 0x02 .running, (starts_of (by decide)), by decide, by decide,
      by decide, by decide, by decide⟩⟩

/-- States and operands that meet the hypotheses of StagingCommandsComplete. -/
theorem witness_StagingCommandsComplete :
    (∃ (s : State) (t : Tag) (c : Cmd) (u v : State) (n st : Nat), Starts s t 0x10 c u ∧ u.stageRun c.origin c.who ((upTo
      (min 3 (c.p 9))).map fun i => stageTriple c.entry i) = (v, n, st)) ∧
    (∃ (s : State) (t : Tag) (data : List Byte) (c : Cmd) (u v : State) (n st : Nat), Starts s t 0x11 c u ∧
      c.entry.len.toNat / 12 ≤ 256 ∧ (u.hostRd c.who c.entry.buf.toNat (12 * (c.entry.len.toNat / 12))).stageRun c.origin
      c.who (bulkTriples data (c.entry.len.toNat / 12)) = (v, n, st)) ∧
    (∃ s t c u, Starts s t 0x12 c u) ∧
    (∃ s t c u, Starts s t 0x13 c u ∧ u.checkStage c.who = none) ∧
    (∃ (s : State) (t : Tag) (c : Cmd) (u : State) (r : Nat × Nat), Starts s t 0x13 c u ∧ u.checkStage c.who = some r) ∧
    (∃ s t c u, Starts s t 0x14 c u) ∧
    (∃ (s : State) (t : Tag) (c : Cmd) (u v : State) (n st : Nat), Starts s t 0x15 c u ∧ u.discardStage c.who = (v, st,
      n)) ∧
    (∃ s t c u, Starts s t 0x16 c u) :=
  ⟨⟨(State.ready live .sub 0x10 [49152, 1, 1, 0, 0, 0, 0, 0, 0, 1]), 0, _, _, _, _, _, (starts_of (by decide)), rfl⟩,
    ⟨(State.ready live .sub 0x11 [] 24), 0, [], _, _, _, _, _, (starts_of (by decide)), by decide, rfl⟩,
    ⟨(State.ready live .sub 0x12 [] 8), 0, _, _, (starts_of (by decide))⟩,
    ⟨(State.ready live .sub 0x13 []), 0, _, _, (starts_of (by decide)), by decide +kernel⟩,
    ⟨(State.ready ({ live with chr := { live.chr with owner := ⟨[], true⟩ } }) .sub 0x13 []), 0, _, _, _, (starts_of
      (by decide)), rfl⟩,
    ⟨(State.ready live .sub 0x14 []), 0, _, _, (starts_of (by decide))⟩,
    ⟨(State.ready live .sub 0x15 []), 0, _, _, _, _, _, (starts_of (by decide)), rfl⟩,
    ⟨(State.ready live .adm 0x16 [1500]), 0, _, _, (starts_of (by decide))⟩⟩

/-- States and operands that meet the hypotheses of PowerCommandsComplete. -/
theorem witness_PowerCommandsComplete :
    (∃ s t c u, Starts s t 0x20 c u ∧ (u.get PSQ_SEQSTAT_STATE = seqDOWN ∨ u.get PSQ_SEQSTAT_STATE = seqCOOL)) ∧
    (∃ s t c u, Starts s t 0x20 c u ∧ Sound u ∧ u.get PSQ_SEQSTAT_STATE = seqOFF ∧ u.on PSQ_SEQCFG_SRC = false ∧ u.get
      SUP_HSSTAT_STATE ≠ hsHELD) ∧
    (∃ s t c u, Starts s t 0x21 c u ∧ u.get PSQ_SEQSTAT_STATE = seqON) ∧
    (∃ s t c u, Starts s t 0x22 c u) ∧
    (∃ s t c u, Starts s t 0x23 c u ∧ c.p 0 = 1) ∧
    (∃ s t c u, Starts s t 0x23 c u ∧ c.p 0 ≠ 1) ∧
    (∃ s t c u, Starts s t 0x26 c u) ∧
    (∃ s t c u, Starts s t 0x27 c u ∧ bitOf (u.get SUP_SNAPCFG_TRIG) 6 = true ∧ u.snapBusy = false) ∧
    (∃ s t c u, Starts s t 0x28 c u ∧ c.p 0 = 0) ∧
    (∃ s t c u, Starts s t 0x28 c u ∧ c.p 0 = 1 ∧ u.rst.downFor = none ∧ (∀ v, u.viEn (some v) = false)) ∧
    (∃ (s : State) (t : Tag) (c : Cmd) (u v : State), Starts s t 0x24 c u ∧ v = (u.quietAdd (c.p 0, c.p 1)).modCmd t (fun
      x => { x with count := u.newHolds (c.p 0, c.p 1) })) ∧
    (∃ (s : State) (t : Tag) (c : Cmd) (u v : State), Starts s t 0x25 c u ∧ v = u.quietEnd (c.p 0, c.p 1)) ∧
    (∃ s t c u, Starts s t 0xF2 c u) :=
  ⟨⟨(State.ready (sets live [(PSQ_SEQSTAT_STATE, seqCOOL)]) .adm 0x20 [0]), 0, _, _, (starts_of (by decide)), by decide⟩,
    ⟨(State.ready live .adm 0x20 [0]), 0, _, _, (starts_of (by decide)), (by unfold Sound; decide), by decide, by decide,
      by decide⟩,
    ⟨(State.ready (sets live [(PSQ_SEQSTAT_STATE, seqON)]) .adm 0x21 [0]), 0, _, _, (starts_of (by decide)), by decide⟩,
    ⟨(State.ready live .adm 0x22 [23]), 0, _, _, (starts_of (by decide))⟩,
    ⟨(State.ready live .adm 0x23 [1]), 0, _, _, (starts_of (by decide)), by decide⟩,
    ⟨(State.ready live .adm 0x23 [2]), 0, _, _, (starts_of (by decide)), by decide⟩,
    ⟨(State.ready live .adm 0x26 []), 0, _, _, (starts_of (by decide))⟩,
    ⟨(State.ready (sets live [(SUP_SNAPCFG_TRIG, 64)]) .adm 0x27 []), 0, _, _, (starts_of (by decide)), by decide,
      by decide⟩,
    ⟨(State.ready live .adm 0x28 [0]), 0, _, _, (starts_of (by decide)), by decide⟩,
    ⟨(State.ready live .adm 0x28 [1, 0]), 0, _, _, (starts_of (by decide)), by decide, by decide, by decide⟩,
    ⟨(State.ready live .sub 0x24 [0, 0]), 0, _, _, _, (starts_of (by decide)), rfl⟩,
    ⟨(State.ready live .sub 0x25 [0, 0]), 0, _, _, _, (starts_of (by decide)), rfl⟩,
    ⟨(State.ready live .adm 0xF2 []), 0, _, _, (starts_of (by decide))⟩⟩

/-- States and operands that meet the hypotheses of ChainCommandsComplete. -/
theorem witness_ChainCommandsComplete :
    (∃ s t c u, Starts s t 0x30 c u ∧ u.on (CPE_SCCFG_EN (c.p 0)) = false) ∧
    (∃ s t c u, Starts s t 0x30 c u ∧ u.on (CPE_SCCFG_EN (c.p 0)) = true ∧ u.quieted (u.scOwner (c.p 0)) = false ∧
      (u.scSt (c.p 0) = scIDLE ∨ u.scSt (c.p 0) = scSTOPPED)) ∧
    (∃ (s : State) (t : Tag) (same : Option SameStart) (c : Cmd) (u v : State), Starts s t 0x31 c u ∧ v = u.scLost t (c.p
      0) same) ∧
    (∃ (u : State) (n : Nat) (w : Tag) (d : Cmd), u.cmd w = some d ∧ d.entry.op.toNat ∈ scStarts ∧ d.p 0 = n ∧ u.mayRun d
      = true ∧ u.cmdCheck d.ring d.entry = none) ∧
    (∃ s t c u, Starts s t 0x32 c u ∧ u.on (CPE_SCCFG_EN (c.p 0)) = true ∧ u.on (CPE_SCSTAT0_SSR_FAIL (c.p 0)) = false ∧
      u.scSt (c.p 0) ≠ scIDLE ∧ scBusy (u.scSt (c.p 0)) = false ∧ u.get (CPE_SCSTAT0_HOLDS (c.p 0)) &&& (127 - resumeMask
      c.who) = 0) ∧
    (∃ (s : State) (t : Tag) (same : Option SameStart) (c : Cmd) (u v : State) (bit : Nat) (st : Option Nat), Starts s t
      0x33 c u ∧ v = u.scLost t (c.p 0) same ∧ suspendHold c.who (v.scOwner (c.p 0)) = (bit, st)) ∧
    (∃ s t c u, Starts s t 0x34 c u ∧ u.on (CPE_SCCFG_EN (c.p 0)) = true ∧ u.on (CPE_SCSTAT0_SSR_FAIL (c.p 0)) = false ∧
      u.scSt (c.p 0) = scSUSPENDED ∧ (u.scUnhold (c.p 0) (resumeMask c.who)).scSt (c.p 0) ≠ scSUSPENDED) ∧
    (∃ s t c u, Starts s t 0x35 c u) ∧
    (∃ (s : State) (t : Tag) (c : Cmd) (u v : State) (k : Nat), Starts s t 0x36 c u ∧ u.cchInval (c.p 0) (whoCode c.who)
      (paramAddr c.entry 1) = (v, k)) ∧
    (∃ s t c u, Starts s t 0x37 c u) :=
  ⟨⟨(State.ready live .sub 0x30 [31]), 0, _, _, (starts_of (by decide)), by decide⟩,
    ⟨(State.ready (sets live [(CPE_SCCFG_EN 31, 1), (CPE_SCCFG_OWNER 31, 16)]) .sub 0x30 [31]), 0, _, _, (starts_of
      (by decide)), by decide, by decide, by decide⟩,
    ⟨(State.ready live .sub 0x31 [31]), 0, none, _, _, _, (starts_of (by decide)), rfl⟩,
    ⟨(State.ready (sets live [(CPE_SCCFG_EN 31, 1), (CPE_SCCFG_OWNER 31, 16)]) .sub 0x30 [31]), 31, 0, _, rfl, by decide,
      by decide, by decide, by decide⟩,
    ⟨(State.ready (sets live [(CPE_SCCFG_EN 31, 1), (CPE_SCCFG_OWNER 31, 16), (CPE_SCSTAT0_STATE 31, scSTOPPED)]) .sub
      0x32 [31]), 0, _, _, (starts_of (by decide)), by decide, by decide, by decide, by decide, by decide⟩,
    ⟨(State.ready live .sub 0x33 [31]), 0, none, _, _, _, _, _, (starts_of (by decide)), rfl, rfl⟩,
    ⟨(State.ready (sets live [(CPE_SCCFG_EN 31, 1), (CPE_SCCFG_OWNER 31, 16), (CPE_SCSTAT0_STATE 31, scSUSPENDED),
      (CPE_SCSTAT0_HOLDS 31, 1)]) .sub 0x34 [31]), 0, _, _, (starts_of (by decide)), by decide, by decide, by decide,
      by decide⟩,
    ⟨(State.ready live .sub 0x35 [31]), 0, _, _, (starts_of (by decide))⟩,
    ⟨(State.ready live .sub 0x36 [3, 0, 0]), 0, _, _, _, _, (starts_of (by decide)), rfl⟩,
    ⟨(State.ready live .sub 0x37 []), 0, _, _, (starts_of (by decide))⟩⟩

/-- States and operands that meet the hypotheses of MoverCommandsComplete. -/
theorem witness_MoverCommandsComplete :
    (∃ s t c u, Starts s t 0x40 c u ∧ u.on (BMV_DCCFG_EN (c.p 0)) = true ∧ u.on BMV_STAT_ESTOP = false ∧ u.quieted
      (u.dcOwner (c.p 0)) = false ∧ (u.dcSt (c.p 0) = dcIDLE ∨ u.dcSt (c.p 0) = dcSTOPPED)) ∧
    (∃ s t c u, Starts s t 0x40 c u ∧ u.on (BMV_DCCFG_EN (c.p 0)) = false) ∧
    (∃ (s : State) (t : Tag) (same : Option SameStart) (c : Cmd) (u w : State), Starts s t 0x41 c u ∧ w = u.dcLost t (c.p
      0) same ∧ w.dcSt (c.p 0) = dcIDLE) ∧
    (∃ (s : State) (t : Tag) (same : Option SameStart) (c : Cmd) (u w : State), Starts s t 0x41 c u ∧ w = u.dcLost t (c.p
      0) same ∧ w.dcSt (c.p 0) ≠ dcIDLE) ∧
    (∃ (s : State) (t : Tag) (same : Option SameStart) (c : Cmd) (u w : State) (bit : Nat) (v : Option Nat), Starts s t
      0x42 c u ∧ w = u.dcLost t (c.p 0) same ∧ suspendHold c.who (w.dcOwner (c.p 0)) = (bit, v) ∧ w.dcSt (c.p 0) ≠ dcIDLE
      ∧ w.dcSt (c.p 0) ≠ dcSTOPPED ∧ w.dcSt (c.p 0) ≠ dcSUSPENDED) ∧
    (∃ (u : State) (n : Nat) (w : Tag) (d : Cmd), u.cmd w = some d ∧ d.entry.op.toNat ∈ dcStarts ∧ d.p 0 = n ∧ u.mayRun d
      = true ∧ u.cmdCheck d.ring d.entry = none) ∧
    (∃ s t c u, Starts s t 0x43 c u ∧ u.on (BMV_DCCFG_EN (c.p 0)) = true ∧ u.on BMV_STAT_ESTOP = false ∧ u.on
      (BMV_DCSTAT_CRQ_FAIL (c.p 0)) = false ∧ u.dcSt (c.p 0) = dcTAIL) ∧
    (∃ s t c u, Starts s t 0x43 c u ∧ u.on (BMV_DCCFG_EN (c.p 0)) = true ∧ u.on BMV_STAT_ESTOP = false ∧ u.on
      (BMV_DCSTAT_CRQ_FAIL (c.p 0)) = false ∧ u.dcSt (c.p 0) = dcSTOPPED) ∧
    (∃ s t c u, Starts s t 0x44 c u) ∧
    (∃ (s : State) (t : Tag) (c : Cmd) (u : State) (l : List Nat) (v : State), Starts s t 0x45 c u ∧ l = ((upTo
      16).filter fun n => bitOf (c.p 0) n && u.dcSt n == dcSTOPPED && (u.chan n).estop) ∧ v = l.foldl (fun w n =>
      (w.modChan n fun c => { c with desc := none, tail := none, estop := false }).dcGo n) ((u.put BMV_STAT_ESTOP 0).log
      0x9005 0xFF [some (c.p 0)])) :=
  ⟨⟨(State.ready (sets live [(BMV_DCCFG_EN 15, 1), (BMV_DCCFG_OWNER 15, 16)]) .sub 0x40 [15, 0, 0, 0, 0, 4]), 0, _, _,
      (starts_of (by decide)), by decide, by decide, by decide, by decide⟩,
    ⟨(State.ready live .sub 0x40 [15, 0, 0, 0, 0, 4]), 0, _, _, (starts_of (by decide)), by decide⟩,
    ⟨(State.ready (sets live [(BMV_DCCFG_EN 15, 1), (BMV_DCCFG_OWNER 15, 16)]) .sub 0x41 [15]), 0, none, _, _, _,
      (starts_of (by decide)), rfl, by decide⟩,
    ⟨(State.ready (sets live [(BMV_DCCFG_EN 15, 1), (BMV_DCCFG_OWNER 15, 16), (BMV_DCSTAT_STATE 15, dcACTIVE)]) .sub 0x41
      [15]), 0, none, _, _, _, (starts_of (by decide)), rfl, by decide⟩,
    ⟨(State.ready (sets live [(BMV_DCCFG_EN 15, 1), (BMV_DCCFG_OWNER 15, 16), (BMV_DCSTAT_STATE 15, dcACTIVE)]) .sub 0x42
      [15]), 0, none, _, _, _, _, _, (starts_of (by decide)), rfl, rfl, by decide, by decide, by decide⟩,
    ⟨(State.ready (sets live [(BMV_DCCFG_EN 15, 1), (BMV_DCCFG_OWNER 15, 16)]) .sub 0x40 [15, 0, 0, 0, 0, 4]), 15, 0, _,
      rfl, by decide, by decide, by decide, by decide⟩,
    ⟨(State.ready (sets live [(BMV_DCCFG_EN 15, 1), (BMV_DCCFG_OWNER 15, 16), (BMV_DCSTAT_STATE 15, dcTAIL)]) .sub 0x43
      [15]), 0, _, _, (starts_of (by decide)), by decide, by decide, by decide, by decide⟩,
    ⟨(State.ready (sets live [(BMV_DCCFG_EN 15, 1), (BMV_DCCFG_OWNER 15, 16), (BMV_DCSTAT_STATE 15, dcSTOPPED)]) .sub
      0x43 [15]), 0, _, _, (starts_of (by decide)), by decide, by decide, by decide, by decide⟩,
    ⟨(State.ready live .sub 0x44 [15]), 0, _, _, (starts_of (by decide))⟩,
    ⟨(State.ready live .adm 0x45 [65535]), 0, _, _, _, _, (starts_of (by decide)), rfl, rfl⟩⟩

/-- States and operands that meet the hypotheses of CardCommandsComplete. -/
theorem witness_CardCommandsComplete :
    (∃ (s : State) (t : Tag) (c : Cmd) (u v : State) (h : Nat), Starts s t 0x50 c u ∧ u.on (CRD_PCFG0_EN (c.p 0)) = true
      ∧ u.cdUp (c.p 0) = true ∧ u.hasSession (c.p 0) c.who = false ∧ c.who = none ∧ u.sessMake (c.p 0) 0 none = (v, h)) ∧
    (∃ (s : State) (t : Tag) (c : Cmd) (u : State) (w : Fin 16), Starts s t 0x50 c u ∧ u.on (CRD_PCFG0_EN (c.p 0)) = true
      ∧ u.cdUp (c.p 0) = true ∧ u.hasSession (c.p 0) c.who = false ∧ c.who = some w ∧ (u.crd.sess.countP fun x => x.port
      == c.p 0 && x.chan != 0) + 1 < (u.card (c.p 0)).chans) ∧
    (∃ (s : State) (t : Tag) (c : Cmd) (u : State) (x : Sess), Starts s t 0x51 c u ∧ u.sessOf (c.p 0) = some x) ∧
    (∃ (s : State) (t : Tag) (data : List Byte) (c : Cmd) (u : State) (x : Sess) (a : List Byte), Starts s t 0x52 c u ∧
      u.sessOf (c.p 0) = some x ∧ x.expired = false ∧ u.apduOut x = false ∧ u.quieted c.who = false ∧ (u.hostRd c.who
      c.entry.buf.toNat (c.p 1)).apduFor x (fitTo (c.p 1) data) = .ok a) ∧
    (∃ (s : State) (t : Tag) (c : Cmd) (u : State) (x : Sess), Starts s t 0x53 c u ∧ u.sessOf (c.p 0) = some x ∧ c.p 1 =
      1 ∧ (u.on (sessExcl x.port) && u.get (sessExHandle x.port) == x.handle) = false ∧ ((u.card x.port).exclQ.any fun y
      => y.1 == x.handle) = false) ∧
    (∃ (s : State) (t : Tag) (c : Cmd) (u : State) (x : Sess), Starts s t 0x53 c u ∧ u.sessOf (c.p 0) = some x ∧ c.p 1 ≠
      1 ∧ x.expired = false ∧ u.on (sessExcl x.port) = true ∧ u.get (sessExHandle x.port) = x.handle) ∧
    (∃ s t c u, Starts s t 0x54 c u ∧ u.on (CRD_PCFG0_EN (c.p 0)) = true ∧ u.on (CRD_PSTAT_PRESENT (c.p 0)) = true ∧
      u.cdUp (c.p 0) = false ∧ (u.modCard (c.p 0) fun x => { x with waits := x.waits ++ [t] }).cdSt (c.p 0) ≠
      cdACTIVATING) ∧
    (∃ s t c u, Starts s t 0x55 c u ∧ u.cdSt (c.p 0) ≠ cdACTIVATING ∧ u.cdUp (c.p 0) = true ∧ (u.card (c.p 0)).exch =
      none ∧ (u.card (c.p 0)).ph = .run) ∧
    (∃ s t c u, Starts s t 0x56 c u ∧ u.on (CRD_PSTAT_PRESENT (c.p 0)) = true) ∧
    (∃ s t c u, Starts s t 0x56 c u ∧ u.on (CRD_PSTAT_PRESENT (c.p 0)) = false) ∧
    (∃ (s : State) (t : Tag) (res : BitVec 9) (c : Cmd) (u : State) (r : Nat), Starts s t 0x57 c u ∧ (u.crd.sess.any fun
      x => x.port == c.p 0) = false ∧ u.cdSt (c.p 0) = cdINACTIVE ∧ r = res.toNat &&& (0x110 + u.get (CRD_PCFG0_CLASSMASK
      (c.p 0)))) :=
  ⟨⟨(State.ready (card0) .sub 0x50 [0]), 0, _, _, _, _, (starts_of (by decide)), by decide, by decide, by decide,
      by decide, rfl⟩,
    ⟨(State.ready (card0) (.vi 0) 0x50 [0]), 0, _, _, 0, (starts_of (by decide)), by decide, by decide, by decide,
      by decide, by decide⟩,
    ⟨(State.ready (cardOpen) .sub 0x51 [5]), 0, _, _, ⟨5, 0, 0, none, false⟩, (starts_of (by decide)), by decide⟩,
    ⟨(State.ready (cardOpen) .sub 0x52 [5, 4] 8), 0, [0, 0xA4, 4, 0], _, _, ⟨5, 0, 0, none, false⟩, _, (starts_of
      (by decide)), by decide, by decide, by decide, by decide, rfl⟩,
    ⟨(State.ready (cardOpen) .sub 0x53 [5, 1, 1]), 0, _, _, ⟨5, 0, 0, none, false⟩, (starts_of (by decide)), by decide,
      by decide, by decide, by decide⟩,
    ⟨(State.ready (cardHeld) .sub 0x53 [5, 0, 0]), 0, _, _, ⟨5, 0, 0, none, false⟩, (starts_of (by decide)), by decide,
      by decide, by decide, by decide, by decide⟩,
    ⟨(State.ready (sets live [(CRD_PCFG0_EN 0, 1), (CRD_PSTAT_PRESENT 0, 1), (CRD_PSTAT_STATE 0, cdINACTIVE)]) .adm 0x54
      [0]), 0, _, _, (starts_of (by decide)), by decide, by decide, by decide, by decide⟩,
    ⟨(State.ready (card0) .adm 0x55 [0]), 0, _, _, (starts_of (by decide)), by decide, by decide, by decide, by decide⟩,
    ⟨(State.ready (card0) .sub 0x56 [0] 40), 0, _, _, (starts_of (by decide)), by decide⟩,
    ⟨(State.ready (card0) .sub 0x56 [1] 40), 0, _, _, (starts_of (by decide)), by decide⟩,
    ⟨(State.ready (sets live [(CRD_PCFG0_EN 0, 1), (CRD_PSTAT_PRESENT 0, 1), (CRD_PSTAT_STATE 0, cdINACTIVE)]) .adm 0x57
      [0]), 0, 0x1FF, _, _, _, (starts_of (by decide)), by decide, by decide, rfl⟩⟩

/-- States and operands that meet the hypotheses of SensorAndLampCommandsComplete. -/
theorem witness_SensorAndLampCommandsComplete :
    (∃ s t c u, Starts s t 0x60 c u ∧ u.on (LMP_CFG_EN (c.p 0)) = true ∧ c.p 1 ≤ u.get (LMP_LEVEL_LEVEL (c.p 0))) ∧
    (∃ s t c u, Starts s t 0x60 c u ∧ u.on (LMP_CFG_EN (c.p 0)) = true ∧ u.get (LMP_LEVEL_LEVEL (c.p 0)) < c.p 1 ∧
      (u.lamp (c.p 0)).waiting = false) ∧
    (∃ s t c u, Starts s t 0x61 c u ∧ u.on (LMP_CFG_EN (c.p 0)) = true) ∧
    (∃ s t c u, Starts s t 0x62 c u ∧ u.get (LMP_STAT_DIAG (c.p 0)) = diagUNVER) ∧
    (∃ s t c u, Starts s t 0x62 c u ∧ u.get (LMP_STAT_DIAG (c.p 0)) ≠ diagUNVER) ∧
    (∃ s t c u, Starts s t 0x70 c u) ∧
    (∃ s t c u, Starts s t 0x71 c u) ∧
    (∃ (s : State) (t : Tag) (c : Cmd) (u v : State), Starts s t 0x72 c u ∧ v = u.almClear (c.p 0 + 65536 * c.p 1)) ∧
    (∃ s t c u, Starts s t 0x73 c u) ∧
    (∃ s t c u, Starts s t 0x74 c u) ∧
    (∃ s t c u, Starts s t 0xF1 c u ∧ u.sup.calReq = none) ∧
    (∃ s t c u, Starts s t 0xF1 c u ∧ u.sup.calReq ≠ none) ∧
    (∃ s t c u, Starts s t 0x75 c u) :=
  ⟨⟨(State.ready (sets live [(LMP_CFG_EN 7, 1), (LMP_CFG_OWNER 7, 16), (LMP_LEVEL_LEVEL 7, 100)]) .sub 0x60 [7, 100]),
      0, _, _, (starts_of (by decide)), by decide, by decide⟩,
    ⟨(State.ready (sets live [(LMP_CFG_EN 7, 1), (LMP_CFG_OWNER 7, 16), (LMP_LEVEL_LEVEL 7, 100)]) .sub 0x60 [7, 4095]),
      0, _, _, (starts_of (by decide)), by decide, by decide, by decide⟩,
    ⟨(State.ready (sets live [(LMP_CFG_EN 7, 1), (LMP_CFG_OWNER 7, 16), (LMP_LEVEL_LEVEL 7, 100)]) .sub 0x61 [7, 4]), 0,
      _, _, (starts_of (by decide)), by decide⟩,
    ⟨(State.ready (sets live [(LMP_STAT_DIAG 7, diagUNVER)]) .sub 0x62 [7]), 0, _, _, (starts_of (by decide)), by decide⟩,
    ⟨(State.ready (sets live [(LMP_STAT_DIAG 7, diagOK)]) .sub 0x62 [7]), 0, _, _, (starts_of (by decide)), by decide⟩,
    ⟨(State.ready live .sub 0x70 [8]), 0, _, _, (starts_of (by decide))⟩,
    ⟨(State.ready live .sub 0x71 [7, 65535]), 0, _, _, (starts_of (by decide))⟩,
    ⟨(State.ready live .adm 0x72 [511, 511]), 0, _, _, _, (starts_of (by decide)), rfl⟩,
    ⟨(State.ready live .adm 0x73 []), 0, _, _, (starts_of (by decide))⟩,
    ⟨(State.ready live .sub 0x74 [6]), 0, _, _, (starts_of (by decide))⟩,
    ⟨(State.ready live .adm 0xF1 [1]), 0, _, _, (starts_of (by decide)), by decide⟩,
    ⟨(State.ready ({ live with sup := { live.sup with calReq := some (0, 3) } }) .adm 0xF1 [1]), 0, _, _, (starts_of
      (by decide)), by decide⟩,
    ⟨(State.ready live .sub 0x75 [] 40), 0, _, _, (starts_of (by decide))⟩⟩

/-- States and operands that meet the hypotheses of StoreAndFirmwareCommandsComplete. -/
theorem witness_StoreAndFirmwareCommandsComplete :
    (∃ (s : State) (t : Tag) (c : Cmd) (u : State) (x : Stream) (g : LogGot), Starts s t 0x80 c u ∧ x = u.st.stream
      (streamOf (c.p 0)) ∧ (∀ r, x.recs.head? = some r → seqOlder (c.p 1) r.seq = false) ∧ g = (x.recs.filter fun r =>
      seqIn (c.p 1) (c.p 2) r.seq).foldl (u.st.logTake (streamOf (c.p 0)) c.entry.len.toNat) ⟨[], 0, false, none⟩ ∧
      g.full = none ∧ g.skipped = false ∧ c.p 1 + c.p 2 ≤ x.next.toNat ∧ x.next.toNat < c.p 1 + 2 ^ 31) ∧
    (∃ s t c u, Starts s t 0x81 c u) ∧
    (∃ s t c u, Starts s t 0x90 c u ∧ u.slotRuns (c.p 0) = false ∧ c.count = 0) ∧
    (∃ s t c u, Starts s t 0x91 c u ∧ u.slotRuns (c.p 0) = false) ∧
    (∃ (s : State) (t : Tag) (b : List Byte) (c : Cmd) (u : State), Starts s t 0x92 c u ∧ u.claimSP0.serviceCode (imageOf
      b) = 0) ∧
    (∃ s t c u, Starts s t 0x92 c u) ∧
    (∃ s t c u, Starts s t 0x93 c u) ∧
    (∃ (s : State) (t : Tag) (c : Cmd) (u v : State), Starts s t 0x94 c u ∧ u.rst.downFor = none ∧ v = u.complete t 0x00
      0 0) ∧
    (∃ (s : State) (t : Tag) (c : Cmd) (u : State) (x : Image), Starts s t 0x95 c u ∧ u.snt.svc = some x ∧ u.snt.runPatch
      = none ∧ (u.rollRaise c.origin 0 (min 63 (leAt x.hdr 12 4))).snt.runPatch = none) ∧
    (∃ (s : State) (t : Tag) (img : List Byte) (c : Cmd) (u v : State), Starts s t 0x96 c u ∧ u.patchCode (imageOf img) =
      0 ∧ 256 + leAt (imageOf img).hdr 8 4 ≤ c.entry.len.toNat ∧ v = u.hostRd c.who c.entry.buf.toNat c.entry.len.toNat) :=
  ⟨⟨(State.ready live .adm 0x80 [1, 0, 0] 8), 0, _, _, _, _, (starts_of (by decide)), rfl, (fun r h => by cases (show
      (none : Option Rec) = some r from h)), rfl, by decide, by decide, by decide, by decide⟩,
    ⟨(State.ready live .adm 0x81 [2]), 0, _, _, (starts_of (by decide))⟩,
    ⟨(State.ready live .adm 0x90 [1, 0] 8), 0, _, _, (starts_of (by decide)), by decide, by decide⟩,
    ⟨(State.ready live .adm 0x91 [1]), 0, _, _, (starts_of (by decide)), by decide⟩,
    ⟨(State.ready (keyed live) .adm 0x92 [0]), 0, serviceImage, _, _, (starts_of (by decide)), by decide +kernel⟩,
    ⟨(State.ready live .adm 0x92 [0]), 0, _, _, (starts_of (by decide))⟩,
    ⟨(State.ready live .adm 0x93 [1]), 0, _, _, (starts_of (by decide))⟩,
    ⟨(State.ready live .adm 0x94 []), 0, _, _, _, (starts_of (by decide)), by decide, rfl⟩,
    ⟨(State.ready ({ live with snt := { live.snt with svc := some (imageOf serviceImage) } }) .adm 0x95 []), 0, _, _, _,
      (starts_of (by decide)), rfl, rfl, rfl⟩,
    ⟨(State.ready (keyed (sets live [(SNT_AUTHSTAT0_OPEN, 1)])) .adm 0x96 [] 256), 0, patchImage, _, _, _, (starts_of
      (by decide +kernel)), (by decide +kernel), (by decide +kernel), rfl⟩⟩

/-- States and operands that meet the hypotheses of TrustCommandsComplete. -/
theorem witness_TrustCommandsComplete :
    (∃ s t c u, Starts s t 0xA0 c u ∧ (u.on SNT_AUTHSTAT0_LOCKED = true ∨ u.on RST_VAULTSTAT0_TAMPER = true)) ∧
    (∃ s t c u, Starts s t 0xA0 c u ∧ u.on SNT_AUTHSTAT0_LOCKED = false ∧ u.on RST_VAULTSTAT0_TAMPER = false ∧ u.on
      SNT_AUTHSTAT0_OPEN = false ∧ u.snt.nonce = none) ∧
    (∃ s t c u, Starts s t 0xA1 c u ∧ u.on SNT_AUTHSTAT0_OPEN = true) ∧
    (∃ s t c u, Starts s t 0xA1 c u ∧ u.on SNT_AUTHSTAT0_OPEN = false) ∧
    (∃ s t c u, Starts s t 0xA2 c u) ∧
    (∃ s t c u, Starts s t 0xA3 c u) ∧
    (∃ s t c u, Starts s t 0xA4 c u) ∧
    (∃ s t c u, Starts s t 0xA5 c u) :=
  ⟨⟨(State.ready (sets live [(SNT_AUTHSTAT0_LOCKED, 1)]) .adm 0xA0 [0]), 0, _, _, (starts_of (by decide)), by decide⟩,
    ⟨(State.ready live .adm 0xA0 [3]), 0, _, _, (starts_of (by decide)), by decide, by decide, by decide, by decide⟩,
    ⟨(State.ready (sets live [(SNT_AUTHSTAT0_OPEN, 1)]) .adm 0xA1 []), 0, _, _, (starts_of (by decide)), by decide⟩,
    ⟨(State.ready live .adm 0xA1 []), 0, _, _, (starts_of (by decide)), by decide⟩,
    ⟨(State.ready live .adm 0xA2 []), 0, _, _, (starts_of (by decide))⟩,
    ⟨(State.ready live .adm 0xA3 [3] 64), 0, _, _, (starts_of (by decide))⟩,
    ⟨(State.ready (sets live [(SNT_AUTHSTAT0_OPEN, 1)]) .adm 0xA4 [3]), 0, _, _, (starts_of (by decide))⟩,
    ⟨(State.ready live .sub 0xA5 [5] 48), 0, _, _, (starts_of (by decide))⟩⟩

/-- States and operands that meet the hypotheses of TimebaseCommandsComplete. -/
theorem witness_TimebaseCommandsComplete :
    (∃ (s : State) (n : Nat) (u : State), s.on FRM_STATUS_XTAL_FAIL = false ∧ s.asleep = false ∧ s.rst.vault = false ∧
      s.rst.low = false ∧ s.slot = true ∧ -32768 ≤ (n : Int) - 512000 ∧ (n : Int) - 512000 < 32768 ∧ -1 ≤ s.winRest n ∧
      s.winRest n ≤ 1 ∧ u = (s.put FRM_TRIM_STEP (trimNext (s.get FRM_TRIM_STEP) ((n : Int) - 512000))).putS FRM_TRIM_ERR
      ((n : Int) - 512000)) ∧
    (∃ (s : State), s.on FRM_STATUS_XTAL_FAIL = false) ∧
    (∃ (s : State), s.on FRM_STATUS_XTAL_FAIL = true) ∧
    (∃ (s : State) (ts : Nat), s.tb.wrapFrom = some ts) ∧
    (∃ (s : State), regsWf s = true) :=
  ⟨⟨{ State.reset with tb := { State.reset.tb with win := 500 } }, 512501, _, by decide, by decide, by decide,
      by decide, by decide, by decide, by decide, by decide, by decide, rfl⟩,
    ⟨State.reset, by decide⟩,
    ⟨(sets State.reset [(FRM_STATUS_XTAL_FAIL, 1)]), by decide⟩,
    ⟨{ State.reset with tb := { State.reset.tb with wrapFrom := some 3 } }, 3, by decide⟩,
    ⟨State.reset, by decide⟩⟩

/-- States and operands that meet the hypotheses of SequenceCommandsComplete. -/
theorem witness_SequenceCommandsComplete :
    (∃ (s : State), s.phase 4 = true ∧ s.startReady = true) ∧
    (∃ (s : State), s.phase 4 = true) ∧
    (∃ (s v : State), s.phase 4 = true ∧ (∃ n < 24, s.riseFailed n = true ∧ s.tolerant n = false) ∧ v = s.forRails (fun n
      t => if s.riseFailed n then t.riseFail n else t)) ∧
    (∃ (s v : State), s.phase 4 = true ∧ (∃ n < 24, s.riseFailed n = true) ∧ (∀ n < 24, s.riseFailed n = true →
      s.tolerant n = true) ∧ v = s.forRails (fun n t => if s.riseFailed n then t.riseFail n else t)) ∧
    (∃ (s v : State), s.phase 4 = true ∧ s.get PSQ_SEQSTAT_STATE = seqCOOL ∧ s.due s.seq.coolEnd = true ∧ v = (s.put
      PSQ_SEQSTAT_RETRY (s.get PSQ_SEQSTAT_RETRY + 1)).put PSQ_SEQSTAT_STATE seqUP) ∧
    (∃ (s : State), s.phase 4 = true) ∧
    (∃ (s : State), s.phase 3 = true ∧ (∃ n < 24, s.fallLate n = true)) :=
  ⟨⟨(sets State.reset [(SUP_BUSSTAT_PRESENT, 1), (SUP_HSSTAT_STATE, hsON), (PSQ_SEQCFG_AUTO_ON, 1)]), by decide,
      by decide⟩,
    ⟨State.reset, by decide⟩,
    ⟨(sets State.reset [(PSQ_RAILCFG_USE 23, 1), (PSQ_RAILCFG_POLICY 23, 0), (PSQ_RAILSTAT_STATE 23, rlRISING)]), _,
      by decide, (⟨23, by decide, by decide, by decide⟩), rfl⟩,
    ⟨(sets State.reset [(PSQ_RAILCFG_USE 23, 1), (PSQ_RAILCFG_POLICY 23, 1), (PSQ_RAILSTAT_STATE 23, rlRISING)]), _,
      by decide, (⟨23, by decide, by decide⟩), by decide, rfl⟩,
    ⟨(sets State.reset [(PSQ_SEQSTAT_STATE, seqCOOL)]), _, by decide, by decide, by decide, rfl⟩,
    ⟨State.reset, by decide⟩,
    ⟨(sets State.reset [(PSQ_RAILCFG_USE 23, 1), (PSQ_RAILCFG_POLICY 23, 0), (PSQ_RAILSTAT_STATE 23, rlFALLING)]),
      by decide, (⟨23, by decide, by decide⟩)⟩⟩

/-- States and operands that meet the hypotheses of SwarmLineCommandsComplete. -/
theorem witness_SwarmLineCommandsComplete :
    (∃ (s u : State), s.swCounts = true ∧ s.get PSQ_SWSTAT_STATE = 255 ∧ u =
      { s with sw := { s.sw with holdFrom := some (s.tb.ticks + 1), stuckDone := false } }) ∧
    (∃ (s : State) (k : Nat) (u : State), s.swCounts = true ∧ s.get PSQ_SWSTAT_STATE = k ∧ k ≠ 255 ∧ u =
      { s with sw := { s.sw with holdFrom := some (s.tb.ticks + 1), stuckDone := false } }) ∧
    (∃ (s : State), s.sw.missDue = true ∧ s.swCounts = true ∧ s.on SUP_BUSSTAT_PRESENT = true ∧ s.get SUP_HSSTAT_STATE =
      hsON ∧ s.on SUP_BUSSTAT_LOST = false ∧ ¬ (s.get PSQ_SEQSTAT_STATE = seqDOWN ∧ s.get PSQ_SEQSTAT_CAUSE = 5)) ∧
    (∃ (s u : State), s.swRole = true ∧ u = ({ s with sw := { s.sw with receiving := false } } : State).put
      PSQ_SWSTAT_STATE 0 ∧ s.sw.fellBack = false ∧ (∀ e, s.sw.pulse ≠ some (.resync, e))) ∧
    (∃ (s u : State) (e : Nat), s.swRole = true ∧ u = ({ s with sw := { s.sw with receiving := false } } : State).put
      PSQ_SWSTAT_STATE 0 ∧ s.sw.fellBack = false ∧ s.sw.pulse = some (.resync, e)) ∧
    (∃ (s u : State), s.swRole = true ∧ u = ({ s with sw := { s.sw with receiving := false } } : State).put
      PSQ_SWSTAT_STATE 0 ∧ s.sw.fellBack = true ∧ u.on PSQ_SWCFG_REJOIN = true) ∧
    (∃ (s u : State), s.swRole = true ∧ u = ({ s with sw := { s.sw with receiving := false } } : State).put
      PSQ_SWSTAT_STATE 0 ∧ s.sw.fellBack = true ∧ u.on PSQ_SWCFG_REJOIN = false) ∧
    (∃ (s : State), s.swRole = true) ∧
    (∃ (s : State), s.swRole = true) ∧
    (∃ (s u : State), s.swRole = true ∧ s.swLeader = false ∧ s.sw.fellBack = false ∧ s.on PSQ_SWSTAT_JOINED = true ∧ u =
      { s with sw := { s.sw with receiving := false, lastBeacon := s.tb.ticks, noBeaconDone := false } }) ∧
    (∃ (s u : State), s.swRole = true ∧ s.swLeader = false ∧ s.sw.fellBack = false ∧ s.on PSQ_SWSTAT_JOINED = false ∧ u =
      { s with sw := { s.sw with receiving := false, lastBeacon := s.tb.ticks, noBeaconDone := false } }) ∧
    (∃ (s : State), s.swRole = true ∧ s.swLeader = true) ∧
    (∃ (s : State), s.swRole = true ∧ s.swLeader = false ∧ s.on PSQ_SWSTAT_JOINED = false ∧ s.sw.fellBack = false ∧
      s.beaconLate = true) ∧
    (∃ (s : State), s.swRole = true ∧ s.on PSQ_SWSTAT_JOINED = true ∧ s.sw.noBeaconDone = false ∧ s.beaconLate = true) ∧
    (∃ (s : State), s.sw.claimed = true ∧ s.phase 4 = true ∧ s.due s.sw.claimTick = true ∧ s.swSettled = true) :=
  ⟨⟨(sets State.reset [(PSQ_SWCFG_ROLE, 1), (PSQ_SWSTAT_JOINED, 1), (PSQ_SWSTAT_STATE, 255)]), _, by decide, by decide,
      rfl⟩,
    ⟨(sets State.reset [(PSQ_SWCFG_ROLE, 1), (PSQ_SWSTAT_JOINED, 1), (PSQ_SWSTAT_STATE, 254)]), 254, _, by decide,
      by decide, by decide, rfl⟩,
    ⟨(sets { State.reset with sw := { State.reset.sw with missDue := true } } [(PSQ_SWCFG_ROLE, 1), (PSQ_SWSTAT_JOINED,
      1), (SUP_BUSSTAT_PRESENT, 1), (SUP_HSSTAT_STATE, hsON)]), by decide, by decide, by decide, by decide, by decide,
      by decide⟩,
    ⟨(sets State.reset [(PSQ_SWCFG_ROLE, 1), (PSQ_SWSTAT_JOINED, 1)]), _, by decide, rfl, by decide, (fun e h => by cases
      (show (none : Option (Pulse × Nat)) = some (.resync, e) from h))⟩,
    ⟨(sets { State.reset with sw := { State.reset.sw with pulse := some (.resync, 4) } } [(PSQ_SWCFG_ROLE, 1),
      (PSQ_SWSTAT_JOINED, 0)]), _, 4, by decide, rfl, by decide, by decide⟩,
    ⟨(sets { State.reset with sw := { State.reset.sw with fellBack := true } } [(PSQ_SWCFG_ROLE, 1), (PSQ_SWCFG_REJOIN,
      1)]), _, by decide, rfl, by decide, by decide⟩,
    ⟨(sets { State.reset with sw := { State.reset.sw with fellBack := true } } [(PSQ_SWCFG_ROLE, 1), (PSQ_SWCFG_REJOIN,
      0)]), _, by decide, rfl, by decide, by decide⟩,
    ⟨(sets State.reset [(PSQ_SWCFG_ROLE, 1), (PSQ_SWSTAT_JOINED, 1)]), by decide⟩,
    ⟨(sets State.reset [(PSQ_SWCFG_ROLE, 1), (PSQ_SWSTAT_JOINED, 1)]), by decide⟩,
    ⟨(sets State.reset [(PSQ_SWCFG_ROLE, 1), (PSQ_SWSTAT_JOINED, 1)]), _, by decide, by decide, by decide, by decide,
      rfl⟩,
    ⟨(sets State.reset [(PSQ_SWCFG_ROLE, 1), (PSQ_SWSTAT_JOINED, 0)]), _, by decide, by decide, by decide, by decide,
      rfl⟩,
    ⟨(sets State.reset [(PSQ_SWCFG_ROLE, roleLEADER)]), by decide, by decide⟩,
    ⟨(sets { State.reset with tb := { State.reset.tb with ticks := 1000000 } } [(PSQ_SWCFG_ROLE, 1), (PSQ_SWSTAT_JOINED,
      0)]), by decide, by decide, by decide, by decide, by decide⟩,
    ⟨(sets { State.reset with tb := { State.reset.tb with ticks := 1000000 } } [(PSQ_SWCFG_ROLE, 1), (PSQ_SWSTAT_JOINED,
      1)]), by decide, by decide, by decide, by decide⟩,
    ⟨(sets { State.reset with sw := { State.reset.sw with claimed := true } } [(PSQ_SWCFG_ROLE, 1), (PSQ_SWSTAT_JOINED,
      1)]), by decide, by decide, by decide, by decide⟩⟩

/-- States and operands that meet the hypotheses of SwarmLeaderCommandsComplete. -/
theorem witness_SwarmLeaderCommandsComplete :
    (∃ (s : State), s.swPaces = true ∧ s.swHigh8 = true ∧ s.get PSQ_SWSTAT_STATE < s.get PSQ_SWTARGET_STATE) ∧
    (∃ (s : State), s.swLeader = true ∧ s.on PSQ_SWSTAT_LEADER_CONFLICT = false ∧ s.sw.resyncReq = true ∧ s.sw.pulse =
      none ∧ s.swHigh8 = true) ∧
    (∃ (s : State), s.swPaces = true ∧ s.swHigh8 = true ∧ s.due s.sw.beaconAt = true) ∧
    (∃ (s u : State) (t : Nat), s.swLeader = true ∧ s.sw.high = false ∧ s.sw.stuckDone = false ∧ s.sw.holdFrom = some t ∧
      s.due (t + s.get PSQ_SWHOLDMAX_FRAMES + 1) = true ∧ u = { s with sw := { s.sw with stuckDone := true } }) :=
  ⟨⟨(sets { State.reset with tb := { State.reset.tb with ticks := 1000000 } } [(PSQ_SWCFG_ROLE, roleLEADER),
      (PSQ_SWSTAT_JOINED, 1), (PSQ_SWTARGET_STATE, 1)]), by decide, by decide, by decide⟩,
    ⟨(sets { State.reset with tb := { State.reset.tb with ticks := 1000000 } } [(PSQ_SWCFG_ROLE, roleLEADER),
      (PSQ_SWSTAT_JOINED, 1)]), by decide, by decide, by decide, by decide, by decide⟩,
    ⟨(sets { State.reset with tb := { State.reset.tb with ticks := 1000000 } } [(PSQ_SWCFG_ROLE, roleLEADER),
      (PSQ_SWSTAT_JOINED, 1)]), by decide, by decide, by decide⟩,
    ⟨(sets
      { State.reset with tb := { State.reset.tb with ticks := 1000000 }, sw := { State.reset.sw with high := false, holdFrom := some 7 } }
      [(PSQ_SWCFG_ROLE, roleLEADER)]), _, 7, by decide, by decide, by decide, by decide, by decide, rfl⟩⟩

/-- States and operands that meet the hypotheses of SupervisionCommandsComplete. -/
theorem witness_SupervisionCommandsComplete :
    (∃ (s : State) (n : Fin 24) (x : RailCross), s.watched n x = true ∧ s.pins.held = false ∧ armed (s.railSt n) x =
      true) ∧
    (∃ (s : State) (e : Nat), s.sup.leadEnd = some e ∧ s.due e = true ∧ s.phase 3 = true ∧ s.stoppable = true) ∧
    (∃ (s : State), 8 ≤ s.sup.presRun ∧ s.rst.low = false ∧ s.rst.vault = false ∧ s.on SUP_BUSSTAT_PRESENT = false ∧
      s.busbarPresent.rst.cocStop = false) ∧
    (∃ (s : State), s.on SUP_BUSSTAT_PRESENT = true ∧ 8 ≤ s.sup.absRun) ∧
    (∃ (s : State), s.on SUP_BUSSTAT_SHELF_FAIL = false ∧ 2 ≤ s.sup.failRun) ∧
    (∃ (s : State), s.on SUP_BUSSTAT_RT = true ∧ s.get SUP_HSSTAT_STATE = hsON ∧ 8 ≤ s.sup.onRun ∧ s.on
      SUP_BUSSTAT_SHELF_WARN = false) ∧
    (∃ (s : State), s.phase 3 = true ∧ s.sup.busVs < s.sup.cocVs ∧ s.on SUP_BUSSTAT_ON_COCOON = false ∧ s.rst.low = false
      ∧ s.rst.vault = false) ∧
    (∃ (s : State) (mv : Nat) (u : State), (s.on SUP_BUSSTAT_ON_COCOON = true ∨ s.sup.busVs < s.sup.cocVs) ∧ mv < s.get
      SUP_COCCFG_COLLAPSE ∧ s.st.collapsed = false ∧ u = (if s.canWrite then s.cutWrite else s)) ∧
    (∃ (s : State) (mv : Nat), 2000000000 * s.get SUP_COCCFG_CAP ≤ s.get SUP_COCCAP_UF * mv * mv ∧ s.sup.ovHold = true) :=
  ⟨⟨(sets State.reset [(PSQ_RAILCFG_USE 23, 1), (PSQ_RAILSTAT_STATE 23, rlON)]), 23, .uv, by decide, by decide,
      by decide⟩,
    ⟨(sets { State.reset with sup := { State.reset.sup with leadEnd := some 0 } } [(PSQ_SEQSTAT_STATE, seqON)]), 0,
      by decide, by decide, by decide, by decide⟩,
    ⟨{ State.reset with sup := { State.reset.sup with presRun := 8 } }, by decide, by decide, by decide, by decide,
      by decide⟩,
    ⟨(sets { State.reset with sup := { State.reset.sup with absRun := 8 } } [(SUP_BUSSTAT_PRESENT, 1)]), by decide,
      by decide⟩,
    ⟨{ State.reset with sup := { State.reset.sup with failRun := 2 } }, by decide, by decide⟩,
    ⟨(sets { State.reset with sup := { State.reset.sup with onRun := 8 } } [(SUP_BUSSTAT_RT, 1), (SUP_HSSTAT_STATE,
      hsON)]), by decide, by decide, by decide, by decide⟩,
    ⟨{ State.reset with sup := { State.reset.sup with cocVs := 1 } }, by decide, by decide, by decide, by decide,
      by decide⟩,
    ⟨(sets { State.reset with sup := { State.reset.sup with cocVs := 1 } } [(SUP_COCCFG_COLLAPSE, 100)]), 99, _,
      by decide, by decide, by decide, rfl⟩,
    ⟨{ State.reset with sup := { State.reset.sup with ovHold := true } }, 10000000, by decide, by decide⟩⟩

/-- States and operands that meet the hypotheses of FrontEndCommandsComplete. -/
theorem witness_FrontEndCommandsComplete :
    (∃ (s : State), s.phase 4 = true ∧ s.chargeReady = true) ∧
    (∃ (s : State), s.get SUP_HSSTAT_STATE = hsCHARGING ∧ 8 ≤ s.sup.gateRun ∧ s.sup.busVs ≤ s.sup.bulkVs + 500) ∧
    (∃ (s : State), s.get SUP_HSSTAT_STATE = hsCHARGING ∧ s.due s.sup.chgEnd = true) ∧
    (∃ (s : State), s.get SUP_HSSTAT_STATE = hsON ∧ s.get SUP_HSCFG0_ILIM_T ≤ s.sup.limRun) ∧
    (∃ (s : State) (uv : Nat), s.conducts = true ∧ 2 * s.get SUP_HSILIM_LIMIT * 100 * s.get SUP_HSSHUNT_UOHM ≤ uv * 1000) ∧
    (∃ (s : State) (l : List Fast) (u : State) (e : Int) (v : State), u = s.fastRun l ∧ u.sup.fast.soaHit = some e ∧
      u.conducts = true ∧ u.get SUP_HSSTAT_STATE ≠ hsON ∧ v =
      { u with sup := { u.sup with fast := { u.sup.fast with soaHit := none } } }) ∧
    (∃ (s : State) (uv : Nat), s.conducts = true ∧ s.get SUP_HSSTAT_STATE = hsON ∧ s.get SUP_HSCFG1_REV * 100 * s.get
      SUP_HSSHUNT_UOHM < uv * 1000) ∧
    (∃ (s : State) (uv : Nat), s.conducts = true ∧ s.get SUP_HSSTAT_STATE ≠ hsON ∧ s.get SUP_HSCFG1_REV * 100 * s.get
      SUP_HSSHUNT_UOHM < uv * 1000) ∧
    (∃ (s : State) (l : List Fast) (u : State) (e : Int) (v : State), u = s.fastRun l ∧ u.sup.fast.ilkHit = some e ∧
      u.conducts = true ∧ v = { u with sup := { u.sup with fast := { u.sup.fast with ilkHit := none } } }) ∧
    (∃ (s : State), s.phase 4 = true ∧ s.dischargeDue = true) ∧
    (∃ (s u : State), s.on SUP_DISSTAT_RUNNING = true ∧ s.due (s.sup.disFrom + s.get SUP_DISTIME_FRAMES) = true ∧
      s.sup.disOk = false ∧ u = ((((s.put SUP_DISSTAT_RUNNING 0).put SUP_DISSTAT_ELAPSED (satTo 16 (s.tb.ticks -
      s.sup.disFrom))).put SUP_DISSTAT_FAIL 1).log 0x300C 0 []).snapAsk 5 0x300C 0) ∧
    (∃ (s : State), s.on SUP_DISSTAT_RUNNING = true ∧ s.due (s.sup.disFrom + s.get SUP_DISTIME_FRAMES) = true ∧
      s.sup.disOk = true) :=
  ⟨⟨(sets { State.reset with sup := { State.reset.sup with busVs := 500 } } [(SUP_HSSTAT_STATE, hsBLOCKED)]), by decide,
      by decide⟩,
    ⟨(sets { State.reset with sup := { State.reset.sup with gateRun := 8, busVs := 500 } } [(SUP_HSSTAT_STATE,
      hsCHARGING)]), by decide, by decide, by decide⟩,
    ⟨(sets State.reset [(SUP_HSSTAT_STATE, hsCHARGING)]), by decide, by decide⟩,
    ⟨(sets { State.reset with sup := { State.reset.sup with limRun := 100000 } } [(SUP_HSSTAT_STATE, hsON)]), by decide,
      by decide⟩,
    ⟨(sets State.reset [(SUP_HSSTAT_STATE, hsON)]), 1000000, by decide, by decide⟩,
    ⟨(sets State.reset [(SUP_HSSTAT_STATE, hsCHARGING), (SUP_HSSOA_MJ, 0), (SUP_HSSHUNT_UOHM, 100)]), [⟨1023, 0, 511⟩],
      _, 522753, _, rfl, by decide, by decide, by decide, rfl⟩,
    ⟨(sets State.reset [(SUP_HSSTAT_STATE, hsON)]), 1000000, by decide, by decide, by decide⟩,
    ⟨(sets State.reset [(SUP_HSSTAT_STATE, hsCHARGING)]), 1000000, by decide, by decide, by decide⟩,
    ⟨(sets State.reset [(SUP_HSSTAT_STATE, hsON), (SUP_ILKCFG_LIMIT, 0), (SUP_HSSHUNT_UOHM, 100)]), [⟨1023, 1023, 511⟩],
      _, 522753, _, rfl, by decide, by decide, rfl⟩,
    ⟨State.reset, by decide, by decide⟩,
    ⟨(sets { State.reset with tb := { State.reset.tb with ticks := 1000000 } } [(SUP_DISSTAT_RUNNING, 1)]), _, by decide,
      by decide, by decide, rfl⟩,
    ⟨(sets
      { State.reset with tb := { State.reset.tb with ticks := 1000000 }, sup := { State.reset.sup with disOk := true } }
      [(SUP_DISSTAT_RUNNING, 1)]), by decide, by decide, by decide⟩⟩

/-- States and operands that meet the hypotheses of ThermalCommandsComplete. -/
theorem witness_ThermalCommandsComplete :
    (∃ (uv : Nat) (temp cal : Int), 150 ≤ uv ∧ uv ≤ 1100 ∧ (temp - cal).natAbs ≤ 320) ∧
    (∃ (s : State) (uv : Nat) (temp cal : Int) (u : State), 1100 < uv ∧ (temp - cal).natAbs ≤ 320 ∧ (s.on
      THM_DIODESTAT_OPEN = true ∨ s.on THM_DIODESTAT_SHORT = true ∨ s.on THM_DIODESTAT_RATIO = true) ∧ u = ((s.put
      THM_DIODESTAT_OPEN 1).hotNow 0).put (THM_SRCSTAT_DIODE 0) 1) ∧
    (∃ (s : State) (r : Fin 8), s.thm.staleRec.contains r.val = true) :=
  ⟨⟨1100, 320, 0, by decide, by decide, by decide⟩,
    ⟨(sets State.reset [(THM_DIODESTAT_OPEN, 1)]), 1101, 0, 0, _, by decide, by decide, by decide, rfl⟩,
    ⟨{ State.reset with thm := { State.reset.thm with staleRec := [7] } }, 7, by decide⟩⟩

/-- States and operands that meet the hypotheses of SentinelCommandsComplete. -/
theorem witness_SentinelCommandsComplete :
    (∃ (s : State), s.cmdRuns = true ∧ 8 ≤ s.snt.mbx.length) ∧
    (∃ (s : State) (t : Tag) (c : Cmd), s.cmdRuns = true ∧ s.snt.mbx.length < 8 ∧ s.cmd t = some c ∧ (s.snt.mbx.any fun m
      => quotes t m.req) = false ∧ c.st = .fetched) ∧
    (∃ (s : State) (t : Tag) (c : Cmd) (e : SqEntry), s.sentinelRuns = true ∧ s.slot = true ∧ s.rst.core = true ∧
      s.mbxPick = some (.cmd t e) ∧ s.cmd t = some c ∧ s.cmdCheck c.ring e = none) ∧
    (∃ (s : State) (t : Tag) (c : Cmd) (e : SqEntry) (st : Nat), s.sentinelRuns = true ∧ s.slot = true ∧ s.rst.core =
      true ∧ s.mbxPick = some (.cmd t e) ∧ s.cmd t = some c ∧ s.cmdCheck c.ring e = some st ∧ st ≠ 0x32 ∧ c.st = .asked) ∧
    (∃ (s : State) (v : Word), s.sentinelRuns = true ∧ s.slot = true ∧ s.rst.core = true ∧ s.mbxPick = some (.heartbeat
      v)) ∧
    (∃ (s : State) (v : Word) (u : State), v = s.reg 0x3820 + 1 ∧ u = s.setReg 0x3820 v) ∧
    (∃ (s : State) (v : Word), v ≠ s.reg 0x3820 + 1) ∧
    (∃ (s : State), s.cmdRuns = true ∧ s.snt.mbx.length < 8) ∧
    (∃ (s : State), s.cmdRuns = true ∧ 8 ≤ s.snt.mbx.length) ∧
    (∃ (s : State) (e : Nat), s.snt.hbEnd = some e ∧ s.due e = true ∧ s.cmdRuns = true ∧ s.rst.downFor = none) ∧
    (∃ (s : State), s.on GLB_STATUS_SVC_RUN = true ∧ s.due s.snt.hbClear = true ∧ s.get SNT_HBSTAT_RESTARTS ≠ 0) :=
  ⟨⟨{ live with snt := { live.snt with mbx := List.replicate 8 ⟨.heartbeat 0, true⟩ } }, by decide, by decide⟩,
    ⟨{ live with rng := { live.rng with cmds := [⟨0, .sub, .owner .hpa, entry 0x60 [0, 0] 0, .fetched, 0, false, false⟩] } },
      0, ⟨0, .sub, .owner .hpa, entry 0x60 [0, 0] 0, .fetched, 0, false, false⟩, by decide, by decide, by decide,
      by decide, by decide⟩,
    ⟨{ live with rng := { live.rng with cmds := [⟨0, .sub, .owner .hpa, entry 0x14 [] 0, .asked, 0, false, false⟩] }, snt := { live.snt with mbx := [⟨.cmd 0 (entry 0x14 [] 0), true⟩] } },
      0, ⟨0, .sub, .owner .hpa, entry 0x14 [] 0, .asked, 0, false, false⟩, entry 0x14 [] 0, by decide, by decide,
      by decide, by decide, by decide, by decide⟩,
    ⟨{ live with rng := { live.rng with cmds := [⟨0, .sub, .owner .hpa, entry 0x60 [0, 4096] 0, .asked, 0, false, false⟩] }, snt := { live.snt with mbx := [⟨.cmd 0 (entry 0x60 [0, 4096] 0), true⟩] } },
      0, ⟨0, .sub, .owner .hpa, entry 0x60 [0, 4096] 0, .asked, 0, false, false⟩, entry 0x60 [0, 4096] 0, 0x13,
      by decide, by decide, by decide, by decide, by decide, by decide, by decide, by decide⟩,
    ⟨{ live with snt := { live.snt with mbx := [⟨.heartbeat 1, true⟩] } }, 1, by decide, by decide, by decide, by decide⟩,
    ⟨live, _, _, rfl, rfl⟩,
    ⟨live, 0, by decide⟩,
    ⟨live, by decide, by decide⟩,
    ⟨{ live with snt := { live.snt with mbx := List.replicate 8 ⟨.heartbeat 0, true⟩ } }, by decide, by decide⟩,
    ⟨{ live with snt := { live.snt with hbEnd := some 0 } }, 0, by decide, by decide, by decide, by decide⟩,
    ⟨(sets live [(SNT_HBSTAT_RESTARTS, 1)]), by decide, by decide, by decide⟩⟩

/-- States and operands that meet the hypotheses of AuthorisationCommandsComplete. -/
theorem witness_AuthorisationCommandsComplete :
    (∃ (s : State) (x : List Byte) (a k e : Nat) (t : Tag), s.snt.sig = some x ∧ s.snt.nonce = some (a, k, e, t) ∧
      s.sentinelRuns = true ∧ s.slot = true ∧ s.on (SNT_SVCKEY_VALID k) = true ∧ s.due e = false) ∧
    (∃ (s : State) (x : List Byte) (a k e : Nat) (t : Tag), s.snt.sig = some x ∧ s.snt.nonce = some (a, k, e, t) ∧
      s.sentinelRuns = true ∧ s.slot = true ∧ s.on (SNT_SVCKEY_VALID k) = false) ∧
    (∃ (s : State) (a k e : Nat) (t : Tag), s.snt.nonce = some (a, k, e, t) ∧ s.due e = true ∧ s.snt.sig = none) ∧
    (∃ (s : State), s.on SNT_AUTHSTAT0_OPEN = true ∧ s.due s.snt.authEnd = true) ∧
    (∃ (s : State), s.on SNT_AUTHSTAT0_LOCKED = true ∧ s.due s.snt.lockEnd = true) :=
  ⟨⟨(sets { State.reset with snt := { State.reset.snt with sig := some [], nonce := some (0, 3, 5, 0) } }
      [(SNT_SVCKEY_VALID 3, 1)]), [], 0, 3, 5, 0, by decide, by decide, by decide, by decide, by decide, by decide⟩,
    ⟨{ State.reset with snt := { State.reset.snt with sig := some [], nonce := some (0, 3, 5, 0) } }, [], 0, 3, 5, 0,
      by decide, by decide, by decide, by decide, by decide⟩,
    ⟨{ State.reset with snt := { State.reset.snt with nonce := some (0, 3, 0, 0) } }, 0, 3, 0, 0, by decide, by decide,
      by decide⟩,
    ⟨(sets State.reset [(SNT_AUTHSTAT0_OPEN, 1)]), by decide, by decide⟩,
    ⟨(sets State.reset [(SNT_AUTHSTAT0_LOCKED, 1)]), by decide, by decide⟩⟩

/-- States and operands that meet the hypotheses of ChrysalisCommandsComplete. -/
theorem witness_ChrysalisCommandsComplete :
    (∃ (off : Nat), off < 0x100000) ∧
    (∃ (s : State) (who : Sender), s.reaches who = true) ∧
    (∃ (s : State) (who : Sender), s.reaches who = true ∧ senderWho who = none ∧ s.on CHR_CTL_COMMIT = false) ∧
    (∃ (s : State) (who : Sender), s.reaches who = true ∧ s.frozen (senderWho who) = false) ∧
    (∃ (s : State) (c : Commit) (u : State), s.mayTake = true ∧ s.commitPick = some c ∧ u =
      { s with chr := { s.chr with waiting := s.chr.waiting.erase c, lastTake := s.tb.ticks + 1 } } ∧ checkRules
      (c.own.isNone && (u.stage c.who).full) (u.commitSlots c) (u.propose (u.commitSlots c)) = none) ∧
    (∃ (s : State) (c : Commit) (u : State) (r : Nat × Nat), s.mayTake = true ∧ s.commitPick = some c ∧ u =
      { s with chr := { s.chr with waiting := s.chr.waiting.erase c, lastTake := s.tb.ticks + 1 } } ∧ checkRules
      (c.own.isNone && (u.stage c.who).full) (u.commitSlots c) (u.propose (u.commitSlots c)) = some r) ∧
    (∃ (s : State) (c : Commit), s.chr.taken = some c ∧ c.tick ≤ s.tb.ticks + 1) :=
  ⟨⟨0xFFFFF, by decide⟩,
    ⟨live, .owner .hpa, by decide⟩,
    ⟨live, .owner .hpa, by decide, by decide, by decide⟩,
    ⟨(sets live [(HST_VIBIND_EN 15, 1)]), .vi 15, by decide, by decide⟩,
    ⟨{ State.reset with st := { State.reset.st with jq := [] }, chr := { State.reset.chr with owner := ⟨[], false⟩, waiting := [⟨none, .owner .hpa, .reg, none, 0⟩] } },
      ⟨none, .owner .hpa, .reg, none, 0⟩, _, by decide, by decide, rfl, by decide +kernel⟩,
    ⟨{ State.reset with st := { State.reset.st with jq := [] }, chr := { State.reset.chr with owner := ⟨[], true⟩, waiting := [⟨none, .owner .hpa, .reg, none, 0⟩] } },
      ⟨none, .owner .hpa, .reg, none, 0⟩, _, _, by decide, by decide, rfl, rfl⟩,
    ⟨{ State.reset with chr := { State.reset.chr with taken := some ⟨none, .owner .hpa, .reg, none, 1⟩ } }, ⟨none, .owner
      .hpa, .reg, none, 1⟩, by decide, by decide⟩⟩

/-- States and operands that meet the hypotheses of StreamCommandsComplete. -/
theorem witness_StreamCommandsComplete :
    (∃ (s : State), s.canWrite = true) ∧
    (∃ (s : State), s.canWrite = true) ∧
    (∃ (s : State) (sn : Snap) (v : State) (q : Nat) (k : Bool), s.canWrite = true ∧ s.st.snap = some sn ∧ sn.tag = none
      ∧ (s.writeRec .snaps 1024 (readBack none) fun q => recHeader 3 0x20 1024 q sn.ts ++ sn.bytes) = (v, q, k)) ∧
    (∃ (s : State) (sn : Snap) (bits : BitVec 7) (v : State) (q : Nat) (k : Bool), s.canWrite = true ∧ s.st.snap = some
      sn ∧ (s.writeRec .snaps 1024 (readBack (some bits)) fun q => recHeader 3 0x20 1024 q sn.ts ++ sn.bytes) = (v, q,
      k)) ∧
    (∃ (v : Word), v.toNat % 128 ≤ 64) ∧
    (∃ (v : Word), 64 < v.toNat % 128) :=
  ⟨⟨State.reset, by decide⟩,
    ⟨State.reset, by decide⟩,
    ⟨{ State.reset with st := { State.reset.st with snap := some ⟨0, 0, 0, [], none⟩ } }, ⟨0, 0, 0, [], none⟩, _, _, _,
      by decide, by decide, by decide, rfl⟩,
    ⟨{ State.reset with st := { State.reset.st with snap := some ⟨0, 0, 0, [], none⟩ } }, ⟨0, 0, 0, [], none⟩, 5, _, _,
      _, by decide, by decide, rfl⟩,
    ⟨64, by decide⟩,
    ⟨65, by decide⟩⟩

/-- States and operands that meet the hypotheses of ManagementBusCommandsComplete, and of its two clauses on the log. -/
theorem witness_ManagementBusCommandsComplete :
    (∃ (s : State) (reply block : Nat → List Byte → State), s.smbRuns = true ∧
      (∀ cmd b, reply cmd b = s.emit (.smb (b ++ [BitVec.ofNat 8 (crc8 ([BitVec.ofNat 8 (2 * s.get HST_SMBCFG_ADDR),
        BitVec.ofNat 8 cmd, BitVec.ofNat 8 (2 * s.get HST_SMBCFG_ADDR + 1)] ++ b))]))) ∧
      (∀ cmd b, block cmd b = reply cmd (BitVec.ofNat 8 b.length :: b)) ∧ s.st.validRecs .log = []) ∧
    ∃ (s : State) (r : Rec), s.smbRuns = true ∧ (s.st.validRecs .log).getLast? = some r :=
  ⟨⟨State.reset, _, _, by decide, fun _ _ => rfl, fun _ _ => rfl, rfl⟩,
    ⟨{ State.reset with st := { State.reset.st with evq := [⟨0x20, 0x1001, 0, 0, 0, 0, 0, 0, 0, false⟩] } }.writeLog (readBack none),
      ⟨0, 0, 64⟩, by decide +kernel, by decide +kernel⟩⟩

/-- States and operands that meet the hypotheses of MctpCommandsComplete. -/
theorem witness_MctpCommandsComplete :
    (∃ (s : State) (eid : Byte), s.smbRuns = true ∧ s.on GLB_STATUS_AUTONOMOUS = false ∧ s.cmdRuns = true ∧ eid ≠ 0 ∧ eid
      ≠ 255) ∧
    (∃ (s : State) (eid : Byte), s.smbRuns = true ∧ s.on GLB_STATUS_AUTONOMOUS = false ∧ s.cmdRuns = true ∧ (eid = 0 ∨
      eid = 255)) ∧
    (∃ (s : State), s.smbRuns = true ∧ s.on GLB_STATUS_AUTONOMOUS = false ∧ s.cmdRuns = true) ∧
    (∃ (s : State) (ty : Byte), s.smbRuns = true ∧ s.on GLB_STATUS_AUTONOMOUS = false ∧ s.cmdRuns = true ∧ ty ≠ 0 ∧ ty ≠
      5 ∧ ty ≠ 255) ∧
    (∃ (s : State) (ty : Byte), s.smbRuns = true ∧ s.on GLB_STATUS_AUTONOMOUS = false ∧ s.cmdRuns = true ∧ (ty = 0 ∨ ty =
      5 ∨ ty = 255)) ∧
    (∃ (s : State), s.smbRuns = true ∧ s.on GLB_STATUS_AUTONOMOUS = false ∧ s.cmdRuns = true) :=
  ⟨⟨live, 0xFE, by decide, by decide, by decide, by decide, by decide⟩,
    ⟨live, 0xFF, by decide, by decide, by decide, by decide⟩,
    ⟨live, by decide, by decide, by decide⟩,
    ⟨live, 4, by decide, by decide, by decide, by decide, by decide, by decide⟩,
    ⟨live, 5, by decide, by decide, by decide, by decide⟩,
    ⟨live, by decide, by decide, by decide⟩⟩

/-- States and operands that meet the hypotheses of SpdmCommandsComplete. -/
theorem witness_SpdmCommandsComplete :
    (∃ (s : State) (c : Fin 3) (req : List Byte), c ≠ 2 ∧ s.spdmThere c = true ∧ s.on GLB_STATUS_SVC_RUN = true ∧
      req.length ≤ spdmMax c) ∧
    (∃ (s : State) (c : Fin 3) (req : List Byte), c ≠ 2 ∧ s.spdmThere c = true ∧ s.on GLB_STATUS_SVC_RUN = true ∧
      req.length ≤ spdmMax c) ∧
    (∃ (s : State) (c : Fin 3) (req : List Byte) (i : Instr), c ≠ 2 ∧ s.spdmThere c = true ∧ s.on GLB_STATUS_SVC_RUN =
      true ∧ req.length ≤ spdmMax c ∧ leAt req 0 1 ≠ 18 ∧ i ∈ [Instr.getCapabilities c req, Instr.negotiateAlgorithms c
      req, Instr.getDigests c req, Instr.getCertificate c req, Instr.challenge c req, Instr.getMeasurements c req]) ∧
    (∃ (s : State) (c : Fin 3) (req : List Byte), c ≠ 2 ∧ s.spdmThere c = true ∧ s.on GLB_STATUS_SVC_RUN = true ∧
      req.length ≤ spdmMax c ∧ leAt req 0 1 = 18 ∧ 1 ≤ s.get (spdmF c)) ∧
    (∃ (s : State) (c : Fin 3) (req : List Byte), c ≠ 2 ∧ s.spdmThere c = true ∧ s.on GLB_STATUS_SVC_RUN = true ∧
      req.length ≤ spdmMax c ∧ leAt req 0 1 = 18 ∧ 2 ≤ s.get (spdmF c) ∧ bitOf (leAt req 6 1) 0 = true ∧ bitOf (leAt req
      8 4) 7 = true ∧ bitOf (leAt req 12 4) 1 = true) ∧
    (∃ (s : State) (c : Fin 3) (req : List Byte), c ≠ 2 ∧ s.spdmThere c = true ∧ s.on GLB_STATUS_SVC_RUN = true ∧
      req.length ≤ spdmMax c ∧ leAt req 0 1 = 18 ∧ 3 ≤ s.get (spdmF c)) ∧
    (∃ (s : State) (c : Fin 3) (req b : List Byte), c ≠ 2 ∧ s.spdmThere c = true ∧ s.on GLB_STATUS_SVC_RUN = true ∧
      req.length ≤ spdmMax c ∧ leAt req 0 1 = 18 ∧ 3 ≤ s.get (spdmF c) ∧ leAt req 2 1 % 16 = 0 ∧ b = List.take (min (leAt
      req 6 2) (spdmMax c - 8)) (List.drop (leAt req 4 2) Config.certChain)) ∧
    (∃ (s : State) (c : Fin 3) (req : List Byte), c ≠ 2 ∧ s.spdmThere c = true ∧ s.on GLB_STATUS_SVC_RUN = true ∧
      req.length ≤ spdmMax c ∧ leAt req 0 1 = 18 ∧ 3 ≤ s.get (spdmF c) ∧ s.cmdRuns = true ∧ s.snt.mbx.length < 8 ∧ leAt
      req 2 1 % 16 = 0) ∧
    (∃ (s : State) (c : Fin 3) (req : List Byte), c ≠ 2 ∧ s.spdmThere c = true ∧ s.on GLB_STATUS_SVC_RUN = true ∧
      req.length ≤ spdmMax c ∧ leAt req 0 1 = 18 ∧ 3 ≤ s.get (spdmF c) ∧ s.cmdRuns = true ∧ s.snt.mbx.length < 8 ∧ (leAt
      req 3 1 ≤ 5 ∨ leAt req 3 1 = 255) ∧ bitOf (leAt req 2 1) 0 = true) ∧
    (∃ (s : State) (c : Fin 3) (req : List Byte) (u : State) (b : List Byte), c ≠ 2 ∧ s.spdmThere c = true ∧ s.on
      GLB_STATUS_SVC_RUN = true ∧ req.length ≤ spdmMax c ∧ leAt req 0 1 = 18 ∧ 3 ≤ s.get (spdmF c) ∧ (leAt req 3 1 ≤ 5 ∨
      leAt req 3 1 = 255) ∧ bitOf (leAt req 2 1) 0 = false ∧ s.measurements req = (u, b)) ∧
    (∃ (s : State) (c : Fin 3) (req q : List Byte) (u : State) (b : List Byte), c ≠ 2 ∧ s.spdmThere c = true ∧ s.on
      GLB_STATUS_SVC_RUN = true ∧ req.length ≤ spdmMax c ∧ s.sentinelRuns = true ∧ s.slot = true ∧ s.rst.core = true ∧
      s.mbxPick = some (MbxReq.sign c q) ∧ (if leAt q 1 1 = 131 then (s.mbxFree (MbxReq.sign c q)).challengeAuth q else
      (s.mbxFree (MbxReq.sign c q)).measurements q) = (u, b) ∧ (s.mbxFree (MbxReq.sign c q)).spdmThere c = true) :=
  ⟨⟨(sets live [(linkF .hpb, 2), (HST_SPDMSTAT_HPB, 2)]), 1, [], by decide, by decide, by decide, by decide⟩,
    ⟨live, 0, [0x10, 0xFF], by decide, by decide, by decide, by decide⟩,
    ⟨live, 0, [0x11, 0xE1], .getCapabilities 0 [0x11, 0xE1], by decide, by decide, by decide, by decide, by decide,
      List.mem_cons_self⟩,
    ⟨(sets live [(HST_SPDMSTAT_HPA, 1)]), 0, [0x12], by decide, by decide, by decide, by decide, by decide, by decide⟩,
    ⟨(sets live [(HST_SPDMSTAT_HPA, 2)]), 0, [0x12, 0, 0, 0, 0, 0, 1, 0, 0x80, 0, 0, 0, 2, 0, 0, 0], by decide,
      by decide, by decide, by decide, by decide, by decide, by decide, by decide, by decide⟩,
    ⟨(sets live [(HST_SPDMSTAT_HPA, 3)]), 0, [0x12], by decide, by decide, by decide, by decide, by decide, by decide⟩,
    ⟨(sets live [(HST_SPDMSTAT_HPA, 3)]), 0, [0x12], _, by decide, by decide, by decide, by decide, by decide, by decide,
      by decide, rfl⟩,
    ⟨(sets live [(HST_SPDMSTAT_HPA, 3)]), 0, [0x12], by decide, by decide, by decide, by decide, by decide, by decide,
      by decide, by decide, by decide⟩,
    ⟨(sets live [(HST_SPDMSTAT_HPA, 3)]), 0, [0x12, 0xE0, 1, 5], by decide, by decide, by decide, by decide, by decide,
      by decide, by decide, by decide, by decide, by decide⟩,
    ⟨(sets live [(HST_SPDMSTAT_HPA, 3)]), 0, [0x12, 0xE0, 0, 0xFF], _, _, by decide, by decide, by decide, by decide,
      by decide, by decide, by decide, by decide, rfl⟩,
    ⟨{ live with snt := { live.snt with mbx := [⟨.sign 0 [0x12, 0x83], true⟩] } }, 0, [], [0x12, 0x83], _, _, by decide,
      by decide, by decide, by decide, by decide, by decide, by decide, by decide, ((Prod.eta _).symm), by decide⟩⟩

/-- States and operands that meet the hypotheses of RingInterfaceCommandsComplete. -/
theorem witness_RingInterfaceCommandsComplete :
    (∃ (s : State) (r : RingId), s.ringReach r = true ∧ s.on (RNG_CTL_EN (ringKey r)) = false ∧ (s.put (RNG_CTL_EN
      (ringKey r)) 1).get (RNG_STAT_STATE (ringKey r)) = 0) ∧
    (∃ (s : State) (r : RingId), s.ringReach r = true ∧ s.on (RNG_CTL_EN (ringKey r)) = true) ∧
    (∃ (s : State) (r : RingId), s.get (RNG_STAT_STATE (ringKey r)) = 2 ∧ s.ringCmds r = [] ∧ (s.ring r).held = [] ∧
      (s.ring r).reen = false) ∧
    (∃ (s : State) (r : RingId) (v : Word) (n h t : Nat), n = ringSize (s.get (RNG_SQSIZE_LOG2 (ringKey r))) ∧ h = s.get
      (RNG_SQHEAD_HEAD (ringKey r)) ∧ t = (s.ring r).tail ∧ s.ringReach r = true ∧ v.toNat ≠ t ∧ v.toNat < n ∧ (v.toNat +
      n - t) % n ≤ (h + 2 * n - t - 1) % n) ∧
    (∃ (s : State) (r : RingId) (v : Word) (n : Nat), n = ringSize (s.get (RNG_SQSIZE_LOG2 (ringKey r))) ∧ s.ringReach r
      = true ∧ v.toNat ≠ (s.ring r).tail ∧ n ≤ v.toNat) ∧
    (∃ (s : State) (r : RingId) (v : Word) (n h : Nat), n = ringSize (s.get (RNG_CQSIZE_LOG2 (ringKey r))) ∧ h = (s.ring
      r).cqHead ∧ s.ringReach r = true ∧ v.toNat < n ∧ (v.toNat + n - h) % n ≤ (s.get (RNG_CQTAIL_WR (ringKey r)) + n -
      h) % n) ∧
    (∃ (s : State) (r : RingId) (v : Word) (n : Nat), n = ringSize (s.get (RNG_CQSIZE_LOG2 (ringKey r))) ∧ s.ringReach r
      = true ∧ n ≤ v.toNat) ∧
    (∃ (s : State) (r : RingId), s.ringPick = some r) ∧
    (∃ (s : State) (r : RingId), s.ringPick = some r) ∧
    (∃ (s : State) (r : RingId), 0 < (s.ring r).unsig ∧ s.get (RNG_CQVEC_COAL_TIME (ringKey r)) ≠ 0 ∧ s.due (s.ring
      r).unsigEnd = true) ∧
    (∃ (s : State) (v : Word) (n h : Nat), s.ownerReach = true ∧ n = ringSize (s.get RNG_EVSIZE_LOG2) ∧ h = s.rng.evHead
      ∧ v.toNat % 65536 < n ∧ (v.toNat % 65536 + n - h) % n ≤ (s.get RNG_EVTAIL_WR + n - h) % n) ∧
    (∃ (s : State) (v : Word), s.ownerReach = true ∧ ringSize (s.get RNG_EVSIZE_LOG2) ≤ v.toNat % 65536) ∧
    (∃ (s : State) (v : Word), s.ownerReach = true ∧ 4 ≤ v.toNat % 16 ∧ v.toNat % 16 ≤ 12 ∧ s.get RNG_EVSIZE_LOG2 ≠ 0) ∧
    (∃ (s : State) (v : Word) (u : State), s.ownerReach = true ∧ 4 ≤ v.toNat % 16 ∧ v.toNat % 16 ≤ 12 ∧ s.get
      RNG_EVSIZE_LOG2 = 0 ∧ u = ((s.put RNG_EVSIZE_LOG2 (v.toNat % 16)).put RNG_EVTAIL_WR 0).put RNG_EVTAIL_PHASE 1) :=
  ⟨⟨live, .sub, by decide, by decide, by decide⟩,
    ⟨(sets live [(RNG_CTL_EN (ringKey .sub), 1)]), .sub, by decide, by decide⟩,
    ⟨(sets live [(RNG_STAT_STATE (ringKey .sub), 2)]), .sub, by decide, by decide, by decide, by decide⟩,
    ⟨(sets live [(RNG_SQSIZE_LOG2 (ringKey .sub), 4)]), .sub, 15, _, _, _, rfl, rfl, rfl, by decide, by decide,
      by decide, by decide⟩,
    ⟨(sets live [(RNG_SQSIZE_LOG2 (ringKey .sub), 4)]), .sub, 16, _, rfl, by decide, by decide, by decide⟩,
    ⟨(sets live [(RNG_CQSIZE_LOG2 (ringKey .sub), 4), (RNG_CQTAIL_WR (ringKey .sub), 15)]), .sub, 15, _, _, rfl, rfl,
      by decide, by decide, by decide⟩,
    ⟨(sets live [(RNG_CQSIZE_LOG2 (ringKey .sub), 4)]), .sub, 16, _, rfl, by decide, by decide⟩,
    ⟨((sets live [(RNG_SQSIZE_LOG2 (ringKey .sub), 4), (RNG_CQSIZE_LOG2 (ringKey .sub), 4), (RNG_STAT_STATE (ringKey
      .sub), 1)]).modRing .sub fun x => { x with tail := 1 }), .sub, by decide⟩,
    ⟨((sets live [(RNG_SQSIZE_LOG2 (ringKey .sub), 4), (RNG_CQSIZE_LOG2 (ringKey .sub), 4), (RNG_STAT_STATE (ringKey
      .sub), 1)]).modRing .sub fun x => { x with tail := 1 }), .sub, by decide⟩,
    ⟨((sets live [(RNG_CQVEC_COAL_TIME (ringKey .sub), 1)]).modRing .sub fun x => { x with unsig := 1 }), .sub,
      by decide, by decide, by decide⟩,
    ⟨(sets live [(RNG_EVSIZE_LOG2, 4), (RNG_EVTAIL_WR, 15)]), 15, _, _, by decide, rfl, rfl, by decide, by decide⟩,
    ⟨(sets live [(RNG_EVSIZE_LOG2, 4)]), 16, by decide, by decide⟩,
    ⟨(sets live [(RNG_EVSIZE_LOG2, 4)]), 12, by decide, by decide, by decide, by decide⟩,
    ⟨live, 4, _, by decide, by decide, by decide, by decide, rfl⟩⟩

/-- States and operands that meet the hypotheses of LinkCommandsComplete. -/
theorem witness_LinkCommandsComplete :
    (∃ (s : State) (p : Port) (rate : Fin 4) (x2 : Bool) (v w : State), s.coreRuns = true ∧ s.on (idleF p) = false ∧
      s.linkUp p = false ∧ s.downOf p = none ∧ v = ((s.put (linkF p) 2).put (rateF p) (min rate.val (s.get
      (HST_PORTCFG_MAXRATE p.num)))).putB (widthF p) x2 ∧ w =
      ({ v with hst := if p = Port.hpa then { v.hst with perstA := false, l23A := false } else { v.hst with perstB := false, l23B := false } }
      : State)) ∧
    (∃ (s : State) (p : Port), s.linkUp p = true) ∧
    (∃ (s : State) (p : Port), s.linkUp p = true) ∧
    (∃ (s : State) (p : Port) (k : Nat), s.downOf p = some k ∧ k < s.tb.ticks) ∧
    (∃ (s : State) (p : Port), s.linkUp p = true) ∧
    (∃ (s : State) (p : Port) (u : State), u = (s.setFn p 0 false).put (d3F p) 1 ∧ u.linkUp p = true) ∧
    (∃ (s : State) (p : Port) (fn : Fin 17), s.linkUp p = true ∧ fn ≠ 0) ∧
    (∃ (s : State) (p : Port), s.linkUp p = true) ∧
    (∃ (s : State) (p : Port) (v : Fin 16) (u : State), s.linkUp p = true ∧ s.downOf p.other = none ∧ u = (((s.setFn p
      (fnOf (some v)) false).setCfg p (fnOf (some v)) FnCfg.reset).msixReset (some v) p).servedShow ∧ u.viEn (some v) =
      true ∧ u.portOf (some v) = p ∧ u.ownerBusy (some v) = false) ∧
    (∃ (s : State) (p : Port) (v : Fin 16) (u : State), s.linkUp p = true ∧ s.downOf p.other = none ∧ u = (((s.setFn p
      (fnOf (some v)) false).setCfg p (fnOf (some v)) FnCfg.reset).msixReset (some v) p).servedShow ∧ u.viEn (some v) =
      true ∧ u.portOf (some v) = p ∧ u.ownerBusy (some v) = true ∧ u.hst.flr.contains (p, v) = false) ∧
    (∃ (s : State) (p : Port) (u v : State), s.linkUp p = true ∧ u = ((s.log 0x7002 p.num [some (argCode 0x7002
      2)]).rollback p).failoverMove p ∧ v = [(linkF p, s.get (linkF p)), (rateF p, s.get (rateF p)), (widthF p, s.get
      (widthF p))].foldl (fun (t : State) x => t.put x.1 x.2) (u.linkReset p 14)) ∧
    (∃ (s : State) (v : Word) (t : State), t = (s.put HST_SMBCFG_ADDR v.toNat).touch ∧ s.reg 0xA02C ≠ t.reg 0xA02C) :=
  ⟨⟨(sets { State.reset with rst := { State.reset.rst with core := true } } [(idleF .hpa, 0)]), .hpa, 3, true, _, _,
      by decide, by decide, by decide, by decide, rfl, rfl⟩,
    ⟨(sets State.reset [(linkF .hpa, 2)]), .hpa, by decide⟩,
    ⟨(sets State.reset [(linkF .hpa, 2)]), .hpa, by decide⟩,
    ⟨{ State.reset with tb := { State.reset.tb with ticks := 1 }, hst := { State.reset.hst with downA := some 0 } },
      .hpa, 0, by decide, by decide⟩,
    ⟨(sets State.reset [(linkF .hpa, 2)]), .hpa, by decide⟩,
    ⟨(sets State.reset [(linkF .hpa, 2)]), .hpa, _, rfl, by decide⟩,
    ⟨(sets State.reset [(linkF .hpa, 2)]), .hpa, 16, by decide, by decide⟩,
    ⟨(sets State.reset [(linkF .hpa, 2)]), .hpa, by decide⟩,
    ⟨(sets State.reset [(linkF .hpa, 2), (HST_VIBIND_EN 15, 1)]), .hpa, 15, _, by decide, by decide, rfl,
      (by decide +kernel), (by decide +kernel), by decide +kernel⟩,
    ⟨(sets (State.reset.modChan 15 fun c => { c with fetching := true }) [(linkF .hpa, 2), (HST_VIBIND_EN 15, 1),
      (BMV_DCCFG_OWNER 15, 15)]), .hpa, 15, _, by decide, by decide, rfl, (by decide +kernel), (by decide +kernel),
      (by decide +kernel), by decide +kernel⟩,
    ⟨(sets State.reset [(linkF .hpa, 2)]), .hpa, _, _, by decide, rfl, rfl⟩,
    ⟨State.reset, 0x21, _, rfl, by decide⟩⟩

/-- States and operands that meet the hypotheses of HostAccessCommandsComplete. -/
theorem witness_HostAccessCommandsComplete :
    (∃ (s : State) (p : Port) (fn : Fin 17) (bar2 : Bool) (off : BitVec 18) (v : State), s.linkUp p = true ∧ v =
      ((((((s.put HST_ERRSTAT_BADACC 1).put HST_ERRADDR_OFFSET off.toNat).put HST_ERRADDR_FUNC fn.val).put
      HST_ERRADDR_PORT p.num).putB HST_ERRADDR_BAR bar2).log 0x7005 fn.val [some off.toNat])) ∧
    (∃ (s : State) (p : Port), s.linkUp p = true) ∧
    (∃ (s : State) (p : Port) (v : Fin 16), s.linkUp p = true ∧ (s.viEn (some v) = false ∨ s.portOf (some v) ≠ p)) ∧
    (∃ (s : State) (p : Port), s.linkUp p = true ∧ s.hst.inval.length < 8) ∧
    (∃ (s : State) (p : Port) (fn : Fin 17) (e : Port × Nat × Nat), (s.hst.inval.find? fun e => e.1 == p && e.2.1 ==
      fn.val) = some e ∧ s.ownerBusy (ownerOfFn fn.val) = false) ∧
    (∃ (s : State) (n : Fin 32) (addr : Nat) (u : State), s.coreRuns = true ∧ s.pgBusy (.sub n) = true ∧ s.atsOn (s.pgWho
      (.sub n)) = true ∧ (s.hst.pri.any fun q => q.tgt == .sub n) = false ∧ u = s.atcDrop (s.pgWho (.sub n)) addr ∧
      (u.fnCfg (u.portOf (u.pgWho (.sub n))) 0).pri = none) ∧
    (∃ (s : State) (n : Fin 32) (addr : Nat) (w : Bool) (u v : State), s.coreRuns = true ∧ s.pgBusy (.sub n) = true ∧
      s.atsOn (s.pgWho (.sub n)) = true ∧ (s.hst.pri.any fun q => q.tgt == .sub n) = false ∧ u = s.atcDrop (s.pgWho (.sub
      n)) addr ∧ (u.fnCfg (u.portOf (u.pgWho (.sub n))) 0).pri ≠ none ∧ v =
      ({ u with hst := { u.hst with pri := u.hst.pri ++ [⟨u.pgWho (.sub n), .sub n, addr, w, 0, false⟩] } } :
      State).pgSuspend (.sub n)) ∧
    (∃ (s : State) (g : PgFor) (q : PageReq), s.priOf g = some q) ∧
    (∃ (s : State) (g : PgFor) (q : PageReq), s.priOf g = some q ∧ s.due q.end_ = true) ∧
    (∃ (s : State) (g : PgFor) (p : Port), p = s.portOf (s.pgWho g) ∧ (s.fnCfg p (fnOf (s.pgWho g))).cto ≠ none ∧ s.npOut
      g = true) ∧
    (∃ (s : State) (n : Fin 32), s.coreRuns = true ∧ s.cch.miss = none ∧ s.scSt n = scACTIVE ∧ (s.sub n).ph = .op) :=
  ⟨⟨(sets State.reset [(linkF .hpa, 2)]), .hpa, 16, true, 0x3FFFC, _, by decide, rfl⟩,
    ⟨(sets State.reset [(linkF .hpa, 2)]), .hpa, by decide⟩,
    ⟨(sets State.reset [(linkF .hpa, 2)]), .hpa, 15, by decide, by decide⟩,
    ⟨(sets State.reset [(linkF .hpa, 2)]), .hpa, by decide, by decide⟩,
    ⟨{ State.reset with hst := { State.reset.hst with inval := [(.hpa, 16, 7)] } }, .hpa, 16, (.hpa, 16, 7), by decide,
      by decide⟩,
    ⟨{ sets (live.modSub 31 fun u => { u with ph := .op }) [(CPE_SCSTAT0_STATE 31, scACTIVE), (CPE_SCCFG_OWNER 31, 16)] with hst := { live.hst with cfgA := List.replicate 17 ⟨true, none, some 50000⟩ } },
      31, 0x1000, _, by decide, by decide, by decide, by decide, rfl, by decide⟩,
    ⟨{ sets (live.modSub 31 fun u => { u with ph := .op }) [(CPE_SCSTAT0_STATE 31, scACTIVE), (CPE_SCCFG_OWNER 31, 16)] with hst := { live.hst with cfgA := List.replicate 17 ⟨true, some 4, some 50000⟩ } },
      31, 0x1000, true, _, _, by decide, by decide, by decide, by decide, rfl, by decide, rfl⟩,
    ⟨{ live with hst := { live.hst with pri := [⟨none, .buf 0, 0, true, 0, true⟩] } }, .buf 0, ⟨none, .buf 0, 0, true, 0,
      true⟩, by decide⟩,
    ⟨{ live with hst := { live.hst with pri := [⟨none, .buf 0, 0, true, 0, true⟩] } }, .buf 0, ⟨none, .buf 0, 0, true, 0,
      true⟩, by decide, by decide⟩,
    ⟨(sets (live.modSub 31 fun u => { u with ph := .op }) [(CPE_SCSTAT0_STATE 31, scACTIVE), (CPE_SCCFG_OWNER 31, 16)]),
      .sub 31, _, rfl, by decide, by decide⟩,
    ⟨(sets (live.modSub 31 fun u => { u with ph := .op }) [(CPE_SCSTAT0_STATE 31, scACTIVE), (CPE_SCCFG_OWNER 31, 16)]),
      31, by decide, by decide, by decide, by decide⟩⟩

/-- States and operands that meet the hypotheses of WalkerCommandsComplete. -/
theorem witness_WalkerCommandsComplete :
    (∃ (s : State) (p : Port) (n : Fin 32), s.reaches (.owner p) = true ∧ s.coreRuns = true ∧ s.scSt n.val = scTAIL ∧
      s.on (CPE_SCSTAT0_SSR_FAIL n.val) = false ∧ s.on (CPE_SCCFG_EN n.val) = true) ∧
    (∃ (s : State) (p : Port) (n : Fin 32), s.reaches (.owner p) = true ∧ s.coreRuns = true ∧ s.scSt n.val ≠ scTAIL ∧
      s.scSt n.val ≠ scIDLE ∧ s.scSt n.val ≠ scSTOPPED) ∧
    (∃ (s : State) (v : Fin 16) (n : Fin 32), s.reaches (.vi v) = true ∧ s.coreRuns = true ∧ s.scOwner n.val ≠ some v) ∧
    (∃ (s : State) (n : Fin 32) (b : List Byte) (m : Bool), s.scFetching n.val = true ∧ (s.sub n.val).got = some (b, m)) ∧
    (∃ (s : State) (n : Fin 32) (v : State) (b : List Byte) (buf : Bool), s.scFetching n.val = true ∧ (s.sub n.val).got =
      none ∧ (s.sub n.val).force = false ∧ s.cchLook (s.scCode n.val) (s.scAddr n.val) = (v, .hit b buf)) ∧
    (∃ (s : State) (n : Fin 32) (v : State), s.scFetching n.val = true ∧ (s.sub n.val).got = none ∧ (s.sub n.val).force =
      false ∧ s.cchLook (s.scCode n.val) (s.scAddr n.val) = (v, .miss)) ∧
    (∃ (s : State) (n : Fin 32), s.scReady n.val 0x09 = true) ∧
    (∃ (s : State) (n : Fin 32) (u : State), s.scReady n.val 0x0A = true ∧ u = s.put (CPE_SCSTAT0_STATE n.val) scWAITING) ∧
    (∃ (s : State) (n : Fin 32) (u : State), s.coreRuns = true ∧ s.scSt n.val = scWAITING ∧ s.due (s.sub n.val).waitEnd =
      true ∧ u = s.put (CPE_SCSTAT0_STATE n.val) scACTIVE) ∧
    (∃ (s : State) (n : Fin 32) (u : State) (c : Cce) (v : State), s.scReady n.val 0x0B = true ∧ s.cch.stores.length < 4
      ∧ u = s.touch ∧ c = (u.sub n.val).cce ∧ v = u.cchStore (u.scCode n.val) c.addr (leBytes 8 u.now ++ leBytes 2
      c.count ++ leBytes 2 c.dev ++ leBytes 1 n.val ++ zeros 1 ++ leBytes 2 (u.get (CPE_SCSEQ_SEQ n.val)))) ∧
    (∃ (s : State) (n : Fin 32) (k : Nat) (u : State), s.scReady n.val 0x0C = true ∧ k = (if (s.sub n.val).jumpTick =
      s.tb.ticks then (s.sub n.val).jumps else 0) ∧ k < 16 ∧ u = s.modSub n.val (fun x =>
      { x with jumps := k + 1, jumpTick := s.tb.ticks })) ∧
    (∃ (s : State) (n : Fin 32), s.scReady n.val 0x20 = true) ∧
    (∃ (s : State) (n : Fin 32), s.scReady n.val 0x21 = true) ∧
    (∃ (s : State) (n : Fin 32), s.scReady n.val 0x22 = true) ∧
    (∃ (s : State) (n : Fin 32), s.served (s.scOwner n.val) = true ∧ s.rebinding (s.scOwner n.val) = false ∧ s.scReady
      n.val 0x23 = true ∧ s.scClass n.val = 0) ∧
    (∃ (s : State) (n : Fin 32), s.served (s.scOwner n.val) = true ∧ s.rebinding (s.scOwner n.val) = false ∧ s.scReady
      n.val 0x23 = true ∧ s.scClass n.val ≠ 0) :=
  ⟨⟨(sets live [(CPE_SCSTAT0_STATE 31, scTAIL), (CPE_SCCFG_EN 31, 1)]), .hpa, 31, by decide, by decide, by decide,
      by decide, by decide⟩,
    ⟨(sets live [(CPE_SCSTAT0_STATE 31, scACTIVE)]), .hpa, 31, by decide, by decide, by decide, by decide, by decide⟩,
    ⟨(sets live [(HST_VIBIND_EN 15, 1)]), 15, 31, by decide, by decide, by decide⟩,
    ⟨(sets (live.modSub 31 fun u => { u with ph := .fetch, got := some ([], false) }) [(CPE_SCSTAT0_STATE 31, scACTIVE),
      (CPE_SCCFG_OWNER 31, 16)]), 31, [], false, by decide, by decide⟩,
    ⟨{ sets (live.modSub 31 fun u => { u with ph := .fetch }) [(CPE_SCSTAT0_STATE 31, scACTIVE), (CPE_SCCFG_OWNER 31, 16)] with cch := { live.cch with stores := [⟨16, 0, zeros 16⟩] } },
      31, _, zeros 16, true, by decide, by decide, by decide, rfl⟩,
    ⟨(sets (live.modSub 31 fun u => { u with ph := .fetch }) [(CPE_SCSTAT0_STATE 31, scACTIVE), (CPE_SCCFG_OWNER 31,
      16)]), 31, _, by decide, by decide, by decide, rfl⟩,
    ⟨(sets (live.modSub 31 fun u => { u with ph := .ready, cce := ⟨0x09, 0, 0, 0, 0, 0⟩ }) [(CPE_SCSTAT0_STATE 31,
      scACTIVE), (CPE_SCCFG_OWNER 31, 16)]), 31, by decide⟩,
    ⟨(sets (live.modSub 31 fun u => { u with ph := .ready, cce := ⟨0x0A, 0, 0, 0, 0, 0⟩ }) [(CPE_SCSTAT0_STATE 31,
      scACTIVE), (CPE_SCCFG_OWNER 31, 16)]), 31, _, by decide, rfl⟩,
    ⟨(sets live [(CPE_SCSTAT0_STATE 31, scWAITING)]), 31, _, by decide, by decide, by decide, rfl⟩,
    ⟨(sets (live.modSub 31 fun u => { u with ph := .ready, cce := ⟨0x0B, 0, 0, 0, 0, 0⟩ }) [(CPE_SCSTAT0_STATE 31,
      scACTIVE), (CPE_SCCFG_OWNER 31, 16)]), 31, _, _, _, by decide, by decide, rfl, rfl, rfl⟩,
    ⟨(sets (live.modSub 31 fun u => { u with ph := .ready, cce := ⟨0x0C, 0, 0, 0, 0, 0⟩, jumps := 15 })
      [(CPE_SCSTAT0_STATE 31, scACTIVE), (CPE_SCCFG_OWNER 31, 16)]), 31, _, _, by decide, rfl, by decide, rfl⟩,
    ⟨(sets (live.modSub 31 fun u => { u with ph := .ready, cce := ⟨0x20, 0, 0, 0, 0, 0⟩ }) [(CPE_SCSTAT0_STATE 31,
      scACTIVE), (CPE_SCCFG_OWNER 31, 16)]), 31, by decide⟩,
    ⟨(sets (live.modSub 31 fun u => { u with ph := .ready, cce := ⟨0x21, 0, 0, 0, 0, 0⟩ }) [(CPE_SCSTAT0_STATE 31,
      scACTIVE), (CPE_SCCFG_OWNER 31, 16)]), 31, by decide⟩,
    ⟨(sets (live.modSub 31 fun u => { u with ph := .ready, cce := ⟨0x22, 0, 0, 0, 0, 0⟩ }) [(CPE_SCSTAT0_STATE 31,
      scACTIVE), (CPE_SCCFG_OWNER 31, 16)]), 31, by decide⟩,
    ⟨(sets (live.modSub 31 fun u => { u with ph := .ready, cce := ⟨0x23, 0, 0, 0, 0, 0⟩ }) [(CPE_SCSTAT0_STATE 31,
      scACTIVE), (CPE_SCCFG_OWNER 31, 16)]), 31, by decide, by decide, by decide, by decide⟩,
    ⟨(sets (live.modSub 31 fun u => { u with ph := .ready, cce := ⟨0x23, 0, 0, 0, 1, 0⟩ }) [(CPE_SCSTAT0_STATE 31,
      scACTIVE), (CPE_SCCFG_OWNER 31, 16)]), 31, by decide, by decide, by decide, by decide⟩⟩

/-- States and operands that meet the hypotheses of CacheCommandsComplete. -/
theorem witness_CacheCommandsComplete :
    (∃ (s : State) (bytes : List Byte) (m : Miss) (u : State), s.cch.miss = some m ∧ (s.modCch fun c =>
      { c with miss := none }).scFetching m.sub = true ∧ (s.modCch fun c => { c with miss := none }).scAddr m.sub =
      m.addr ∧ (s.modCch fun c => { c with miss := none }).scCode m.sub = m.owner ∧ m.install = true ∧ (s.modCch fun c =>
      { c with miss := none }).on CCH_CFG_EN = true ∧ u = (s.modCch fun c => { c with miss := none }).modCch (fun c =>
      c.install m.owner m.addr (fitTo (64 - m.addr % 64) bytes))) ∧
    (∃ (s : State) (m : Miss) (u : State), s.cch.miss = some m ∧ u = s.modCch (fun c => { c with miss := none }) ∧
      u.scFetching m.sub = true ∧ u.scAddr m.sub = m.addr ∧ u.scCode m.sub = m.owner) ∧
    (∃ (s : State) (e : StoreE) (l : List StoreE), s.cch.stores = e :: l) ∧
    (∃ (s : State), s.ownerReach = true) ∧
    (∃ (s : State), s.ownerReach = true) ∧
    (∃ (s : State), s.ownerReach = true) :=
  ⟨⟨{ sets (live.modSub 31 fun u => { u with ph := .fetch }) [(CPE_SCSTAT0_STATE 31, scACTIVE), (CPE_SCCFG_OWNER 31, 16), (CCH_CFG_EN, 1)] with cch := { live.cch with miss := some ⟨31, 16, 0, true⟩ } },
      zeros 64, ⟨31, 16, 0, true⟩, _, by decide, by decide, by decide, by decide, by decide, by decide, rfl⟩,
    ⟨{ sets (live.modSub 31 fun u => { u with ph := .fetch }) [(CPE_SCSTAT0_STATE 31, scACTIVE), (CPE_SCCFG_OWNER 31, 16)] with cch := { live.cch with miss := some ⟨31, 16, 0, true⟩ } },
      ⟨31, 16, 0, true⟩, _, by decide, rfl, by decide, by decide, by decide⟩,
    ⟨{ live with cch := { live.cch with stores := [⟨16, 0, zeros 16⟩] } }, ⟨16, 0, zeros 16⟩, [], by decide⟩,
    ⟨live, by decide⟩,
    ⟨live, by decide⟩,
    ⟨live, by decide⟩⟩

/-- States and operands that meet the hypotheses of BulkMoverCommandsComplete. -/
theorem witness_BulkMoverCommandsComplete :
    (∃ (s : State) (v n : Fin 16), s.reaches (.vi v) = true ∧ s.coreRuns = true ∧ s.dcOwner n.val ≠ some v) ∧
    (∃ (s : State) (p : Port) (n : Fin 16) (v : Word) (u : State), s.reaches (.owner p) = true ∧ s.coreRuns = true ∧
      v.toNat % 65536 < s.crqSize n.val ∧ (v.toNat % 65536 + s.crqSize n.val - s.get (BMV_DCCRQPTR_HEAD n.val)) %
      s.crqSize n.val ≤ s.crqUnread n.val ∧ u = ((s.put (BMV_DCCRQPTR_HEAD n.val) (v.toNat % 65536)).dcProgress
      n.val).dcPrefetch n.val ∧ u.on BMV_STAT_ESTOP = false ∧ u.dcSt n.val = dcTAIL ∧ u.on (BMV_DCCFG_EN n.val) = true) ∧
    (∃ (s : State) (p : Port) (n : Fin 16) (v : Word) (u : State), s.reaches (.owner p) = true ∧ s.coreRuns = true ∧
      s.crqSize n.val ≤ v.toNat % 65536 ∧ u = (((s.put (BMV_DCSTAT_BADDB n.val) 1).badAccess none (0xE300 + 4 *
      n.val)).dcProgress n.val).dcPrefetch n.val ∧ u.on BMV_STAT_ESTOP = false ∧ u.dcSt n.val ≠ dcTAIL ∧ u.dcSt n.val ≠
      dcIDLE ∧ u.dcSt n.val ≠ dcSTOPPED) ∧
    (∃ (s : State) (n : Fin 16), s.coreRuns = true ∧ (s.chan n.val).fetching = true ∧ s.dcSt n.val = dcACTIVE) ∧
    (∃ (s : State) (n : Fin 16), (s.chan n.val).fetching = false ∧ (s.chan n.val).preAsk = true) ∧
    (∃ (s : State) (n : Nat) (d : Desc) (u : State) (p : Nat), s.coreRuns = true ∧ s.on BMV_STAT_ESTOP = false ∧
      (s.bmv.chans.map fun c => c.flight.length).sum < 8 ∧ s.dcPick = some n ∧ (s.chan n).desc = some d ∧ (s.chan n).ph =
      .run ∧ d.srcX = false ∧ d.dstX = false ∧ u =
      { s with bmv := { s.bmv with wheel := (s.bmv.wheel + 1) % 15, last := n } } ∧ p = (u.chan n).issued) ∧
    (∃ (s : State) (n : Fin 16) (k : Nat) (d : Desc), (s.chan n.val).resp = some k ∧ (s.chan n.val).desc = some d) ∧
    (∃ (s : State) (n : Fin 16) (k : Nat) (d : Desc), (s.chan n.val).resp = some k ∧ (s.chan n.val).desc = some d) :=
  ⟨⟨(sets live [(HST_VIBIND_EN 15, 1)]), 15, 15, by decide, by decide, by decide⟩,
    ⟨(sets live [(BMV_DCSTAT_STATE 15, dcTAIL), (BMV_DCCRQCFG_K 15, 4), (BMV_DCCFG_EN 15, 1)]), .hpa, 15, 0, _,
      by decide, by decide, by decide, by decide, rfl, by decide, by decide, by decide⟩,
    ⟨(sets live [(BMV_DCSTAT_STATE 15, dcACTIVE), (BMV_DCCRQCFG_K 15, 4)]), .hpa, 15, 0xFFFF, _, by decide, by decide,
      by decide, rfl, by decide, by decide, by decide, by decide⟩,
    ⟨(sets (live.modChan 15 fun c => { c with fetching := true }) [(BMV_DCSTAT_STATE 15, dcACTIVE), (BMV_DCCFG_OWNER 15,
      16)]), 15, by decide, by decide, by decide⟩,
    ⟨(sets (live.modChan 15 fun c => { c with preAsk := true }) [(BMV_DCSTAT_STATE 15, dcACTIVE), (BMV_DCCFG_OWNER 15,
      16)]), 15, by decide, by decide⟩,
    ⟨(sets (live.modChan 15 fun c => { c with ph := .run, desc := some ⟨0, 0x10000, 8, 8, 8, 8, 1, 1, 0, 0, 0, 0⟩ })
      [(BMV_DCSTAT_STATE 15, dcACTIVE), (BMV_DCCFG_OWNER 15, 16)]), 15, ⟨0, 0x10000, 8, 8, 8, 8, 1, 1, 0, 0, 0, 0⟩, _, _,
      by decide, by decide, by decide, by decide, by decide, by decide, by decide, by decide, rfl, rfl⟩,
    ⟨(sets (live.modChan 15 fun c => { c with resp := some 8, desc := some ⟨0, 0x10000, 8, 8, 8, 8, 1, 1, 0, 0, 0, 0⟩ })
      [(BMV_DCSTAT_STATE 15, dcACTIVE), (BMV_DCCFG_OWNER 15, 16)]), 15, 8, ⟨0, 0x10000, 8, 8, 8, 8, 1, 1, 0, 0, 0, 0⟩,
      by decide, by decide⟩,
    ⟨(sets (live.modChan 15 fun c => { c with resp := some 8, desc := some ⟨0, 0x10000, 8, 8, 8, 8, 1, 1, 0, 0, 0, 0⟩ })
      [(BMV_DCSTAT_STATE 15, dcACTIVE), (BMV_DCCFG_OWNER 15, 16)]), 15, 8, ⟨0, 0x10000, 8, 8, 8, 8, 1, 1, 0, 0, 0, 0⟩,
      by decide, by decide⟩⟩

/-- States and operands that meet the hypotheses of PortCommandsComplete. -/
theorem witness_PortCommandsComplete :
    (∃ (s : State) (x : Fin 13) (n : Nat) (b : BurstIn) (t : State), (s.dport ↑x).waitIdle = false ∧ s.burstPick ↑x =
      some n ∧ t = s.burstBegin (↑x) n b ∧ t.burstWaits (↑x) n b = false ∧ (t.sub n).ended = true) ∧
    (∃ (s : State) (x : Fin 13) (n : Nat) (b : BurstIn) (t : State), (s.dport ↑x).waitIdle = false ∧ s.burstPick ↑x =
      some n ∧ t = s.burstBegin (↑x) n b ∧ t.burstWaits (↑x) n b = false ∧ (t.sub n).ended = false ∧ ↑x = 12) ∧
    (∃ (s : State) (x : Fin 13) (n : Nat) (b : BurstIn) (t : State), (s.dport ↑x).waitIdle = false ∧ s.burstPick ↑x =
      some n ∧ t = s.burstBegin (↑x) n b ∧ t.burstWaits (↑x) n b = false ∧ (t.sub n).ended = false ∧ ↑x < 12 ∧ (t.sub
      n).cce.code = 34 ∧ t.burstErr (↑x) n b = none) ∧
    (∃ (s : State) (x : Fin 13) (n : Nat) (b : BurstIn) (t : State) (e : DevErr), (s.dport ↑x).waitIdle = false ∧
      s.burstPick ↑x = some n ∧ t = s.burstBegin (↑x) n b ∧ t.burstWaits (↑x) n b = false ∧ (t.sub n).ended = false ∧ ↑x
      < 12 ∧ (t.sub n).cce.code = 34 ∧ t.burstErr (↑x) n b = some e) ∧
    (∃ (s : State) (x : Fin 13) (n : Nat) (b : BurstIn) (t : State), (s.dport ↑x).waitIdle = false ∧ s.burstPick ↑x =
      some n ∧ t = s.burstBegin (↑x) n b ∧ t.burstWaits (↑x) n b = false ∧ (t.sub n).ended = false ∧ ↑x < 12 ∧ (t.sub
      n).cce.code ≠ 34 ∧ (t.sub n).opAgain ≠ []) ∧
    (∃ (s : State) (x : Fin 13) (n : Nat) (b : BurstIn) (t : State), (s.dport ↑x).waitIdle = false ∧ s.burstPick ↑x =
      some n ∧ t = s.burstBegin (↑x) n b ∧ t.burstWaits (↑x) n b = false ∧ (t.sub n).ended = false ∧ ↑x < 12 ∧ (t.sub
      n).cce.code ≠ 34 ∧ (t.sub n).opAgain = [] ∧ t.flashWrite (↑x) n = true) ∧
    (∃ (s : State) (x : Fin 13) (n : Nat) (b : BurstIn) (t : State), (s.dport ↑x).waitIdle = false ∧ s.burstPick ↑x =
      some n ∧ t = s.burstBegin (↑x) n b ∧ t.burstWaits (↑x) n b = false ∧ (t.sub n).ended = false ∧ 10 ≤ ↑x ∧ ↑x < 12 ∧
      (t.sub n).cce.code = 33 ∧ (t.sub n).opAgain = [] ∧ t.flashWrite (↑x) n = false) ∧
    (∃ (s : State) (x : Fin 13) (n : Nat) (b : BurstIn) (t : State), (s.dport ↑x).waitIdle = false ∧ s.burstPick ↑x =
      some n ∧ t = s.burstBegin (↑x) n b ∧ t.burstWaits (↑x) n b = false ∧ (t.sub n).ended = false ∧ ↑x < 10 ∧ (t.sub
      n).cce.code ≠ 34 ∧ (t.sub n).opAgain = [] ∧ t.flashWrite (↑x) n = false) ∧
    (∃ (s : State) (x : Fin 2) (k n : Nat), n = s.get (DPT_PORTSTAT_HOLDER (8 + x.val)) ∧ (s.sub n).busy = some k ∧
      s.coreRuns = true ∧ s.due k = true ∧ s.on (DPT_PORTSTAT_OPEN (8 + x.val)) = true) ∧
    (∃ (s : State) (x : Fin 2) (brk : Bool) (u : State), s.coreRuns = true ∧ s.on (DPT_ASCFG_EN x.val) = true ∧ u =
      s.modPort (10 + x.val) (fun p =>
      { p with count := (p.count + 1) % 65536, rxTick := s.tb.ticks, brk := p.brk || brk }) ∧ (u.dport (10 +
      x.val)).rx.length < 64) ∧
    (∃ (s : State) (x : Fin 2) (brk : Bool) (u : State), s.coreRuns = true ∧ s.on (DPT_ASCFG_EN x.val) = true ∧ u =
      s.modPort (10 + x.val) (fun p =>
      { p with count := (p.count + 1) % 65536, rxTick := s.tb.ticks, brk := p.brk || brk }) ∧ 64 ≤ (u.dport (10 +
      x.val)).rx.length ∧ u.on (DPT_PORTSTAT_OVR (10 + x.val)) = false) ∧
    (∃ (s : State) (x : Fin 2) (n : Nat), n = s.get (DPT_PORTSTAT_HOLDER (10 + x.val)) ∧ s.coreRuns = true ∧ s.on
      (DPT_PORTSTAT_OPEN (10 + x.val)) = true ∧ (s.sub n).cce.code = 0x21 ∧ (s.sub n).ph = .op ∧ s.scSt n = scACTIVE ∧
      (s.dport (10 + x.val)).rx = [] ∧ s.due ((s.dport (10 + x.val)).rxTick + 1 + (s.scLead n).dev % 256) = true) ∧
    (∃ (s : State) (x : Fin 2), s.coreRuns = true ∧ s.on (DPT_ITCFG_EN x.val) = true) ∧
    (∃ (s : State) (x : Fin 2), s.coreRuns = true ∧ s.on (DPT_ITCFG_EN x.val) = true) ∧
    (∃ (s : State) (g : Fin 32), s.rst.core = true ∧ bitOf (s.get DPT_GPIOIN_LEVELS) g.val = false ∧ bitOf ((s.put
      DPT_GPIOIN_LEVELS (setBit (s.get DPT_GPIOIN_LEVELS) g.val true)).get (DPT_GPIOCFG_EDGE g.val)) 0 = true) ∧
    (∃ (s : State) (c : Fin 4), s.coreRuns = true ∧ s.on (DPT_SPCFG_EN (c.val / 2)) = true ∧ bitOf (s.get
      (DPT_SPCFG_CSMASK (c.val / 2))) (c.val % 2) = true) ∧
    (∃ (s : State) (c : Fin 4), s.coreRuns = true ∧ s.on (DPT_SPCFG_EN (c.val / 2)) = true ∧ bitOf (s.get
      (DPT_SPCFG_CSMASK (c.val / 2))) (c.val % 2) = true) :=
  ⟨⟨(sets (live.modSub 31 fun u => { u with ph := .op, cce := ⟨0x21, 0, 8, 0, 0, 0⟩, ended := true })
      [(CPE_SCSTAT0_STATE 31, scACTIVE), (CPE_SCCFG_OWNER 31, 16), (CPE_SCCFG_PORT 31, 9)]), 9, 31, quietBurst, _,
      by decide, by decide, rfl, by decide, by decide⟩,
    ⟨(sets (live.modSub 31 fun u => { u with ph := .op, cce := ⟨0x21, 0, 8, 0, 0, 0⟩ }) [(CPE_SCSTAT0_STATE 31,
      scACTIVE), (CPE_SCCFG_OWNER 31, 16), (CPE_SCCFG_PORT 31, 12)]), 12, 31, quietBurst, _, by decide, by decide, rfl,
      by decide, by decide, by decide⟩,
    ⟨(sets (live.modSub 31 fun u => { u with ph := .op, cce := ⟨0x22, 0, 8, 0, 0, 0⟩ }) [(CPE_SCSTAT0_STATE 31,
      scACTIVE), (CPE_SCCFG_OWNER 31, 16), (CPE_SCCFG_PORT 31, 11)]), 11, 31, quietBurst, _, by decide, by decide, rfl,
      by decide, by decide, by decide, by decide, by decide⟩,
    ⟨(sets (live.modSub 31 fun u => { u with ph := .op, cce := ⟨0x22, 0, 8, 0, 0, 0⟩ }) [(CPE_SCSTAT0_STATE 31,
      scACTIVE), (CPE_SCCFG_OWNER 31, 16), (CPE_SCCFG_PORT 31, 5)]), 5, 31, { quietBurst with err := some .timeout }, _,
      .timeout, by decide, by decide, rfl, by decide, by decide, by decide, by decide, by decide⟩,
    ⟨(sets (live.modSub 31 fun u => { u with ph := .op, cce := ⟨0x20, 0, 8, 0, 0, 0⟩, opAgain := [.lit [1]] })
      [(CPE_SCSTAT0_STATE 31, scACTIVE), (CPE_SCCFG_OWNER 31, 16), (CPE_SCCFG_PORT 31, 5), (DPT_PORTSTAT_OPEN 5, 1),
      (DPT_PORTSTAT_HOLDER 5, 31)]), 5, 31, quietBurst, _, by decide, by decide, rfl, by decide, by decide, by decide,
      by decide, by decide⟩,
    ⟨(sets (live.modSub 31 fun u => { u with ph := .op, cce := ⟨0x20, 0, 8, 2, 0, 0⟩ }) [(CPE_SCSTAT0_STATE 31,
      scACTIVE), (CPE_SCCFG_OWNER 31, 16), (CPE_SCCFG_PORT 31, 9)]), 9, 31, quietBurst, _, by decide, by decide, rfl,
      by decide, by decide, by decide, by decide, by decide, by decide⟩,
    ⟨(sets (live.modSub 31 fun u => { u with ph := .op, cce := ⟨0x21, 0, 8, 0, 0, 0⟩ }) [(CPE_SCSTAT0_STATE 31,
      scACTIVE), (CPE_SCCFG_OWNER 31, 16), (CPE_SCCFG_PORT 31, 11)]), 11, 31, quietBurst, _, by decide, by decide, rfl,
      by decide, by decide, by decide, by decide, by decide, by decide, by decide⟩,
    ⟨(sets (live.modSub 31 fun u => { u with ph := .op, cce := ⟨0x20, 0, 8, 0, 0, 0⟩ }) [(CPE_SCSTAT0_STATE 31,
      scACTIVE), (CPE_SCCFG_OWNER 31, 16), (CPE_SCCFG_PORT 31, 9)]), 9, 31, quietBurst, _, by decide, by decide, rfl,
      by decide, by decide, by decide, by decide, by decide, by decide⟩,
    ⟨(sets (live.modSub 31 fun u => { u with ph := .op, cce := ⟨0x20, 0, 8, 2, 0, 0⟩, busy := some 0 })
      [(CPE_SCSTAT0_STATE 31, scACTIVE), (CPE_SCCFG_OWNER 31, 16), (CPE_SCCFG_PORT 31, 9), (DPT_PORTSTAT_OPEN 9, 1),
      (DPT_PORTSTAT_HOLDER 9, 31)]), 1, 0, _, rfl, by decide, by decide, by decide, by decide⟩,
    ⟨((sets live [(DPT_ASCFG_EN 1, 1)]).modPort 11 fun p => { p with rx := List.replicate 63 (0, false) }), 1, false, _,
      by decide, by decide, rfl, by decide⟩,
    ⟨((sets live [(DPT_ASCFG_EN 1, 1)]).modPort 11 fun p => { p with rx := List.replicate 64 (0, false) }), 1, false, _,
      by decide, by decide, rfl, by decide, by decide⟩,
    ⟨{ sets (live.modSub 31 fun u => { u with ph := .op, cce := ⟨0x21, 0, 8, 0, 0, 0⟩ }) [(CPE_SCSTAT0_STATE 31, scACTIVE), (CPE_SCCFG_OWNER 31, 16), (CPE_SCCFG_PORT 31, 11), (DPT_PORTSTAT_OPEN 11, 1), (DPT_PORTSTAT_HOLDER 11, 31)] with tb := { live.tb with ticks := 1 } },
      1, _, rfl, by decide, by decide, by decide, by decide, by decide, by decide, by decide⟩,
    ⟨(sets live [(DPT_ITCFG_EN 1, 1)]), 1, by decide, by decide⟩,
    ⟨(sets live [(DPT_ITCFG_EN 1, 1)]), 1, by decide, by decide⟩,
    ⟨(sets live [(DPT_GPIOCFG_EDGE 31, 1)]), 31, by decide, by decide, by decide⟩,
    ⟨(sets live [(DPT_SPCFG_EN 1, 1), (DPT_SPCFG_CSMASK 1, 2)]), 3, by decide, by decide, by decide⟩,
    ⟨(sets live [(DPT_SPCFG_EN 1, 1), (DPT_SPCFG_CSMASK 1, 2)]), 3, by decide, by decide, by decide⟩⟩

/-- States and operands that meet the hypotheses of CardEventCommandsComplete. -/
theorem witness_CardEventCommandsComplete :
    (∃ (s : State) (p : Fin 2), s.on (CRD_PSTAT_PRESENT p.val) = false ∧ s.rst.low = false) ∧
    (∃ (s : State) (p : Fin 2), s.on (CRD_PSTAT_PRESENT p.val) = true) ∧
    (∃ (s : State) (p : Fin 2), (s.card p.val).vcc = true ∧ (s.card p.val).ph ≠ .settle) ∧
    (∃ (s : State) (p : Fin 2), (s.card p.val).vcc = true) ∧
    (∃ (s : State) (p : Fin 2), (s.card p.val).ph = .settle) ∧
    (∃ (s : State) (p : Fin 2), (s.card p.val).ph = .reset) ∧
    (∃ (s : State) (p : Fin 2) (chars : List Byte) (u : State), (s.card p.val).ph = .window ∧ u = (((upTo 9).foldl (fun s
      i => s.setReg (0x9050 + 4 * (9 * p.val + i)) (BitVec.ofNat 32 (leAt (chars.take 33) (4 * i) 4))) s).put
      (CRD_PSTAT_ATRLEN p.val) (chars.take 33).length).modCard p.val (fun c => { c with atr := chars.take 33 })) ∧
    (∃ (s : State) (p : Fin 2) (chars : List Byte) (u : State), (s.card p.val).ph = .window ∧ (readAtr chars).ok = true ∧
      (readAtr chars).t15 = none ∧ u = (((upTo 9).foldl (fun s i => s.setReg (0x9050 + 4 * (9 * p.val + i)) (BitVec.ofNat
      32 (leAt (chars.take 33) (4 * i) 4))) s).put (CRD_PSTAT_ATRLEN p.val) (chars.take 33).length).modCard p.val (fun c
      => { c with atr := chars.take 33 })) ∧
    (∃ (s : State) (p : Fin 2), (s.card p.val).ph = .window) ∧
    (∃ (s : State) (p : Fin 2) (k : Nat), (s.card p.val).ph = .gap ∧ s.nextClass p.val = some k) ∧
    (∃ (s : State) (p : Fin 2), (s.card p.val).ph = .pps) ∧
    (∃ (s : State) (p : Fin 2), (s.card p.val).ph = .pps ∧ s.on (CRD_PCFG0_PPS_FB p.val) = false ∧ (s.card p.val).warm =
      false) ∧
    (∃ (s : State) (p : Fin 2), (s.card p.val).ph = .run ∧ (s.card p.val).exch ≠ none ∧ s.get (CRD_PARAM0_PROTO p.val) =
      1) ∧
    (∃ (s : State) (p : Fin 2), (s.card p.val).ph = .run ∧ (s.card p.val).exch ≠ none ∧ s.get (CRD_PARAM0_PROTO p.val) ≠
      1) ∧
    (∃ (s : State) (p : Fin 2) (chars : List Byte) (pcb : Nat) (inf : List Byte), s.rst.core = true ∧ (s.card p.val).ph =
      .run ∧ (s.card p.val).exch ≠ none ∧ s.get (CRD_PARAM0_PROTO p.val) = 1 ∧ s.blockOf p.val chars = .ok (pcb, inf)) ∧
    (∃ (s : State) (p : Fin 2), s.rst.core = true ∧ (s.card p.val).ph = .run ∧ (s.card p.val).exch ≠ none ∧ s.get
      (CRD_PARAM0_PROTO p.val) ≠ 1) ∧
    (∃ (s : State) (p : Fin 2) (ind : Nat), ind = ((readAtr (s.card p.val).atr).t15.getD 0) / 64 % 4 ∧ s.cdSt p.val =
      cdACTIVE ∧ s.coreRuns = true ∧ s.on (CRD_PCFG0_CSTOP_EN p.val) = true ∧ ind ≠ 0 ∧ (s.card p.val).exch = none ∧
      (s.card p.val).queue = [] ∧ (s.card p.val).exclQ = [] ∧ s.on (sessExcl p.val) = false ∧ s.due ((s.card
      p.val).idleTick + 1 + s.get (CRD_PCFG2_CSTOP_IDLE p.val)) = true) ∧
    (∃ (s : State) (p : Fin 2) (u : State), s.on (sessExcl p.val) = true ∧ s.due (s.card p.val).exclEnd = true ∧ u =
      { s with crd := { s.crd with sess := s.crd.sess.map fun (x : Sess) => if x.handle == s.get (sessExHandle p.val) then { x with expired := true } else x } }) :=
  ⟨⟨State.reset, 1, by decide, by decide⟩,
    ⟨(sets State.reset [(CRD_PSTAT_PRESENT 1, 1)]), 1, by decide⟩,
    ⟨(live.modCard 1 fun c => { c with vcc := true }), 1, by decide, by decide⟩,
    ⟨(live.modCard 1 fun c => { c with vcc := true }), 1, by decide⟩,
    ⟨(live.modCard 1 fun c => { c with ph := .settle }), 1, by decide⟩,
    ⟨(live.modCard 1 fun c => { c with ph := .reset }), 1, by decide⟩,
    ⟨(live.modCard 1 fun c => { c with ph := .window }), 1, [0x3B, 0], _, by decide, rfl⟩,
    ⟨(live.modCard 1 fun c => { c with ph := .window }), 1, [0x3B, 0], _, by decide, by decide, by decide, rfl⟩,
    ⟨(live.modCard 1 fun c => { c with ph := .window }), 1, by decide⟩,
    ⟨(sets (live.modCard 1 fun c => { c with ph := .gap }) [(CRD_PCFG0_CLASSMASK 1, 7)]), 1, 2, by decide, by decide⟩,
    ⟨(live.modCard 1 fun c => { c with ph := .pps }), 1, by decide⟩,
    ⟨(sets (live.modCard 1 fun c => { c with ph := .pps }) [(CRD_PCFG0_PPS_FB 1, 0)]), 1, by decide, by decide,
      by decide⟩,
    ⟨(sets (live.modCard 1 fun c =>
      { c with ph := .run, exch := some ⟨.auth false, [], [], [], 0, 0, none, [], 0, 0, 0, false⟩ }) [(CRD_PARAM0_PROTO
      1, 1)]), 1, by decide, by decide, by decide⟩,
    ⟨(live.modCard 1 fun c =>
      { c with ph := .run, exch := some ⟨.auth false, [], [], [], 0, 0, none, [], 0, 0, 0, false⟩ }), 1, by decide,
      by decide, by decide⟩,
    ⟨(sets (live.modCard 1 fun c =>
      { c with ph := .run, exch := some ⟨.auth false, [], [], [], 0, 0, none, [], 0, 0, 0, false⟩ }) [(CRD_PARAM0_PROTO
      1, 1)]), 1, [0, 0x81, 0, 0x81], 0x81, [], by decide, by decide, by decide, by decide, rfl⟩,
    ⟨(live.modCard 1 fun c =>
      { c with ph := .run, exch := some ⟨.auth false, [], [], [], 0, 0, none, [], 0, 0, 0, false⟩ }), 1, by decide,
      by decide, by decide, by decide⟩,
    ⟨(sets (({ live with tb := { live.tb with ticks := 10 } } : State).modCard 1 fun c =>
      { c with atr := [0x3B, 0x80, 0x80, 0x1F, 0xC0, 0xDF] }) [(CRD_PSTAT_STATE 1, cdACTIVE), (CRD_PCFG0_CSTOP_EN 1, 1),
      (CRD_PCFG2_CSTOP_IDLE 1, 0)]), 1, _, rfl, by decide, by decide, by decide, by decide, by decide, by decide,
      by decide, by decide, by decide⟩,
    ⟨(sets live [(sessExcl 1, 1)]), 1, _, by decide, by decide, rfl⟩⟩

/-- States and operands that meet the hypotheses of LampEventCommandsComplete. -/
theorem witness_LampEventCommandsComplete :
    (∃ (s : State), s.tb.frame.toNat % 8 = 0) ∧
    (∃ (s : State) (c : Fin 8) (ua mv : Nat) (u : State) (k : Nat), s.lampRuns c.val = true ∧ onTime16 ≤ (s.lamp
      c.val).onTime ∧ s.tb.frame.toNat % 8 = 0 ∧ (s.lamp c.val).sampleAt ≠ s.tb.ticks ∧ s.lampFind c.val ua mv = .short ∧
      s.get (LMP_STAT_DIAG c.val) ≠ diagSHORT ∧ k = (if (s.lamp c.val).last = some .short then min 2 ((s.lamp c.val).run
      + 1) else 1) ∧ u = s.modLamp c.val (fun l => { l with last := some .short, run := k, sampleAt := s.tb.ticks })) ∧
    (∃ (s : State) (c : Fin 8) (ua mv : Nat) (u : State), s.lampRuns c.val = true ∧ onTime16 ≤ (s.lamp c.val).onTime ∧
      s.tb.frame.toNat % 8 = 0 ∧ (s.lamp c.val).sampleAt ≠ s.tb.ticks ∧ s.lampFind c.val ua mv = .open_ ∧ s.get
      (LMP_STAT_DIAG c.val) ≠ diagOPEN ∧ (s.lamp c.val).last = some .open_ ∧ (s.lamp c.val).run = 1 ∧ u = s.modLamp c.val
      (fun l => { l with last := some .open_, run := 2, sampleAt := s.tb.ticks })) ∧
    (∃ (s : State) (c : Fin 8), s.lampRuns c.val = true ∧ s.get (LMP_STAT_DIAG c.val) = diagOK ∧ (s.lamp c.val).sampleAt
      + 512 < s.tb.ticks) :=
  ⟨⟨State.reset, by decide⟩,
    ⟨{ (sets State.reset [(LMP_CFG_EN 7, 1), (LMP_CFG_CURRENT 7, 1)]) with lamps := State.reset.lamps.map fun (l : Lamp) => { l with onTime := 65536, last := some .open_, run := 1, sampleAt := 9 } },
      7, 500, 4501, _, _, by decide, by decide, by decide, by decide, by decide, by decide, rfl, rfl⟩,
    ⟨{ (sets State.reset [(LMP_CFG_EN 7, 1), (LMP_CFG_CURRENT 7, 1)]) with lamps := State.reset.lamps.map fun (l : Lamp) => { l with onTime := 65536, last := some .open_, run := 1, sampleAt := 9 } },
      7, 499, 299, _, by decide, by decide, by decide, by decide, by decide, by decide, by decide, by decide, rfl⟩,
    ⟨(sets { State.reset with tb := { State.reset.tb with ticks := 513 } } [(LMP_CFG_EN 7, 1), (LMP_STAT_DIAG 7,
      diagOK)]), 7, by decide, by decide, by decide⟩⟩

/-- States and operands that meet the hypotheses of DomainCommandsComplete. -/
theorem witness_DomainCommandsComplete :
    (∃ (s u : State), s.downReady = true ∧ s.rst.downFor = some .heartbeat ∧ u = (upTo 2).foldl (fun t p => t.cardDown p)
      (s.holdAll 5 (some 0x53) (fun _ => true) (fun _ => true)).storeDrainAll) ∧
    (∃ (s : State) (t : Nat) (d : DownFor), s.rst.downEnd = some t ∧ s.rst.downFor = some d ∧ s.due t = true ∧ s.bmvBusy
      = false) ∧
    (∃ (s v : State), s.rst.core = true ∧ s.coreLost 0x64 = (v, 0)) ∧
    (∃ (s v : State) (n : Nat), s.rst.core = true ∧ s.coreLost 0x64 = (v, n) ∧ n ≠ 0) ∧
    (∃ (s : State) (src : Fin 5), s.rst.low = false ∧ s.rst.vault = false ∧ bitOf (s.get RST_WAKECFG_SOURCES) src.val =
      true ∧ (s.get RST_PSTATE_STATE = 1 ∨ s.get RST_PSTATE_STATE = 2) ∧ s.wakeCond src.val = true) ∧
    (∃ (s u v : State) (row : Nat), s.rst.adopt = true ∧ s.rst.low = false ∧ s.rst.vault = false ∧ s.phase 4 = true ∧
      s.due (s.rst.warmTick + 8) = true ∧ u =
      { s with rst := { s.rst with adopt := false }, pins := { s.pins with held := false } } ∧
      u.adoptFront.adoptRails.adoptSeq = (v, row)) ∧
    (∃ (s v : State) (n : Nat), s.rst.core = true ∧ s.coreLost 0x64 = (v, n)) ∧
    (∃ (s : State), s.snt.boot = 5 ∧ s.on RST_CORECTL_CORE_EN = true ∧ s.rst.core = false ∧ s.due s.snt.bootEnd = true) ∧
    (∃ (s : State) (a b c : Nat) (u w v : State), s.snt.boot = 5 ∧ s.on RST_CORECTL_CORE_EN = true ∧ s.rst.core = false ∧
      s.rst.low = false ∧ suppliesOk a b c = true ∧ u = (s.putB RST_RETSTAT_CFG_OK true).putB RST_RETSTAT_ITEM_OK true ∧
      w =
      { u.put RST_CORECTL_STARTED 1 with rst := { u.rst with core := true, retained := false, retBuilt := true }, snt := { u.snt with boot := 6, bootEnd := u.after 400, slotB := u.on SNT_BOOTCFG_PREF, second := false } }
      ∧ v = (((((w.setReg 0x3804 0).put SNT_BOOTSTAT0_FAIL_A 11).put SNT_BOOTSTAT0_FAIL_B 11).setReg 0x3808 0).setReg
      0x380C 0).orphanAll.unholdAll 32 (fun _ => true) (fun _ => true)) ∧
    (∃ (a b c : Nat), suppliesOk a b c = false) ∧
    (∃ (s : State) (b : List Byte) (u : State), s.snt.boot = 6 ∧ s.rst.core = true ∧ s.due s.snt.bootEnd = false ∧ u =
      { s with snt := { s.snt with locked := 256 + (imageOf b).body.length } } ∧ u.serviceCode (imageOf b) = 0) ∧
    (∃ (s : State) (b : List Byte) (u : State), s.snt.boot = 6 ∧ s.rst.core = true ∧ s.due s.snt.bootEnd = false ∧ u =
      { s with snt := { s.snt with locked := 256 + (imageOf b).body.length } } ∧ u.serviceCode (imageOf b) ≠ 0) ∧
    (∃ (s : State), s.snt.boot = 6 ∧ s.rst.core = true ∧ s.due s.snt.bootEnd = false) ∧
    (∃ (s : State), s.snt.boot = 6 ∧ s.rst.core = true ∧ s.due s.snt.bootEnd = true) :=
  ⟨⟨{ State.reset with rst := { State.reset.rst with core := true, downFor := some .heartbeat } }, _, by decide,
      by decide, rfl⟩,
    ⟨{ State.reset with rst := { State.reset.rst with downEnd := some 0, downFor := some .heartbeat } }, 0, .heartbeat,
      by decide, by decide, by decide, by decide⟩,
    ⟨live, _, by decide, rfl⟩,
    ⟨{ live with cch := { live.cch with stores := [⟨16, 0, []⟩] } }, _, 1, by decide, rfl, by decide⟩,
    ⟨(sets State.reset [(RST_WAKECFG_SOURCES, 1), (RST_PSTATE_STATE, 1)]), 0, by decide, by decide, by decide, by decide,
      by decide⟩,
    ⟨{ State.reset with tb := { State.reset.tb with ticks := 8 }, rst := { State.reset.rst with adopt := true } }, _, _,
      _, by decide, by decide, by decide, by decide, by decide, rfl, ((Prod.eta _).symm)⟩,
    ⟨live, _, _, by decide, rfl⟩,
    ⟨{ State.reset with tb := { State.reset.tb with ticks := 64 } }, by decide, by decide, by decide, by decide⟩,
    ⟨State.reset, 760, 1710, 3135, _, _, _, by decide, by decide, by decide, by decide, by decide, rfl, rfl, rfl⟩,
    ⟨759, 1800, 3300, by decide⟩,
    ⟨{ keyed live with snt := { (keyed live).snt with boot := 6, bootEnd := 5 } }, serviceImage, _, by decide, by decide,
      by decide, rfl, by decide +kernel⟩,
    ⟨{ keyed live with snt := { (keyed live).snt with boot := 6, bootEnd := 5 } }, [], _, by decide, by decide,
      by decide, rfl, by decide⟩,
    ⟨{ keyed live with snt := { (keyed live).snt with boot := 6, bootEnd := 5 } }, by decide, by decide, by decide⟩,
    ⟨{ live with snt := { live.snt with boot := 6, bootEnd := 0 } }, by decide, by decide, by decide⟩⟩

/-- States and operands that meet the hypotheses of ResetCommandsComplete. -/
theorem witness_ResetCommandsComplete :
    (∃ (s : State) (i : ColdIn) (trig : Nat) (u : State) (found : Store) (closed : Option Nat) (img : Option (List (Nat ×
      Word))) (t : State), trig = (if s.rst.vault && s.rst.vbat then 2 else 1) ∧ u = (if s.rst.vbat then s else
      s.batLost) ∧ found = u.storeFound i ∧ closed = (if u.on SNT_AUTHSTAT0_OPEN && found.dir.isSome then some (u.get
      SNT_AUTHSTAT0_KEY) else none) ∧ img = (if found.dir.isSome then found.nvMram else none) ∧ t = (u.coldBase i
      trig).coldLoad img trig) ∧
    (∃ (s u : State), s.rst.low = false ∧ s.rst.vault = false ∧ u = s.warmBegin 3) ∧
    (∃ (s : State), s.rst.low = true ∧ s.due (s.rst.lowFrom + 17) = true) ∧
    (∃ (s : State), s.rst.low = true) ∧
    (∃ (s : State), s.rst.low = false ∧ s.rst.vault = false) ∧
    (∃ (s : State), s.rst.low = false ∧ s.rst.vault = false ∧ s.rst.gated = false ∧ 16 ≤ s.tb.wdRun) ∧
    (∃ (s : State), s.rst.low = false ∧ s.rst.vault = false ∧ s.rst.gated = false) :=
  ⟨⟨State.reset, ⟨0, []⟩, _, _, _, _, _, _, rfl, rfl, rfl, rfl, rfl, rfl⟩,
    ⟨State.reset, _, by decide, by decide, rfl⟩,
    ⟨{ State.reset with tb := { State.reset.tb with ticks := 17 }, rst := { State.reset.rst with low := true } },
      by decide, by decide⟩,
    ⟨{ State.reset with rst := { State.reset.rst with low := true } }, by decide⟩,
    ⟨State.reset, by decide, by decide⟩,
    ⟨{ State.reset with tb := { State.reset.tb with wdRun := 16 } }, by decide, by decide, by decide, by decide⟩,
    ⟨State.reset, by decide, by decide, by decide⟩⟩

/-- States and operands that meet the hypotheses of VaultCommandsComplete. -/
theorem witness_VaultCommandsComplete :
    (∃ (s u : State), s.rst.vault = false ∧ s.rst.vbat = true ∧ u = s.releaseOutputs) ∧
    (∃ (s : State) (high : Bool) (u : State), s.rst.tamper ≠ high ∧ u = { s with rst := { s.rst with tamper := high } } ∧
      u.on RST_VAULTSTAT0_TAMPER = true) ∧
    (∃ (s : State) (high : Bool) (u : State), s.rst.tamper ≠ high ∧ u = { s with rst := { s.rst with tamper := high } } ∧
      u.on RST_VAULTSTAT0_TAMPER = false) ∧
    (∃ (s : State), s.rst.vault = true ∧ s.on RST_VAULTSTAT0_WAKE = false) ∧
    (∃ (s : State), s.rst.vbat = true ∧ s.rst.vault = false) ∧
    (∃ (s : State), s.rst.vbat = true ∧ s.rst.vault = true) ∧
    (∃ (s : State), s.rst.vbat = false) ∧
    (∃ (s : State), s.rst.vault = true) :=
  ⟨⟨State.reset, _, by decide, by decide, rfl⟩,
    ⟨(sets State.reset [(RST_VAULTSTAT0_TAMPER, 1)]), false, _, by decide, rfl, by decide⟩,
    ⟨State.reset, false, _, by decide, rfl, by decide⟩,
    ⟨{ State.reset with rst := { State.reset.rst with vault := true } }, by decide, by decide⟩,
    ⟨State.reset, by decide, by decide⟩,
    ⟨{ State.reset with rst := { State.reset.rst with vault := true } }, by decide, by decide⟩,
    ⟨{ State.reset with rst := { State.reset.rst with vbat := false } }, by decide⟩,
    ⟨{ State.reset with rst := { State.reset.rst with vault := true } }, by decide⟩⟩

/-- States and operands that meet the hypotheses of TickAndWriteComplete. -/
theorem witness_TickAndWriteComplete :
    (∃ (s u : State), s.rst.vault = false ∧ s.rst.low = false ∧ s.asleep = false ∧ u = s.opened.frameAccount.tickCommit) ∧
    (∃ (s : State), s.rst.vault = false ∧ s.rst.low = true) ∧
    (∃ (s : State), s.rst.vault = false ∧ s.rst.low = false ∧ s.asleep = true) ∧
    (∃ (s : State) (who : Sender) (off k : Nat) (r : RReg), s.rst.vault = false ∧ s.rst.low = false ∧ s.writeKey who off
      = some k ∧ s.reaches who = true ∧ s.keyRuns k = true ∧ ownCommand k = false ∧ s.ringLocked k = false ∧ findReg k =
      some r) :=
  ⟨⟨State.reset, _, by decide, by decide, by decide, rfl⟩,
    ⟨{ State.reset with rst := { State.reset.rst with low := true } }, by decide, by decide⟩,
    ⟨(sets State.reset [(RST_PSTATE_STATE, 2)]), by decide, by decide, by decide⟩,
    ⟨live, .owner .hpa, 0x1000, 0x1000, _, by decide, by decide, by decide, by decide, by decide, by decide, by decide,
      rfl⟩⟩

/-- A state with one waiting command, and one with none. -/
theorem witness_StepRunsTheFrontCommand : ∃ (s : State) (c : Instr) (rest : List Instr), s.pending = c :: rest :=
  ⟨State.reset.push .ovrClr, _, _, rfl⟩
theorem witness_EmptyQueueIdles : ∃ s : State, s.pending = [] := ⟨State.reset, rfl⟩

/-- A step from a state in canonical form with every unit. -/
theorem witness_StepKeepsCanonicalForm : ∃ s t, Sound s ∧ step s = .next t :=
  ⟨State.reset.push .ovrClr, _, by unfold Sound; decide, rfl⟩
theorem witness_StepKeepsUnits : ∃ s t, Whole s ∧ step s = .next t :=
  ⟨State.reset.push .ovrClr, _, by unfold Whole; decide, rfl⟩

/-- A command within a frame, and a tick. -/
theorem witness_TimeWithinAFrame :
    ∃ (c : Instr) (s t : State), (∀ f, c ≠ .frameTick f) ∧ (∀ i, c ≠ .coldReset i) ∧ exec c s = .next t ∧
      s.tb.frame.toNat + 1 < 2 ^ 40 :=
  ⟨.ovrClr, State.reset, _, fun _ h => (nomatch h), fun _ h => (nomatch h), rfl, by decide⟩
theorem witness_TickAdvancesTheFrame : ∃ (f : FrameIn) (s t : State), s.rst.vault = false ∧ exec (.frameTick f) s = .next t :=
  ⟨⟨6, 0, [], [], [], 0, 0, 0, 0, 0, 0, none, 0, 0, 0, [], false, false, false, false, true⟩, State.reset, _, rfl, rfl⟩

/-- A lamp level of 4,096 fails check 7 of a command that Sentinel serves, a CCH_INVAL of scope 4 of one it does not; a tag
without a command. -/
theorem witness_FailingCheckCarriesOutNothing : ∀ fwd,
    ∃ (i : Instr) (s : State) (t : Tag) (op : Nat) (d : Cmd) (st : Nat), ringCmd i = some (t, op) ∧ s.cmd t = some d ∧
      d.entry.op.toNat = op ∧ s.mayRun d = true ∧ (s.hst.pri.any fun q => q.tgt == .buf t) = false ∧
      s.cmdCheck d.ring d.entry = some st ∧ opFwd op = fwd :=
  fun fwd => match fwd with
  | true => ⟨.lampSet 0, State.ready live .sub 0x60 [0, 4096], 0, 0x60, _, 0x13, rfl, rfl, by decide, by decide, by decide,
      by decide, by decide⟩
  | false => ⟨.cchInval 0, State.ready live .sub 0x36 [4, 0, 0], 0, 0x36, _, 0x13, rfl, rfl, by decide, by decide, by decide,
      by decide, by decide⟩
theorem witness_WrongOpcodeDoesNothing :
    ∃ (i : Instr) (s : State) (t : Tag) (op : Nat), ringCmd i = some (t, op) ∧
      ∀ d, s.cmd t = some d → d.entry.op.toNat ≠ op :=
  ⟨.nop 0, State.reset, 0, 0, rfl, fun d h => by cases (show (none : Option Cmd) = some d from h)⟩

/-- A state without captures, and a VF's port. -/
theorem witness_TimestampCapture :
    (∃ (s : State) (fn : ReadFn), ∀ c ∈ s.tb.tsCaps, c.1 ≠ fn) ∧ (∃ (s : State) (g fn : ReadFn), g ≠ fn ∧
      s.tb.tsCaps.any (fun c => decide (c.1 = g)) = true) ∧ ∃ (s : State) (p : Port) (v : Fin 16), s.portOf (some v) = p :=
  ⟨⟨State.reset, .smb, by decide⟩,
    ⟨{ State.reset with tb := { State.reset.tb with tsCaps := [(.smb, 0)] } }, .smb, .vf 15, by decide, by decide⟩,
    ⟨State.reset, _, 15, rfl⟩⟩

/-- Each of the four pairs of R433. -/
theorem witness_PairCapture : ∀ pr : CapPair, ∃ lo hi : Nat, (pr, lo, hi) ∈ [(CapPair.ovrstat, 0x1018, 0x101C),
    (.etot, 0x6060, 0x6064), (.vault0, 0x3001C, 0x30020), (.vault1, 0x30024, 0x30028)]
  | .ovrstat => ⟨0x1018, 0x101C, by decide⟩
  | .etot => ⟨0x6060, 0x6064, by decide⟩
  | .vault0 => ⟨0x3001C, 0x30020, by decide⟩
  | .vault1 => ⟨0x30024, 0x30028, by decide⟩

/-- A frame that overran at its last abandoned phase and at its first, and one that did not. -/
theorem witness_OverrunsAreCounted :
    (∃ s : State, regsWf s = true ∧ s.overran = true ∧ s.tb.done = 4) ∧
    (∃ s : State, regsWf s = true ∧ s.overran = true ∧ s.tb.done = 1) ∧
    ∃ s : State, regsWf s = true ∧ s.overran = false :=
  ⟨⟨{ State.reset with tb := { State.reset.tb with done := 4 } }, by decide, by decide, rfl⟩,
    ⟨{ State.reset with tb := { State.reset.tb with done := 1 } }, by decide, by decide, rfl⟩,
    ⟨State.reset, by decide, by decide⟩⟩

/-- CCH_INVAL with each scope, and with a scope above 3. -/
theorem witness_CacheInvalidationScopes :
    (∀ k : Fin 4, ∃ s t c u, Starts s t 0x36 c u ∧ c.p 0 = k.val) ∧
    (∃ (s : State) (ring : RingId) (e : SqEntry), e.op.toNat = 0x36 ∧ s.permCheck ring e = none ∧ 3 < SqEntry_param e 0) ∧
    ∃ s : State, s.ownerReach = true :=
  ⟨fun k => ⟨State.ready live .sub 0x36 [k.val, 0, 0], 0, _, _, starts_of (by revert k; decide), by revert k; decide⟩,
    ⟨State.reset, .sub, entry 0x36 [4, 0, 0] 0, by decide, by decide, by decide⟩, ⟨live, by decide⟩⟩

/-- Write indexes before and at the ring's end. -/
theorem witness_CompletionEntry :
    (∃ s : State, regsWf s = true ∧
      s.get (RNG_CQTAIL_WR (ringKey .sub)) + 1 < ringSize (s.get (RNG_CQSIZE_LOG2 (ringKey .sub)))) ∧
    ∃ s : State, regsWf s = true ∧
      ringSize (s.get (RNG_CQSIZE_LOG2 (ringKey .sub))) ≤ s.get (RNG_CQTAIL_WR (ringKey .sub)) + 1 :=
  ⟨⟨sets State.reset [(RNG_CQSIZE_LOG2 (ringKey .sub), 4), (RNG_CQTAIL_WR (ringKey .sub), 14)], by decide, by decide⟩,
    ⟨sets State.reset [(RNG_CQSIZE_LOG2 (ringKey .sub), 4), (RNG_CQTAIL_WR (ringKey .sub), 15)], by decide, by decide⟩⟩

/-- Fifteen records wait, and sixteen. -/
theorem witness_EventBuffer :
    (∃ s : State, regsWf s = true ∧ s.st.evq.length < 16) ∧ ∃ s : State, regsWf s = true ∧ 16 ≤ s.st.evq.length :=
  ⟨⟨{ State.reset with st := { State.reset.st with evq := List.replicate 15 (resetEv 0 0 0) } }, by decide,
      by simp⟩,
    ⟨{ State.reset with st := { State.reset.st with evq := List.replicate 16 (resetEv 0 0 0) } }, by decide,
      by simp⟩⟩

/-- A field of a register, and one beside it. -/
theorem witness_CountersSaturate :
    ∃ (s : State) (f g : FRef), regsWf s = true ∧ f.lo + f.w ≤ 32 ∧ 0 < f.w ∧ g.lo + g.w ≤ 32 ∧
      (f.off ≠ g.off ∨ f.lo + f.w ≤ g.lo ∨ g.lo + g.w ≤ f.lo) :=
  ⟨State.reset, ⟨0x2004, 16, 16⟩, ⟨0x2004, 0, 9⟩, by decide, by decide, by decide, by decide, by decide⟩

/-- A write of RNG_SQBASE_LO of the Owner Submission ring (bits 31:12 are its field), and a bit outside it. -/
theorem witness_DirectWriteKeepsTheRest :
    ∃ (s : State) (who : Sender) (off : Nat) (v : Word) (t : State) (k i : Nat), regsWf s = true ∧
      s.writeKey who off = some k ∧ k ≠ 0x2008 ∧ k ≠ 0x30018 ∧ k < 0x100000 ∧ exec (.registerWrite who off v) s = .next t ∧
      ∀ f ∈ fieldsAt k, f.acc = .rw ∨ f.acc = .rw1c → ¬ (f.lo ≤ i ∧ i < f.lo + f.w) :=
  ⟨live, .owner .hpa, 0xB000, 0xFFFFFFFF, _, 0xB000, 11, by decide, rfl, by decide, by decide, by decide, rfl, by decide⟩

/-- A staged write, and the registers below and above the stage's block. -/
theorem witness_StagingLeavesSettings :
    ∃ (s : State) (o : Origin) (off : Nat) (v : Word) (t : State), regsWf s = true ∧
      exec (.stagedRegisterWrite o off v) s = .next t ∧
      ∀ j ∈ [0x1FFF, 0x2014], (j < 0x2000 ∨ 0x2014 ≤ j) ∧ j ≠ SNT_DENYCNT_COUNT.off ∧ j ≠ JNL_EVDROP_COUNT.off ∧
        j ≠ RNG_EVDROP_COUNT.off :=
  ⟨State.reset, .owner .hpa, 0xC000, 1, _, by decide, rfl, by decide⟩

/-- A VI's discard. -/
theorem witness_DiscardIsTheIssuersOnly :
    ∃ (s : State) (v : Fin 16) (t : State) (w : Who), regsWf s = true ∧ s.reaches (.vi v) = true ∧ s.frozen (some v) = false ∧
      exec (.chrCtlDiscard (.vi v)) s = .next t ∧ w ≠ some v ∧
      ∀ j ∈ [vfBase v.val + 0x17FF, vfBase v.val + 0x1814], j < vfBase v.val + 0x1800 ∨ vfBase v.val + 0x1814 ≤ j :=
  ⟨sets live [(HST_VIBIND_EN 15, 1)], 15, _, none, by decide, by decide, by decide, rfl, by decide, by decide⟩

/-- A VI's doorbells on the last subchannel and the last channel, which are not its own. -/
theorem witness_ForeignDoorbellChangesNoUnit :
    (∃ (s : State) (v : Fin 16) (c : Instr) (t : State), regsWf s = true ∧
      (∃ n : Fin 32, c = .scDoorbell (.vi v) n ∧ s.scOwner n.val ≠ some v) ∧ exec c s = .next t) ∧
    ∃ (s : State) (v : Fin 16) (c : Instr) (t : State), regsWf s = true ∧
      (∃ (n : Fin 16) (x : Word), c = .dcDoorbell (.vi v) n x ∧ s.dcOwner n.val ≠ some v) ∧ exec c s = .next t :=
  ⟨⟨sets live [(HST_VIBIND_EN 15, 1)], 15, _, _, by decide, ⟨31, rfl, by decide⟩, rfl⟩,
    ⟨sets live [(HST_VIBIND_EN 15, 1)], 15, _, _, by decide, ⟨15, 0, rfl, by decide⟩, rfl⟩⟩

/-- A descriptor of 8-byte lines at its first byte. -/
theorem witness_BurstLengths :
    ∃ (d : Desc) (p : Nat), 0 < d.srcLine ∧ 0 < d.dstLine ∧ p < d.total ∧ d.srcX = false ∧ d.dstX = false ∧ 8 ∣ p ∧
      8 ∣ d.srcLine ∧ 8 ∣ d.dstLine ∧ 8 ∣ d.src ∧ 8 ∣ d.dst ∧ 8 ∣ d.srcStride ∧ 8 ∣ d.dstStride :=
  ⟨⟨0, 0x10000, 8, 8, 8, 8, 1, 1, 0, 0, 0, 0⟩, 0, by decide, by decide, by decide, by decide, by decide, by decide, by decide,
    by decide, by decide, by decide, by decide, by decide⟩

/-- The last bytes of a partition of one block. -/
theorem witness_PartitionsAreSeparate :
    ∃ (s : State) (o a : Nat) (b : List Byte) (q off n : Nat), xmemWf s = true ∧ s.inPartition o a b.length = true ∧ q ≠ o ∧
      (off + n ≤ a ∨ a + b.length ≤ off) ∧ b.length = 8 :=
  ⟨State.reset.setXowner 63 3, 3, 1016, zeros 8, 4, 1008, 8, by decide, by decide, by decide, by decide, rfl⟩

/-! ## Well-formedness: each check refuses an ill-formed command -/

/-- A frame's inputs in which every phase ends. -/
def fullFrame : FrameIn :=
  ⟨6, 0, [64, 1024, 640, 256, 512, 1344], List.replicate 24 0, List.replicate 8 0, 0, 0, 0, 0, 0, 0, none, 0, 0, 0, [],
    false, false, false, false, true⟩

theorem test_wf_frame : wellFormed (.frameTick fullFrame) = true := by decide
theorem test_wf_frame_phases : wellFormed (.frameTick { fullFrame with done := 7 }) = false := by decide
theorem test_wf_frame_samples : wellFormed (.frameTick { fullFrame with fast := List.replicate 127 ⟨0, 0, 0⟩ }) = false :=
  by decide +kernel
theorem test_wf_frame_mask : wellFormed (.frameTick { fullFrame with staleVs := 2 ^ 24 }) = false := by decide
theorem test_wf_frame_rails : wellFormed (.frameTick { fullFrame with vs := [] }) = false := by decide
theorem test_wf_frame_code : wellFormed (.frameTick { fullFrame with vs := List.replicate 24 4096 }) = false := by decide
theorem test_wf_staged_offset : wellFormed (.stagedRegisterWrite (.owner .hpa) 0x6102 0) = false := by decide
theorem test_wf_write_offset : wellFormed (.registerWrite (.owner .hpa) 0x80000 0) = false := by decide
theorem test_wf_fetch_empty : wellFormed (.entryFetch []) = false := by decide
theorem test_wf_fetch_half : wellFormed (.entryFetch (zeros 96)) = false :=
  by decide +kernel
theorem test_wf_fetch : wellFormed (.entryFetch (zeros 256)) = true :=
  by decide +kernel
theorem test_wf_request : wellFormed (.mailboxRequest (.cmd 0 { entry 0 [] 0 with params := [] })) = false := by decide
theorem test_wf_timeout : wellFormed (.viServed .hpa 0 ⟨false, none, some 49⟩) = false := by decide
theorem test_wf_burst : wellFormed (.portBurst 0 { quietBurst with dev := zeros 65 }) = false := by decide
theorem test_wf_fill : wellFormed (.chainCacheFill (zeros 63) false) = false := by decide
theorem test_wf_descriptor : wellFormed (.descriptorFetch 0 (zeros 63)) = false := by decide
theorem test_wf_read : wellFormed (.bmvBurstRead 0 [] false) = false := by decide
theorem test_wf_slot : wellFormed (.serviceSlotVerify (some (zeros 255))) = false :=
  by decide +kernel
theorem test_wf_verify : wellFormed (.fwVerify 0 (some (zeros 255))) = false :=
  by decide +kernel
theorem test_wf_patch : wellFormed (.patchLoad 0 (zeros 255)) = false :=
  by decide +kernel
theorem test_wf_key : wellFormed (.keySet 0 (zeros 63)) = false := by decide
theorem test_wf_invalidation : wellFormed (.invalidationRequest .hpa 0 0 1 0) = false := by decide
theorem test_wf_diode : wellFormed (.diodeConversion 65536 0 0) = false := by decide

/-! ## Words and tables of the spec -/

/-- Table 10-9's check bytes, by the CRC of R250. -/
theorem test_cce_crc_nop_suspend : cceCrc ([0x09, 0x84] ++ zeros 5 ++ [0x42] ++ zeros 8) = 0x42 := by decide +kernel
theorem test_cce_crc_nop_chain : cceCrc ([0x09, 0x80] ++ zeros 14) = 0xDF := by decide +kernel
theorem test_cce_crc_wait : cceCrc ([0x0A, 0x80, 0, 0, 0, 0, 0x08, 0xC6] ++ zeros 8) = 0xC6 := by decide +kernel

/-- The WAIT of Table 10-9: code 0x0A, CHAIN, AUX 8. -/
theorem test_cce_wait_fields :
    cceOf ([0x0A, 0x80, 0, 0, 0, 0, 0x08, 0xC6] ++ zeros 8) = ⟨0x0A, 0x80, 0, 0, 8, 0⟩ := by decide

/-- Chapter 5's worked case: the posting 0xF15A is 86.5 degrees (1,384 sixteenths). -/
theorem test_linear11 : linear11 0xF15A = 1384 := by decide

/-- Chapter 5's worked case: 40 W over the grant at 0.5 % a watt is 20 %, duty 204. -/
theorem test_duty_power : (sets { State.reset with sup := { State.reset.sup with draw := 1540000 } }
    [(SUP_GRANT_W, 1500), (THM_THR_GAIN_P 0, 50)]).duty 0 = 204 := by decide

/-- Chapter 12's worked case: D1's fields, its bursts of 64 bytes, D0's of 48 and D2's of 96, and D2's last line. -/
def d1 : Desc := descOf (leBytes 8 0x490100000 ++ leBytes 8 0x400 ++ leBytes 4 0x40 ++ leBytes 4 0x1000 ++ leBytes 4 0x200 ++
  leBytes 4 0 ++ leBytes 2 8 ++ leBytes 2 1 ++ leBytes 2 0x11 ++ [0x49, 0] ++ leBytes 8 0x488000080 ++ zeros 16)
def d0 : Desc := ⟨0x490000000, 0, 48, 256, 576, 0, 12, 1, 0x10, 0x49, 0, 0x488000040⟩
def d2 : Desc := ⟨0, 0x490200000, 576, 0, 96, 128, 1, 6, 0x12, 0x05, 0, 0⟩

theorem test_descriptor_fields : d1.srcStride = 4096 ∧ d1.next = 0x488000080 ∧ d1.dstX = true ∧ d1.srcX = false ∧
    d1.link = true := by decide
theorem test_burst_source_line : d0.burstLen 0 = 48 ∧ d0.burstLen 528 = 48 ∧ d0.total = 576 := by decide
theorem test_burst_line_64 : d1.burstLen 64 = 64 ∧ d1.srcAt 128 = 0x490102000 := by decide
theorem test_burst_destination_line : d2.burstLen 0 = 96 ∧ d2.dstAt 480 = 0x490200280 := by decide

/-- Chapter 7's worked case: 0x0348_02F8 is OV 840 and UV 760. -/
theorem test_railwarn_fields :
    fieldOf 0x034802F8 (SUP_RAILWARN_OV_WARN 4).lo 16 = 840 ∧ fieldOf 0x034802F8 (SUP_RAILWARN_UV_WARN 4).lo 16 = 760 ∧
      (SUP_RAILWARN_OV_WARN 4).off = 0x6110 := by decide

/-- Chapter 2's worked case: frame 4,800,000 abandons phases 3 to 5. -/
def overrunFrame : State := { State.reset with tb := { State.reset.tb with done := 2, frame := 4800000 } }

theorem test_overrun : overrunFrame.frameAccount.get FRM_OVRCNT_COUNT = 1 ∧
    overrunFrame.frameAccount.get FRM_OVRSTAT1_PHASE = 3 ∧
    overrunFrame.frameAccount.get FRM_OVRSTAT0_FRAME = 4800000 := by decide

/-- Chapter 2's and chapter 12's ticks: the timestamp is the frame number over a 10-bit SUBFRAME. -/
theorem test_timestamp :
    ({ State.reset with tb := { State.reset.tb with frame := 4800001 } } : State).now = 0x124F80400 ∧
      ({ State.reset with tb := { State.reset.tb with frame := 110000 } } : State).now = 0x6B6C000 := by decide

/-- Table 17-2: BLINK_FAST is on for the first 1,000 of 2,000 frames; level 40 is on for 9.766 microseconds. -/
theorem test_blink_fast : patternLevel 2 800 999 = 800 ∧ patternLevel 2 800 1000 = 0 ∧ patternLevel 2 800 2000 = 800 := by decide
theorem test_lamp_on_time : onTimeOf 40 / 4096 = 9 := by decide

/-- R430's counters, at their top. -/
theorem test_counter_top : satInc 16 65535 = 65535 ∧ satInc 16 65534 = 65535 := by decide

/-- R199: a doorbell on another owner's subchannel is counted once. -/
theorem test_foreign_doorbell :
    (match exec (.scDoorbell (.vi 3) 5) (sets live [(HST_VIBIND_EN 3, 1)]) with
      | .next t => t.get HST_ERRSTAT_FOREIGN_DB
      | _ => 0) = 1 := by decide

/-- A command put at the queue's front is the one the step runs. -/
theorem test_step_front : step (State.reset.push .ovrClr) = exec .ovrClr State.reset := rfl

/-- The table gives no row bits, so no word spells a command. -/
theorem test_no_words : decodeTableWord 32 0 = none := by decide

end Sys2Proof.Tests
end

section
/-!
PROOF. A direct write of a register outside the VF mirrors and the MSI-X tables: what it changes of the register file, and
which bits of its own register (R7, R9).
-/

namespace Sys2Proof.Machine

/-! ## Bits of the word a direct write leaves -/

/-- Writing a field leaves the bits outside it. -/
theorem withField_getLsbD_outside {lo n i : Nat} (w : Word) (x : Nat) (hout : ¬ (lo ≤ i ∧ i < lo + n)) :
    (withField w lo n x).getLsbD i = w.getLsbD i := by
  rw [withField_getLsbD, if_neg hout]
  simpa using BitVec.lt_of_getLsbD

/-- Putting back a field of the old word changes no bit that the word still has from it. -/
theorem withField_fieldOf_getLsbD {old w : Word} {i : Nat} (lo n : Nat) (h : w.getLsbD i = old.getLsbD i) :
    (withField w lo n (fieldOf old lo n)).getLsbD i = old.getLsbD i := by
  by_cases hin : lo ≤ i ∧ i < lo + n
  · have hn : i - lo < n := by omega
    have hpos : lo + (i - lo) = i := by omega
    rw [withField_getLsbD, if_pos hin, fieldOf_testBit, hpos]
    simpa [hn] using BitVec.lt_of_getLsbD
  · rw [withField_getLsbD_outside w _ hin, h]

/-- Clearing the bits of a field that are written as 1 leaves the bits outside it. -/
theorem clearField_getLsbD_outside {lo n i : Nat} (w v : Word) (hout : ¬ (lo ≤ i ∧ i < lo + n)) :
    (w &&& ~~~ (v &&& fieldMask lo n)).getLsbD i = w.getLsbD i := by
  have hmask : (fieldMask lo n).getLsbD i = false := by
    rw [fieldMask_getLsbD, Bool.and_assoc, ← Bool.decide_and, decide_eq_false hout, Bool.and_false]
  rw [BitVec.getLsbD_and, BitVec.getLsbD_not, BitVec.getLsbD_and, hmask]
  simpa using BitVec.lt_of_getLsbD

/-- A field that is neither RW nor RW1C is put back as it was. -/
theorem writeField_of_not_writable (old v w : Word) {f : RField} (hrw : f.acc ≠ .rw) (h1c : f.acc ≠ .rw1c) :
    writeField old v w f = withField w f.lo f.w (fieldOf old f.lo f.w) := by
  unfold writeField
  split
  · contradiction
  · contradiction
  · rfl

/-- A bit that `f` does not let a direct write change stays as it was in the old word (R7). -/
theorem writeField_getLsbD {old v w : Word} {f : RField} {i : Nat} (h : w.getLsbD i = old.getLsbD i)
    (hf : f.acc = .rw ∨ f.acc = .rw1c → ¬ (f.lo ≤ i ∧ i < f.lo + f.w)) :
    (writeField old v w f).getLsbD i = old.getLsbD i := by
  by_cases hrw : f.acc = .rw
  · simp only [writeField, hrw]
    split
    · rw [withField_getLsbD_outside w _ (hf (.inl hrw)), h]
    · exact h
  · by_cases h1c : f.acc = .rw1c
    · simp only [writeField, h1c]
      rw [clearField_getLsbD_outside w v (hf (.inr h1c)), h]
    · rw [writeField_of_not_writable old v w hrw h1c]
      exact withField_fieldOf_getLsbD f.lo f.w h

/-- Of the register's word a direct write changes only bits of RW and RW1C fields: fields of other codes and reserved bits
stay (R7, R9). -/
theorem writeWord_getLsbD {k i : Nat} (old v : Word)
    (hi : ∀ f ∈ fieldsAt k, f.acc = .rw ∨ f.acc = .rw1c → ¬ (f.lo ≤ i ∧ i < f.lo + f.w)) :
    (writeWord k old v).getLsbD i = old.getLsbD i :=
  List.foldlRecOn (motive := fun w : Word => w.getLsbD i = old.getLsbD i) _ _ rfl
    fun _ hw f hf => writeField_getLsbD hw (hi f hf)

/-! ## The register file -/

variable {s t : State}

/-- A register that was written reads back what was written. -/
theorem State.reg_setReg_same (h : regsWf s = true) (k : Nat) (w : Word) : (s.setReg k w).reg k = w :=
  cellGet_set_same resetWord ((cellWf_iff resetWord s.regs).1 h).1 k w

/-- Every other register keeps its word. -/
theorem State.reg_setReg_other (h : regsWf s = true) {k j : Nat} (hj : j ≠ k) (w : Word) :
    (s.setReg k w).reg j = s.reg j :=
  cellGet_set_other resetWord ((cellWf_iff resetWord s.regs).1 h).1 hj w

/-- A value stored outside the VF mirrors and the MSI-X tables brings nothing with it, unless it is the selector of a staged
slot or the tamper status (R168, R419). -/
theorem State.afterWrite_eq_self (s : State) (who : Sender) {k : Nat} (hstage : k ≠ 0x2008) (htamper : k ≠ 0x30018)
    (hk : k < 0x100000) : s.afterWrite who k = s := by
  unfold State.afterWrite
  rw [if_neg hstage, if_neg htamper]
  cases who with
  | owner p =>
    have hb : ¬ msixBase none p.num ≤ k := by simp only [msixBase]; omega
    simp [hb]
  | debug => rfl
  | vi v =>
    have hm : k ≠ vfBase v.val + 0x1808 := by simp only [vfBase]; omega
    have hb : ¬ msixBase (some v.val) (s.portOf (some v)).num ≤ k := by simp only [msixBase]; omega
    simp [hm, hb]

/-- A direct write either is ignored or stores its register's word with what that brings. -/
theorem exec_registerWrite_cases {who : Sender} {off k : Nat} {v : Word} (hk : s.writeKey who off = some k)
    (h : exec (.registerWrite who off v) s = .next t) :
    t = s ∨ t = (s.setReg k (writeWord k (s.reg k) v)).afterWrite who k := by
  have e : execRegisterWrite who off v s = .next t := h
  simp only [execRegisterWrite, hk, Host.Outcome.next.injEq] at e
  split at e
  · exact .inl e.symm
  · exact .inr e.symm

/-- Settles O54: such a write is one `setReg` of its own key, by `State.afterWrite_eq_self`, and of that word every bit outside
the RW and RW1C fields stays, by induction over the register's fields. -/
theorem directWriteKeepsTheRest : Obligations.DirectWriteKeepsTheRest := by
  intro s who off v t k hwf hkey hstage htamper hk h
  obtain rfl | rfl := exec_registerWrite_cases hkey h
  · exact ⟨fun _ _ => rfl, rfl, fun _ _ => rfl⟩
  · rw [State.afterWrite_eq_self _ who hstage htamper hk]
    refine ⟨fun j hj => State.reg_setReg_other hwf hj _, rfl, fun i hi => ?_⟩
    rw [State.reg_setReg_same hwf]
    exact writeWord_getLsbD (s.reg k) v hi

end Sys2Proof.Machine
end

section
/-!
PROOF. What one command makes of the clock: inside a frame the frame number stays and the subframe never falls (R31, R51), and
a tick advances the frame number by one.
-/

namespace Sys2Proof.Machine

variable {s t u : State}

/-- Every command but FRAME_TICK and COLD_RESET answers a state that comes from the old one by operations inside one frame: one
arm per command, each its meaning's own lemma. -/
theorem exec_keeps (c : Instr) (s : State) (htick : ∀ f, c ≠ .frameTick f) (hcold : ∀ i, c ≠ .coldReset i) :
    ∃ t, exec c s = .next t ∧ Keeps s t := by
  have hs := Keeps.refl s
  cases c with
  | frameTick f => exact absurd rfl (htick f)
  | coldReset i => exact absurd rfl (hcold i)
  | sentinelWatchdogExpire => exact execSentinelWatchdogExpire_keeps hs
  | disciplineWindowEnd count => exact execDisciplineWindowEnd_keeps count hs
  | xtalFail => exact execXtalFail_keeps hs
  | xtalRestored => exact execXtalRestored_keeps hs
  | frameWrap => exact execFrameWrap_keeps hs
  | frmTsLoRead fn => exact execFrmTsLoRead_keeps fn hs
  | ovrClr => exact execOvrClr_keeps hs
  | phmaxClr => exact execPhmaxClr_keeps hs
  | sequenceStart => exact execSequenceStart_keeps hs
  | railEnable => exact execRailEnable_keeps hs
  | riseTimeout => exact execRiseTimeout_keeps hs
  | coolDownEnd => exact execCoolDownEnd_keeps hs
  | railDeassert => exact execRailDeassert_keeps hs
  | fallTimeout => exact execFallTimeout_keeps hs
  | swarmAdvance => exact execSwarmAdvance_keeps hs
  | swarmCatchup => exact execSwarmCatchup_keeps hs
  | swarmResync => exact execSwarmResync_keeps hs
  | swarmInvalidPulse => exact execSwarmInvalidPulse_keeps hs
  | swarmBeacon value own => exact execSwarmBeacon_keeps value own hs
  | joinTimeout => exact execJoinTimeout_keeps hs
  | nobeacon => exact execNobeacon_keeps hs
  | swarmRelease => exact execSwarmRelease_keeps hs
  | leaderAdvancePulse => exact execLeaderAdvancePulse_keeps hs
  | leaderResyncPulse => exact execLeaderResyncPulse_keeps hs
  | leaderBeaconSend => exact execLeaderBeaconSend_keeps hs
  | swarmStuck => exact execSwarmStuck_keeps hs
  | swctlResync => exact execSwctlResync_keeps hs
  | swctlRejoin => exact execSwctlRejoin_keeps hs
  | railctlRetry n => exact execRailctlRetry_keeps n hs
  | railFault n cause => exact execRailFault_keeps n cause hs
  | pfwLeadEnd => exact execPfwLeadEnd_keeps hs
  | busbarPresent => exact execBusbarPresent_keeps hs
  | busbarAbsent => exact execBusbarAbsent_keeps hs
  | hsChargeStart => exact execHsChargeStart_keeps hs
  | hsFullyEnhanced => exact execHsFullyEnhanced_keeps hs
  | inrushTmo => exact execInrushTmo_keeps hs
  | overcurrent => exact execOvercurrent_keeps hs
  | hsShort ma => exact execHsShort_keeps ma hs
  | soaTrip mj => exact execSoaTrip_keeps mj hs
  | reverseCurrent ma => exact execReverseCurrent_keeps ma hs
  | hsctlClr => exact execHsctlClr_keeps hs
  | interlockTrip mj => exact execInterlockTrip_keeps mj hs
  | shelfChange fail => exact execShelfChange_keeps fail hs
  | rideThroughEnd => exact execRideThroughEnd_keeps hs
  | dischargeStart => exact execDischargeStart_keeps hs
  | disFail => exact execDisFail_keeps hs
  | cocOvercap mv => exact execCocOvercap_keeps mv hs
  | onCocoon => exact execOnCocoon_keeps hs
  | collapse mv => exact execCollapse_keeps mv hs
  | snapshotWrite bad => exact execSnapshotWrite_keeps bad hs
  | diodeConversion uv temp tempCal => exact execDiodeConversion_keeps uv temp tempCal hs
  | thmFailClr => exact execThmFailClr_keeps hs
  | thmRemoteWrite p r v => exact execThmRemoteWrite_keeps p r v hs
  | srcStale r => exact execSrcStale_keeps r hs
  | almstatClear mask => exact execAlmstatClear_keeps mask hs
  | reservationLapse => exact execReservationLapse_keeps hs
  | lockstepMismatch => exact execLockstepMismatch_keeps hs
  | coreStartTimeout => exact execCoreStartTimeout_keeps hs
  | serviceSlotVerify img => exact execServiceSlotVerify_keeps img hs
  | slotTimeout => exact execSlotTimeout_keeps hs
  | mailboxRequest r => exact execMailboxRequest_keeps r hs
  | mailboxServe => exact execMailboxServe_keeps hs
  | heartbeatPost v => exact execHeartbeatPost_keeps v hs
  | heartbeatLost => exact execHeartbeatLost_keeps hs
  | hbRestartsClear => exact execHbRestartsClear_keeps hs
  | authVerify => exact execAuthVerify_keeps hs
  | authAttemptTimeout => exact execAuthAttemptTimeout_keeps hs
  | authExpire => exact execAuthExpire_keeps hs
  | authLockEnd => exact execAuthLockEnd_keeps hs
  | stagedRegisterWrite o off v => exact execStagedRegisterWrite_keeps o off v hs
  | chrCtlCheck who => exact execChrCtlCheck_keeps who hs
  | chrCtlCommit who => exact execChrCtlCommit_keeps who hs
  | chrCtlDiscard who => exact execChrCtlDiscard_keeps who hs
  | commitTake => exact execCommitTake_keeps hs
  | commitApply => exact execCommitApply_keeps hs
  | recordWrite stream bad => exact execRecordWrite_keeps stream bad hs
  | jnlReadSelect ofs v => exact execJnlReadSelect_keeps ofs v hs
  | linkUp p rate x2 => exact execLinkUp_keeps p rate x2 hs
  | hotReset p => exact execHotReset_keeps p hs
  | dlDown p => exact execDlDown_keeps p hs
  | failover p => exact execFailover_keeps p hs
  | perstAssert p => exact execPerstAssert_keeps p hs
  | pmeTurnOff p => exact execPmeTurnOff_keeps p hs
  | viOrphan p fn d3 => exact execViOrphan_keeps p fn d3 hs
  | viServed p fn cfg => exact execViServed_keeps p fn cfg hs
  | badAccess p fn bar2 off kind => exact execBadAccess_keeps p fn bar2 off kind hs
  | unboundAccess p v write => exact execUnboundAccess_keeps p v write hs
  | invalidationRequest p fn pasid lo hi => exact execInvalidationRequest_keeps p fn pasid lo hi hs
  | invalidationComplete p fn => exact execInvalidationComplete_keeps p fn hs
  | translationFault g addr write => exact execTranslationFault_keeps g addr write hs
  | pageRequestResponse g ok => exact execPageRequestResponse_keeps g ok hs
  | priTimeout g => exact execPriTimeout_keeps g hs
  | vfFlr p v => exact execVfFlr_keeps p v hs
  | pfFlr p => exact execPfFlr_keeps p hs
  | smbIdentity => exact execSmbIdentity_keeps hs
  | smbPowerState => exact execSmbPowerState_keeps hs
  | smbSeqState => exact execSmbSeqState_keeps hs
  | smbEnergy => exact execSmbEnergy_keeps hs
  | smbThermal => exact execSmbThermal_keeps hs
  | smbTimestamp => exact execSmbTimestamp_keeps hs
  | smbFaults => exact execSmbFaults_keeps hs
  | smbLastEvent => exact execSmbLastEvent_keeps hs
  | smbUnsupported cmd => exact execSmbUnsupported_keeps cmd hs
  | setEndpointId eid pec => exact execSetEndpointId_keeps eid pec hs
  | getEndpointId pec => exact execGetEndpointId_keeps pec hs
  | getMctpVersionSupport ty pec => exact execGetMctpVersionSupport_keeps ty pec hs
  | getMessageTypeSupport pec => exact execGetMessageTypeSupport_keeps pec hs
  | getVersion c => exact execGetVersion_keeps c hs
  | getCapabilities c req => exact execGetCapabilities_keeps c req hs
  | negotiateAlgorithms c req => exact execNegotiateAlgorithms_keeps c req hs
  | getDigests c req => exact execGetDigests_keeps c req hs
  | getCertificate c req => exact execGetCertificate_keeps c req hs
  | challenge c req => exact execChallenge_keeps c req hs
  | getMeasurements c req => exact execGetMeasurements_keeps c req hs
  | spdmUnsupported c req => exact execSpdmUnsupported_keeps c req hs
  | smbcfgWrite p v => exact execSmbcfgWrite_keeps p v hs
  | ringEnable r => exact execRingEnable_keeps r hs
  | ringDisable r => exact execRingDisable_keeps r hs
  | ringDrained r => exact execRingDrained_keeps r hs
  | sqDoorbell r v => exact execSqDoorbell_keeps r v hs
  | cqDoorbell r v => exact execCqDoorbell_keeps r v hs
  | entryFetch entries => exact execEntryFetch_keeps entries hs
  | fetchBusError => exact execFetchBusError_keeps hs
  | coalesceTimeout r => exact execCoalesceTimeout_keeps r hs
  | evDoorbell v => exact execEvDoorbell_keeps v hs
  | evsizeWrite v => exact execEvsizeWrite_keeps v hs
  | nop t => exact execNop_keeps t hs
  | identify t => exact execIdentify_keeps t hs
  | getTime t => exact execGetTime_keeps t hs
  | abort t => exact execAbort_keeps t hs
  | setEvmask t => exact execSetEvmask_keeps t hs
  | stageWrite t => exact execStageWrite_keeps t hs
  | stageBulk t data => exact execStageBulk_keeps t data hs
  | stageList t => exact execStageList_keeps t hs
  | check t => exact execCheck_keeps t hs
  | commit t => exact execCommit_keeps t hs
  | discard t => exact execDiscard_keeps t hs
  | grantSet t => exact execGrantSet_keeps t hs
  | powerOn t => exact execPowerOn_keeps t hs
  | powerOff t => exact execPowerOff_keeps t hs
  | railRetry t => exact execRailRetry_keeps t hs
  | swarmCtl t => exact execSwarmCtl_keeps t hs
  | quiesce t => exact execQuiesce_keeps t hs
  | resume t => exact execResume_keeps t hs
  | hsClear t => exact execHsClear_keeps t hs
  | snapshot t => exact execSnapshot_keeps t hs
  | stateReq t => exact execStateReq_keeps t hs
  | scStart t => exact execScStart_keeps t hs
  | scHalt t same => exact execScHalt_keeps t same hs
  | scResumeAt t => exact execScResumeAt_keeps t hs
  | scSuspend t same => exact execScSuspend_keeps t same hs
  | scResume t => exact execScResume_keeps t hs
  | scStatus t => exact execScStatus_keeps t hs
  | cchInval t => exact execCchInval_keeps t hs
  | cchDrain t => exact execCchDrain_keeps t hs
  | dcStart t => exact execDcStart_keeps t hs
  | dcAbort t same => exact execDcAbort_keeps t same hs
  | dcSuspend t same => exact execDcSuspend_keeps t same hs
  | dcResume t => exact execDcResume_keeps t hs
  | dcStatus t => exact execDcStatus_keeps t hs
  | bmvRestart t => exact execBmvRestart_keeps t hs
  | cardOpen t => exact execCardOpen_keeps t hs
  | cardClose t => exact execCardClose_keeps t hs
  | cardApdu t data => exact execCardApdu_keeps t data hs
  | cardExcl t => exact execCardExcl_keeps t hs
  | cardActivate t => exact execCardActivate_keeps t hs
  | cardDeactivate t => exact execCardDeactivate_keeps t hs
  | cardGetAtr t => exact execCardGetAtr_keeps t hs
  | cardSelftest t res => exact execCardSelftest_keeps t res hs
  | lampSet t => exact execLampSet_keeps t hs
  | lampPattern t => exact execLampPattern_keeps t hs
  | lampStatus t => exact execLampStatus_keeps t hs
  | thmRead t => exact execThmRead_keeps t hs
  | remotePost t => exact execRemotePost_keeps t hs
  | alarmClear t => exact execAlarmClear_keeps t hs
  | diodeClear t => exact execDiodeClear_keeps t hs
  | adcConvert t => exact execAdcConvert_keeps t hs
  | ledgerRead t => exact execLedgerRead_keeps t hs
  | logRead t more => exact execLogRead_keeps t more hs
  | logBounds t => exact execLogBounds_keeps t hs
  | fwWrite t data err more => exact execFwWrite_keeps t data err more hs
  | fwErase t err more => exact execFwErase_keeps t err more hs
  | fwVerify t img => exact execFwVerify_keeps t img hs
  | fwPrefer t => exact execFwPrefer_keeps t hs
  | fwActivate t => exact execFwActivate_keeps t hs
  | fwCommit t => exact execFwCommit_keeps t hs
  | patchLoad t img => exact execPatchLoad_keeps t img hs
  | authOpen t => exact execAuthOpen_keeps t hs
  | authClose t => exact execAuthClose_keeps t hs
  | authStatus t => exact execAuthStatus_keeps t hs
  | keySet t data => exact execKeySet_keeps t data hs
  | keyRevoke t => exact execKeyRevoke_keeps t hs
  | measure t => exact execMeasure_keeps t hs
  | echo t => exact execEcho_keeps t hs
  | adcCal t => exact execAdcCal_keeps t hs
  | mramBist t => exact execMramBist_keeps t hs
  | scDoorbell who n => exact execScDoorbell_keeps who n hs
  | cceFetch n => exact execCceFetch_keeps n hs
  | cceNop n => exact execCceNop_keeps n hs
  | cceWait n ph1 => exact execCceWait_keeps n ph1 hs
  | waitEnd n => exact execWaitEnd_keeps n hs
  | ccePost n => exact execCcePost_keeps n hs
  | cceJump n => exact execCceJump_keeps n hs
  | cceWrite n => exact execCceWrite_keeps n hs
  | cceRead n => exact execCceRead_keeps n hs
  | cceControl n => exact execCceControl_keeps n hs
  | cceSense n lv => exact execCceSense_keeps n lv hs
  | portBurst x b => exact execPortBurst_keeps x b hs
  | chainCacheFill bytes err => exact execChainCacheFill_keeps bytes err hs
  | storeDrain => exact execStoreDrain_keeps hs
  | cchInvalAll => exact execCchInvalAll_keeps hs
  | cchCtlDrain => exact execCchCtlDrain_keeps hs
  | cchCntClr => exact execCchCntClr_keeps hs
  | dcDoorbell who n v => exact execDcDoorbell_keeps who n v hs
  | descriptorFetch n bytes => exact execDescriptorFetch_keeps n bytes hs
  | bmvBurstGrant => exact execBmvBurstGrant_keeps hs
  | bmvBurstRead n data err => exact execBmvBurstRead_keeps n data err hs
  | writeResponse n ok => exact execWriteResponse_keeps n ok hs
  | bmvEngineStop n timeout => exact execBmvEngineStop_keeps n timeout hs
  | domainPowerDown => exact execDomainPowerDown_keeps hs
  | domainDeadline => exact execDomainDeadline_keeps hs
  | corePowerLoss => exact execCorePowerLoss_keeps hs
  | flashBusyTimeout x => exact execFlashBusyTimeout_keeps x hs
  | asCharacterReceived x c bad brk => exact execAsCharacterReceived_keeps x c bad brk hs
  | asReadIdleEnd x => exact execAsReadIdleEnd_keeps x hs
  | ibiReceived x addr payload => exact execIbiReceived_keeps x addr payload hs
  | dpHotjoin x addr => exact execDpHotjoin_keeps x addr hs
  | gpioEdge g high => exact execGpioEdge_keeps g high hs
  | sfdpDiscovery c words badWord => exact execSfdpDiscovery_keeps c words badWord hs
  | cardInsert p => exact execCardInsert_keeps p hs
  | cardEmergency p => exact execCardEmergency_keeps p hs
  | cardSupplyFault p short => exact execCardSupplyFault_keeps p short hs
  | cardAtr p chars parity gap => exact execCardAtr_keeps p chars parity gap hs
  | cardAtrWindowEnd p => exact execCardAtrWindowEnd_keeps p hs
  | cardClassNext p => exact execCardClassNext_keeps p hs
  | cardPpsResponse p resp => exact execCardPpsResponse_keeps p resp hs
  | cardWaitTimeout p => exact execCardWaitTimeout_keeps p hs
  | cardClockStop p => exact execCardClockStop_keeps p hs
  | cardExclExpired p => exact execCardExclExpired_keeps p hs
  | lampPeriodStart => exact execLampPeriodStart_keeps hs
  | lampDiagSample c ua mv => exact execLampDiagSample_keeps c ua mv hs
  | lampDiagStale c => exact execLampDiagStale_keeps c hs
  | lampClr c => exact execLampClr_keeps c hs
  | resetNLow => exact execResetNLow_keeps hs
  | resetNLong => exact execResetNLong_keeps hs
  | rstCtlWarm => exact execRstCtlWarm_keeps hs
  | rstCtlCore => exact execRstCtlCore_keeps hs
  | warmAdopt => exact execWarmAdopt_keeps hs
  | wakeEvent src => exact execWakeEvent_keeps src hs
  | vaultEnter => exact execVaultEnter_keeps hs
  | tamper high => exact execTamper_keeps high hs
  | vaultWake => exact execVaultWake_keeps hs
  | registerWrite who off v => exact execRegisterWrite_keeps who off v hs
  | vbatLoss => exact execVbatLoss_keeps hs
  | vbatFitted => exact execVbatFitted_keeps hs
  | rtcCrystalStop => exact execRtcCrystalStop_keeps hs
  | swarmBeaconGap => exact execSwarmBeaconGap_keeps hs
  | coreStarted cfgOk itemOk vdd08 vio18 vio33 => exact execCoreStarted_keeps cfgOk itemOk vdd08 vio18 vio33 hs
  | completionTimeout g addr => exact execCompletionTimeout_keeps g addr hs
  | resetNRelease => exact execResetNRelease_keeps hs
  | cardSupplySettled p => exact execCardSupplySettled_keeps p hs
  | cardRstRelease p => exact execCardRstRelease_keeps p hs
  | cardResponseReceived p chars parity => exact execCardResponseReceived_keeps p chars parity hs
  | pbBusIdle x => exact execPbBusIdle_keeps x hs
  | asCtsChange x high => exact execAsCtsChange_keeps x high hs
  | captureRead fn pr => exact execCaptureRead_keeps fn pr hs

/-- Settles O43: such a command's new state comes from the old one inside the frame, by `exec_keeps`, and `Keeps` says all four
parts. -/
theorem timeWithinAFrame : Obligations.TimeWithinAFrame := by
  intro c s t htick hcold h
  obtain ⟨u, hu, k⟩ := exec_keeps c s htick hcold
  obtain rfl : u = t := Host.Outcome.next.inj (hu.symm.trans h)
  exact ⟨k.frame, k.ticks, k.sub, k.now⟩

/-! ## The tick -/

@[simp] theorem State.tickAdvance_frame (s : State) (done : Nat) (e : Int) :
    (s.tickAdvance done e).tb.frame = s.tb.frame + 1 := rfl
@[simp] theorem State.tickAdvance_ticks (s : State) (done : Nat) (e : Int) :
    (s.tickAdvance done e).tb.ticks = s.tb.ticks + 1 := rfl

/-- Operations inside a frame before and after its tick leave the advance by one. -/
theorem Keeps.advance {done : Nat} {e : Int} (h : Keeps s u) (k : Keeps (u.tickAdvance done e) t) :
    t.tb.frame = s.tb.frame + 1 ∧ t.tb.ticks = s.tb.ticks + 1 :=
  ⟨by rw [k.frame, State.tickAdvance_frame, h.frame], by rw [k.ticks, State.tickAdvance_ticks, h.ticks]⟩

/-- In SLEEP what follows the tick stays inside the frame. -/
theorem State.sleepFrame_keeps (s : State) (f : FrameIn) :
    Keeps (s.opened.frameAccount.tickAdvance 0 f.xtal) (s.sleepFrame f) :=
  (swSample_keeps f.swarmHigh (thmTick_keeps (put_keeps FRM_VIPTR_PTR (s.get FRM_VIPTR_PTR + 1) (Keeps.refl _)))).same rfl

/-- Settles O44: in reset the timer alone ticks, in SLEEP and in a working frame the account before the tick and the phases
after it stay inside their frames. -/
theorem tickAdvancesTheFrame : Obligations.TickAdvancesTheFrame := by
  intro f s t hvault h
  have hnext : execFrameTick f s = .next t := h
  simp only [execFrameTick, hvault, Bool.false_eq_true, if_false, Host.Outcome.next.injEq] at hnext
  have haccount := State.frameAccount_keeps (State.opened_keeps (Keeps.refl s))
  split at hnext
  case isTrue => exact hnext ▸ (Keeps.refl s).advance (Keeps.refl _)
  case isFalse =>
    split at hnext
    case isTrue => exact hnext ▸ haccount.advance (s.sleepFrame_keeps f)
    case isFalse => exact hnext ▸ (State.tickCommit_keeps haccount).advance (State.framePhases_keeps f (Keeps.refl _))

end Sys2Proof.Machine
end

section
/-!
PROOF. The captures of the timestamp's upper half (R36): what one reading function's read puts, and which resets drop it.
-/

namespace Sys2Proof.Machine

variable {s t : State} {fn : ReadFn}

/-! ## Captures by key -/

/-- The value captured for a key is found. -/
theorem find_capPut_same {α : Type} [DecidableEq α] (k : α) (v : Nat) (l : List (α × Nat)) :
    (capPut k v l).find? (fun c => decide (c.1 = k)) = some (k, v) := by
  have hnone : (l.filter fun c => c.1 != k).find? (fun c => decide (c.1 = k)) = none := by simp
  simp [capPut, List.find?_append, hnone]

/-- What is found for another key stays as it was. -/
theorem find_capPut_other {α : Type} [DecidableEq α] {k g : α} (hg : g ≠ k) (v : Nat) (l : List (α × Nat)) :
    (capPut k v l).find? (fun c => decide (c.1 = g)) = l.find? (fun c => decide (c.1 = g)) := by
  have hpred : (fun c : α × Nat => !decide (c.1 = k) && decide (c.1 = g)) = fun c => decide (c.1 = g) := by
    funext c
    by_cases hc : c.1 = g <;> simp [hc, hg]
  simp [capPut, List.find?_append, List.find?_filter, hpred, hg.symm]

/-- FRM_TS_HI returns a function's capture. -/
theorem State.tsHi_of_find {c : ReadFn × Nat} (h : s.tb.tsCaps.find? (fun c => decide (c.1 = fn)) = some c) :
    s.tsHi fn = c.2 := by
  simp only [tsHi, h]

/-- FRM_TS_HI returns the live upper half to a function without a capture. -/
theorem State.tsHi_of_no_capture (h : ∀ c ∈ s.tb.tsCaps, c.1 ≠ fn) : s.tsHi fn = s.now / 2 ^ 32 := by
  have hnone : s.tb.tsCaps.find? (fun c => decide (c.1 = fn)) = none := by simpa using h
  simp only [tsHi, hnone]

/-! ## Resets of a reading function -/

/-- A fold of operations that leave the timebase alone leaves it alone. -/
theorem foldl_tb {β : Type} {f : State → β → State} (hf : ∀ t x, (f t x).tb = t.tb) (l : List β) (s : State) :
    (l.foldl f s).tb = s.tb :=
  List.foldlRecOn (motive := fun t : State => t.tb = s.tb) l f rfl fun t ht x _ => (hf t x).trans ht

@[simp] theorem State.atcShow_tb (s : State) : s.atcShow.tb = s.tb := rfl

@[simp] theorem State.linksIdle_tb (s : State) : s.linksIdle.tb = s.tb := by
  unfold linksIdle
  have hport (t : State) (p : Port) :
      (((((t.put (linkF p) 0).put (rateF p) 0).put (widthF p) 0).put (d3F p) 0).put (idleF p) 1).tb = t.tb := by
    simp only [put_tb]
  exact (foldl_tb (fun t _ => t.put_tb _ _) _ _).trans (foldl_tb hport _ _)

@[simp] theorem State.stageShow_tb (s : State) (w : Who) : (s.stageShow w).tb = s.tb := by
  unfold stageShow
  dsimp only
  split <;> rfl

/-- A function whose captures are dropped has none. -/
theorem State.capDrop_no_capture {p : ReadFn → Bool} (hp : p fn = true) : ∀ c ∈ (s.capDrop p).tb.tsCaps, c.1 ≠ fn := by
  rintro c hc rfl
  simp [capDrop, hp] at hc

/-- A port's reset leaves the Owner's function on it without a capture. -/
theorem State.portReset_no_capture (s : State) (p : Port) (idle : Bool) :
    ∀ c ∈ (s.portReset p idle).tb.tsCaps, c.1 ≠ .owner p := by
  unfold portReset
  dsimp only
  rw [atcShow_tb]
  exact capDrop_no_capture (by simp [fnOn])

/-- A VF's reset on the port its VI is bound to leaves the VF without a capture. -/
theorem State.msixReset_no_capture {p : Port} {v : Fin 16} (hp : s.portOf (some v) = p) :
    ∀ c ∈ (s.msixReset (some v) p).tb.tsCaps, c.1 ≠ .vf v :=
  capDrop_no_capture (by simp [hp])

@[simp] theorem State.warmClear_tsCaps (s : State) (joined : Bool) (trig ts : Nat) (calBad : Option Nat) :
    (s.warmClear joined trig ts calBad).tb.tsCaps = [] := rfl

/-- A Warm reset leaves no function a capture. -/
theorem State.warmBegin_tsCaps (s : State) (trig : Nat) : (s.warmBegin trig).tb.tsCaps = [] := by
  unfold warmBegin
  extract_lets
  split
  extract_lets
  rw [journal_tb, put_tb, put_tb, linksIdle_tb, setReg_tb, foldl_tb stageShow_tb, warmClear_tsCaps]

/-- Settles O47: the read's own state answers the first part, its capture found by `find_capPut_same` and every other by
`find_capPut_other`; after a reset there is no capture to find. -/
theorem timestampCapture : Obligations.TimestampCapture := by
  refine ⟨fun s fn => ?_, fun _ _ => State.tsHi_of_no_capture, fun s p idle => ?_, fun s p v hp => ?_, fun s fn k => ?_⟩
  · have hcapture (u : State) (hu : u.tb.tsCaps = capPut fn (s.touch.now / 2 ^ 32) s.tb.tsCaps) :
        u.tsHi fn = s.touch.now / 2 ^ 32 :=
      State.tsHi_of_find (hu ▸ find_capPut_same fn _ _)
    refine ⟨_, rfl, rfl, hcapture _ rfl, fun g hg hany => ?_, hcapture⟩
    obtain ⟨c, hc⟩ : ∃ c, s.tb.tsCaps.find? (fun c => decide (c.1 = g)) = some c :=
      Option.isSome_iff_exists.1 (List.find?_isSome.2 (List.any_eq_true.1 hany))
    exact (State.tsHi_of_find ((find_capPut_other hg _ _).trans hc)).trans (State.tsHi_of_find hc).symm
  · exact State.tsHi_of_no_capture (s.portReset_no_capture p idle)
  · exact State.tsHi_of_no_capture (State.msixReset_no_capture hp)
  · exact State.tsHi_of_no_capture (by simp [State.warmBegin_tsCaps])

end Sys2Proof.Machine
end

section
/-!
PROOF. The account of an overrun frame (R44): the count saturates, and FRM_OVRSTAT shows the frame and the phase.
-/

namespace Sys2Proof.Machine

variable {s : State}

/-- A saturating counter counts one up to its all-ones value. -/
theorem satInc_eq_min (w n : Nat) : satInc w n = min (n + 1) (2 ^ w - 1) := by
  unfold satInc
  split <;> omega

/-- A counter that counted shows one more, up to its all-ones value (R430). -/
theorem State.get_count_same (h : regsWf s = true) (f : FRef) (hf : f.lo + f.w ≤ 32) :
    (s.count f).get f = min (s.get f + 1) (2 ^ f.w - 1) := by
  have hpos := Nat.two_pow_pos f.w
  rw [count, get_put_same h f _ hf, satInc_eq_min]
  exact Nat.mod_eq_of_lt (by omega)

theorem State.regsWf_count (h : regsWf s = true) (f : FRef) : regsWf (s.count f) = true := regsWf_put h f _

/-- A record stamped anyhow changes no field outside the counts of dropped records. -/
theorem State.get_logAt (h : regsWf s = true) (ts : Nat) (g : Origin) (code subj : Nat) (args : List (Option Nat)) (f : FRef)
    (hj : f.off ≠ JNL_EVDROP_COUNT.off) (hr : f.off ≠ RNG_EVDROP_COUNT.off) :
    (s.logAt ts g code subj args).get f = s.get f := by
  have hdrop : (s.count JNL_EVDROP_COUNT).reg f.off = s.reg f.off := reg_put_other h _ _ _ hj
  have hring (k : State) (hk : k.regs = (s.count JNL_EVDROP_COUNT).regs) :
      (k.count RNG_EVDROP_COUNT).reg f.off = s.reg f.off := by
    have hwf : regsWf k = true := by simpa only [regsWf, hk] using regsWf_count h JNL_EVDROP_COUNT
    rw [count, reg_put_other hwf _ _ _ hr, reg, hk]
    exact hdrop
  suffices hreg : (s.logAt ts g code subj args).reg f.off = s.reg f.off by rw [get, hreg, get]
  unfold logAt logWith
  dsimp only
  split
  case isTrue => rfl
  case isFalse =>
    split
    case isTrue => exact hdrop
    case isFalse =>
      split
      case isTrue => exact hdrop
      case isFalse => exact hring _ rfl

/-- What an overrun frame shows: the count, its frame number and the phase after the last one that ended. -/
def State.overrunShown (s : State) : State :=
  (((s.count FRM_OVRCNT_COUNT).put FRM_OVRSTAT0_FRAME s.tb.frame.toNat).put FRM_OVRSTAT1_FRAMEHI
    (s.tb.frame.toNat / 2 ^ 32)).put FRM_OVRSTAT1_PHASE (s.tb.done + 1)

theorem State.regsWf_overrunShown (h : regsWf s = true) : regsWf s.overrunShown = true :=
  regsWf_put (regsWf_put (regsWf_put (regsWf_count h _) _ _) _ _) _ _

/-- Outside the counts of dropped records the account of an overrun frame is what it shows. -/
theorem State.frameAccount_get_of_overran (h : regsWf s = true) (ho : s.overran = true) (f : FRef)
    (hj : f.off ≠ JNL_EVDROP_COUNT.off) (hr : f.off ≠ RNG_EVDROP_COUNT.off) :
    s.frameAccount.get f = s.overrunShown.get f := by
  unfold frameAccount
  rw [if_pos ho]
  dsimp only
  split
  case isTrue => exact get_logAt (regsWf_overrunShown h) _ _ _ _ _ f hj hr
  case isFalse => rfl

/-- Outside the counts of dropped records the account of a good frame changes no field. -/
theorem State.frameAccount_get_of_not_overran (h : regsWf s = true) (ho : s.overran = false) (f : FRef)
    (hj : f.off ≠ JNL_EVDROP_COUNT.off) (hr : f.off ≠ RNG_EVDROP_COUNT.off) : s.frameAccount.get f = s.get f := by
  unfold frameAccount
  rw [if_neg (by simp [ho])]
  dsimp only
  split
  case isTrue => exact get_logAt h _ _ _ _ _ f hj hr
  case isFalse => rfl

section Shown

variable (h : regsWf s = true)
include h

theorem State.overrunShown_get_count :
    s.overrunShown.get FRM_OVRCNT_COUNT = min (s.get FRM_OVRCNT_COUNT + 1) 65535 := by
  have hcount := regsWf_count h FRM_OVRCNT_COUNT
  have hframe := regsWf_put hcount FRM_OVRSTAT0_FRAME s.tb.frame.toNat
  rw [overrunShown, get_put_other (regsWf_put hframe _ _) _ _ _ (by decide) (by decide),
    get_put_other hframe _ _ _ (by decide) (by decide), get_put_other hcount _ _ _ (by decide) (by decide)]
  exact get_count_same h _ (by decide)

theorem State.overrunShown_get_frame : s.overrunShown.get FRM_OVRSTAT0_FRAME = s.tb.frame.toNat % 2 ^ 32 := by
  have hcount := regsWf_count h FRM_OVRCNT_COUNT
  have hframe := regsWf_put hcount FRM_OVRSTAT0_FRAME s.tb.frame.toNat
  rw [overrunShown, get_put_other (regsWf_put hframe _ _) _ _ _ (by decide) (by decide),
    get_put_other hframe _ _ _ (by decide) (by decide)]
  exact get_put_same hcount _ _ (by decide)

theorem State.overrunShown_get_frameHi : s.overrunShown.get FRM_OVRSTAT1_FRAMEHI = s.tb.frame.toNat / 2 ^ 32 % 2 ^ 8 := by
  have hframe := regsWf_put (regsWf_count h FRM_OVRCNT_COUNT) FRM_OVRSTAT0_FRAME s.tb.frame.toNat
  rw [overrunShown, get_put_other (regsWf_put hframe _ _) _ _ _ (by decide) (by decide)]
  exact get_put_same hframe _ _ (by decide)

theorem State.overrunShown_get_phase : s.overrunShown.get FRM_OVRSTAT1_PHASE = (s.tb.done + 1) % 2 ^ 3 :=
  get_put_same (regsWf_put (regsWf_put (regsWf_count h _) _ _) _ _) _ _ (by decide)

end Shown

/-- Settles O49: the account's fields are those that `State.overrunShown` puts; a 40-bit frame number fits FRM_OVRSTAT's two
fields, and the phase of an overrun, at most 5, its three bits. -/
theorem overrunsAreCounted : Obligations.OverrunsAreCounted := by
  refine ⟨fun s h ho => ?_, fun s h ho => State.frameAccount_get_of_not_overran h ho _ (by decide) (by decide),
    fun s h => ⟨_, rfl, State.get_put_same h FRM_OVRCNT_COUNT 0 (by decide)⟩⟩
  have hshown (f : FRef) := State.frameAccount_get_of_overran h ho f
  rw [hshown FRM_OVRCNT_COUNT (by decide) (by decide), hshown FRM_OVRSTAT0_FRAME (by decide) (by decide),
    hshown FRM_OVRSTAT1_FRAMEHI (by decide) (by decide), hshown FRM_OVRSTAT1_PHASE (by decide) (by decide),
    State.overrunShown_get_count h, State.overrunShown_get_frame h, State.overrunShown_get_frameHi h,
    State.overrunShown_get_phase h]
  have hframe := s.tb.frame.isLt
  have hdone : s.tb.done < 5 := by simp_all [State.overran]
  exact ⟨rfl, by omega, by omega⟩

end Sys2Proof.Machine
end

section
/-!
PROOF. The buffer of event records (R184): with room a record is queued, a full buffer only counts it.
-/

namespace Sys2Proof.Machine

variable {s : State}

/-- A full buffer keeps its records, and of the registers counts the lost record, with a second count where the Event ring
loses it also (R184, R235). -/
theorem State.logWith_of_full (hfull : 16 ≤ s.st.evq.length) (only : Bool) (ts : Nat) (g : Origin) (code subj : Nat)
    (args : List (Option Nat)) :
    (s.logWith only ts g code subj args).st.evq = s.st.evq ∧
      ((s.logWith only ts g code subj args).regs = (s.count JNL_EVDROP_COUNT).regs ∨
        (s.logWith only ts g code subj args).regs = ((s.count JNL_EVDROP_COUNT).count RNG_EVDROP_COUNT).regs) := by
  unfold logWith
  dsimp only
  rw [if_neg (Nat.not_lt.2 hfull)]
  split
  case isTrue => exact ⟨rfl, .inl rfl⟩
  case isFalse =>
    split
    case isTrue => exact ⟨rfl, .inl rfl⟩
    case isFalse => exact ⟨rfl, .inr rfl⟩

/-- A buffer with room takes the record, and no register changes. -/
theorem State.logWith_of_room (hroom : s.st.evq.length < 16) (only : Bool) (ts : Nat) (g : Origin) (code subj : Nat)
    (args : List (Option Nat)) :
    (s.logWith only ts g code subj args).regs = s.regs ∧
      ∃ e, (s.logWith only ts g code subj args).st.evq = s.st.evq ++ [e] ∧ e.code = code ∧ e.subject = subj ∧ e.ts = ts := by
  unfold logWith
  dsimp only
  rw [if_pos hroom]
  exact ⟨rfl, _, rfl, rfl, rfl, rfl⟩

/-- A record that a full buffer loses adds one to JNL_EVDROP, up to its all-ones value. -/
theorem State.get_evdrop_logWith_of_full (h : regsWf s = true) (hfull : 16 ≤ s.st.evq.length) (only : Bool) (ts : Nat)
    (g : Origin) (code subj : Nat) (args : List (Option Nat)) :
    (s.logWith only ts g code subj args).get JNL_EVDROP_COUNT =
      min (s.get JNL_EVDROP_COUNT + 1) (2 ^ JNL_EVDROP_COUNT.w - 1) := by
  have hcount := get_count_same h JNL_EVDROP_COUNT (by decide)
  have hring : ((s.count JNL_EVDROP_COUNT).count RNG_EVDROP_COUNT).get JNL_EVDROP_COUNT =
      (s.count JNL_EVDROP_COUNT).get JNL_EVDROP_COUNT :=
    get_put_other (regsWf_count h _) _ _ _ (by decide) (by decide)
  obtain ⟨-, hregs | hregs⟩ := logWith_of_full hfull only ts g code subj args
  · rw [get_regs, hregs, ← get_regs, hcount]
  · rw [get_regs, hregs, ← get_regs, hring, hcount]

/-- Settles O52: a record is `State.logWith` at the moment `State.touch` gives, and the touch changes neither the buffer nor a
register. -/
theorem eventBuffer : Obligations.EventBuffer := by
  intro s code subj args h
  refine ⟨fun hfull => ⟨?_, ?_⟩, fun hroom => ?_⟩
  · exact (State.logWith_of_full (s := s.touch) hfull _ _ _ _ _ _).1
  · exact State.get_evdrop_logWith_of_full (s := s.touch) h hfull _ _ _ _ _ _
  · exact State.logWith_of_room (s := s.touch) hroom _ _ _ _ _ _

end Sys2Proof.Machine
end

section
/-!
PROOF. The stages of Chrysalis: what a staged write and a discard leave of the registers and of the other stages (R166, R167).
-/

namespace Sys2Proof.Machine

variable {s t : State}

/-! ## Registers outside the stage's own block -/

theorem State.regsWf_putB (h : regsWf s = true) (f : FRef) (b : Bool) : regsWf (s.putB f b) = true := regsWf_put h f _

section Outside

variable {w : Who} {j : Nat} (h : regsWf s = true) (hj : j < chrKey w ∨ chrKey w + 0x14 ≤ j)
include h hj

/-- The read-back registers of a stage lie in its own block. -/
theorem State.reg_stageShow_of_outside : (s.stageShow w).reg j = s.reg j := by
  have hcount := regsWf_put h ⟨chrKey w + 4, 0, 9⟩ (s.stage w).slots.length
  have hfull := regsWf_putB hcount ⟨chrKey w + 4, 9, 1⟩ (s.stage w).full
  have hstat : ((s.put ⟨chrKey w + 4, 0, 9⟩ (s.stage w).slots.length).putB ⟨chrKey w + 4, 9, 1⟩ (s.stage w).full).reg j =
      s.reg j := by
    rw [putB, reg_put_other hcount _ _ _ (by dsimp only; omega), reg_put_other h _ _ _ (by dsimp only; omega)]
  unfold stageShow
  dsimp only
  split
  case h_1 x _ =>
    have hoff := regsWf_put hfull ⟨chrKey w + 12, 0, 16⟩ (x.off / 4)
    rw [reg_setReg_other (regsWf_put hoff _ _) (k := chrKey w + 16) (by omega), reg_put_other hoff _ _ _ (by dsimp only; omega),
      reg_put_other hfull _ _ _ (by dsimp only; omega), hstat]
  case h_2 =>
    rw [reg_setReg_other (regsWf_setReg hfull _ _) (k := chrKey w + 16) (by omega),
      reg_setReg_other hfull (k := chrKey w + 12) (by omega), hstat]

/-- Replacing a stage changes its own block only. -/
theorem State.reg_setStage_of_outside (x : Stage) : (s.setStage w x).reg j = s.reg j :=
  reg_stageShow_of_outside (s := { s with chr := _ }) h hj

end Outside

/-! ## A staged write -/

/-- What a staged write can do: nothing, refuse with a record, count a late write, or replace the stage. -/
theorem State.stageWrite_cases (s : State) (o : Origin) (w : Who) (off : Nat) (m v : Word) :
    (s.stageWrite o w off m v).1 = s ∨ (∃ m', (s.stageWrite o w off m v).1 = s.stageDeny o off m') ∨
      (s.stageWrite o w off m v).1 = s.count ⟨chrKey w + 4, 16, 16⟩ ∨
      ∃ x, (s.stageWrite o w off m v).1 = s.setStage w x := by
  unfold stageWrite
  dsimp only
  split
  case isTrue => exact .inl rfl
  case isFalse =>
    split
    case isTrue => exact .inr (.inl ⟨_, rfl⟩)
    case isFalse =>
      split
      case isTrue => exact .inr (.inr (.inl rfl))
      case isFalse => split <;> exact .inr (.inr (.inr ⟨_, rfl⟩))

/-- A refused staged write changes the counts of denied writes and of lost records only. -/
theorem State.reg_stageDeny {j : Nat} (h : regsWf s = true) (hdeny : j ≠ SNT_DENYCNT_COUNT.off)
    (hjnl : j ≠ JNL_EVDROP_COUNT.off) (hring : j ≠ RNG_EVDROP_COUNT.off) (o : Origin) (off : Nat) (m : Word) :
    (s.stageDeny o off m).reg j = s.reg j :=
  (reg_log (regsWf_count h _) _ _ _ j hjnl hring).trans (reg_put_other h _ _ _ hdeny)

/-- Outside the stage's own block a staged write changes those counts only. -/
theorem State.reg_stageWrite_of_outside {w : Who} {j : Nat} (h : regsWf s = true) (hj : j < chrKey w ∨ chrKey w + 0x14 ≤ j)
    (hdeny : j ≠ SNT_DENYCNT_COUNT.off) (hjnl : j ≠ JNL_EVDROP_COUNT.off) (hring : j ≠ RNG_EVDROP_COUNT.off) (o : Origin)
    (off : Nat) (m v : Word) : (s.stageWrite o w off m v).1.reg j = s.reg j := by
  obtain hsame | ⟨m', hrefused⟩ | hlate | ⟨x, hstage⟩ := s.stageWrite_cases o w off m v
  · rw [hsame]
  · rw [hrefused, reg_stageDeny h hdeny hjnl hring]
  · rw [hlate, count, reg_put_other h _ _ _ (by dsimp only; omega)]
  · rw [hstage, reg_setStage_of_outside h hj]

/-- A staged register write either is ignored or writes the Owner's stage: a VI's own never gets there (R157). -/
theorem exec_stagedRegisterWrite_cases {o : Origin} {off : Nat} {v : Word}
    (h : exec (.stagedRegisterWrite o off v) s = .next t) : t = s ∨ t = (s.stageWrite o none off 0xFFFFFFFF v).1 := by
  have e : execStagedRegisterWrite o off v s = .next t := h
  simp only [execStagedRegisterWrite, Host.Outcome.next.injEq] at e
  subst e
  exact iteInduction (motive := fun u => u = s ∨ u = _) (fun _ => .inr rfl) (fun _ => .inl rfl)

/-- Settles O55: a staged register write writes the Owner's stage or nothing, and `State.reg_stageWrite_of_outside` says what
that leaves. -/
theorem stagingLeavesSettings : Obligations.StagingLeavesSettings := by
  intro s o off v t j hwf h hj hdeny hjnl hring
  obtain rfl | rfl := exec_stagedRegisterWrite_cases h
  · rfl
  · exact State.reg_stageWrite_of_outside hwf hj hdeny hjnl hring o off _ v

/-! ## A discard -/

@[simp] theorem State.stageShow_chr (s : State) (w : Who) : (s.stageShow w).chr = s.chr := by
  unfold stageShow
  dsimp only
  split <;> rfl

theorem State.stage_eq_of_chr (h : t.chr = s.chr) (w : Who) : t.stage w = s.stage w := by
  cases w <;> simp only [stage, h]

/-- Replacing a stage leaves every other owner's. -/
theorem State.stage_setStage_other {w u : Who} (hu : u ≠ w) (x : Stage) : (s.setStage w x).stage u = s.stage u := by
  unfold setStage
  rw [stage_eq_of_chr (stageShow_chr _ w)]
  cases w with
  | none =>
    cases u with
    | none => exact absurd rfl hu
    | some b => rfl
  | some a =>
    cases u with
    | none => rfl
    | some b =>
      have hab : a.val ≠ b.val := fun e => hu (congrArg some (Fin.ext e.symm))
      simp only [stage, modAt, List.getD_eq_getElem?_getD, List.getElem?_modify_ne _ _ hab]

/-- A discarded stage of a VI is empty. -/
theorem State.stage_stageClear_vi (s : State) (v : Fin 16) : (s.stageClear (some v)).stage (some v) = ⟨[], false⟩ := by
  unfold stageClear setStage
  rw [stage_eq_of_chr (stageShow_chr _ _)]
  simp only [stage, modAt, List.getD_eq_getElem?_getD, List.getElem?_modify_eq]
  cases s.chr.vis[v.val]? <;> rfl

/-- A DISCARD that reaches a stage no COMMIT has frozen clears that stage (R167, R174). -/
theorem exec_chrCtlDiscard_of_not_frozen {who : Sender} (hreach : s.reaches who = true)
    (hfrozen : s.frozen (senderWho who) = false) :
    exec (.chrCtlDiscard who) s = .next (s.stageClear (senderWho who)) := by
  have e : exec (.chrCtlDiscard who) s = execChrCtlDiscard who s := rfl
  simp [e, execChrCtlDiscard, State.discardStage, hreach, hfrozen]

/-- Settles O56: the discard is `State.stageClear` of the VI's stage, which replaces that stage and shows it in its own block. -/
theorem discardIsTheIssuersOnly : Obligations.DiscardIsTheIssuersOnly := by
  intro s v t hwf hreach hfrozen h
  obtain rfl : s.stageClear (some v) = t :=
    Host.Outcome.next.inj ((exec_chrCtlDiscard_of_not_frozen hreach hfrozen).symm.trans h)
  refine ⟨by rw [State.stage_stageClear_vi], fun w hw => State.stage_setStage_other hw _, fun j hj => ?_⟩
  exact State.reg_setStage_of_outside hwf (by simp only [chrKey]; omega) _

end Sys2Proof.Machine
end

section
/-!
PROOF. A doorbell on another owner's subchannel or channel (R199): it is ignored, or counted with its record.
-/

namespace Sys2Proof.Machine

variable {s t : State} {v : Fin 16}

/-- The account of a foreign doorbell at an offset of the VI's register window: the count and the record BAD_ACCESS (R199). -/
def State.foreignDoorbell (s : State) (v : Fin 16) (off : Nat) : State :=
  (s.count HST_ERRSTAT_FOREIGN_DB).badAccess (some v) off

/-! ## What the account leaves -/

@[simp] theorem State.foreignDoorbell_cpe (off : Nat) : (s.foreignDoorbell v off).cpe = s.cpe := by
  simp only [foreignDoorbell, badAccess, log_cpe, count_cpe]

@[simp] theorem State.foreignDoorbell_bmv (off : Nat) : (s.foreignDoorbell v off).bmv = s.bmv := by
  simp only [foreignDoorbell, badAccess, log_bmv, count_bmv]

@[simp] theorem State.foreignDoorbell_cch (off : Nat) : (s.foreignDoorbell v off).cch = s.cch := by
  simp only [foreignDoorbell, badAccess, log_cch, count_cch]

@[simp] theorem State.foreignDoorbell_dpt (off : Nat) : (s.foreignDoorbell v off).dpt = s.dpt := by
  simp only [foreignDoorbell, badAccess, log_dpt, count_dpt]

/-- Of the registers, the account changes the counts of foreign doorbells and of lost records only. -/
theorem State.reg_foreignDoorbell {j : Nat} (h : regsWf s = true) (hforeign : j ≠ HST_ERRSTAT_FOREIGN_DB.off)
    (hjnl : j ≠ JNL_EVDROP_COUNT.off) (hring : j ≠ RNG_EVDROP_COUNT.off) (off : Nat) :
    (s.foreignDoorbell v off).reg j = s.reg j :=
  (reg_log (regsWf_count h _) _ _ _ j hjnl hring).trans (reg_put_other h _ _ _ hforeign)

/-! ## What a foreign doorbell does -/

/-- A VI's doorbell on a subchannel that is not its own does nothing or is accounted for. -/
theorem exec_scDoorbell_foreign {n : Fin 32} (howner : s.scOwner n.val ≠ some v)
    (h : exec (.scDoorbell (.vi v) n) s = .next t) : t = s ∨ ∃ off, t = s.foreignDoorbell v off := by
  have e : execScDoorbell (.vi v) n s = .next t := h
  simp only [execScDoorbell, Host.Outcome.next.injEq] at e
  split at e
  case isTrue => exact .inl e.symm
  case isFalse =>
    have hforeign : ((senderWho (.vi v)).isSome && s.scOwner n.val != senderWho (.vi v)) = true := by
      simpa [senderWho] using howner
    rw [if_pos hforeign] at e
    exact .inr ⟨_, e.symm⟩

/-- A VI's doorbell on a channel that is not its own does nothing or is accounted for. -/
theorem exec_dcDoorbell_foreign {n : Fin 16} {x : Word} (howner : s.dcOwner n.val ≠ some v)
    (h : exec (.dcDoorbell (.vi v) n x) s = .next t) : t = s ∨ ∃ off, t = s.foreignDoorbell v off := by
  have e : execDcDoorbell (.vi v) n x s = .next t := h
  simp only [execDcDoorbell, Host.Outcome.next.injEq] at e
  split at e
  case isTrue => exact .inl e.symm
  case isFalse =>
    have hforeign : (!((senderWho (.vi v)).isNone || s.dcOwner n.val == senderWho (.vi v))) = true := by
      simpa [senderWho] using howner
    rw [if_pos hforeign] at e
    exact .inr ⟨_, e.symm⟩

/-- Settles O57: either doorbell leaves the state or makes `State.foreignDoorbell` of it, whose lemmas say what stays. -/
theorem foreignDoorbellChangesNoUnit : Obligations.ForeignDoorbellChangesNoUnit := by
  intro s v c t hwf hc h
  have hcases : t = s ∨ ∃ off, t = s.foreignDoorbell v off := by
    obtain ⟨n, rfl, howner⟩ | ⟨n, x, rfl, howner⟩ := hc
    · exact exec_scDoorbell_foreign howner h
    · exact exec_dcDoorbell_foreign howner h
  obtain rfl | ⟨off, rfl⟩ := hcases
  · exact ⟨rfl, rfl, rfl, rfl, fun _ _ _ _ => rfl⟩
  · exact ⟨State.foreignDoorbell_cpe off, State.foreignDoorbell_bmv off, State.foreignDoorbell_cch off,
      State.foreignDoorbell_dpt off, fun _ hforeign hjnl hring => State.reg_foreignDoorbell hwf hforeign hjnl hring off⟩

end Sys2Proof.Machine
end

section
/-!
PROOF. The completion entry (Table 9-4) and the ring's write index and phase after it (R231, R237).
-/

namespace Sys2Proof.Machine

variable {s : State}

/-! ## Little-endian layouts -/

@[simp] theorem length_leBytes (k n : Nat) : (leBytes k n).length = k := by
  induction k generalizing n with
  | zero => rfl
  | succ k ih => simp [leBytes, ih]

/-- The bytes of a number give back what of it fits them. -/
theorem leNat_leBytes (k n : Nat) : leNat (leBytes k n) = n % 2 ^ (8 * k) := by
  induction k generalizing n with
  | zero => simp [leBytes, leNat, Nat.mod_one]
  | succ k ih =>
    have hpow : 2 ^ (8 * (k + 1)) = 256 * 2 ^ (8 * k) := by rw [Nat.mul_succ, Nat.pow_add, Nat.mul_comm]
    rw [leBytes, leNat, ih, BitVec.toNat_ofNat, hpow, Nat.mod_mul]

theorem leAt_leBytes (k n : Nat) : leAt (leBytes k n) 0 k = n % 2 ^ (8 * k) := by
  rw [leAt, List.drop_zero, List.take_of_length_le (Nat.le_of_eq (length_leBytes k n)), leNat_leBytes]

/-- The first field of a layout reads back what fits it. -/
theorem leAt_leBytes_append (k n : Nat) (bs : List Byte) : leAt (leBytes k n ++ bs) 0 k = n % 2 ^ (8 * k) := by
  rw [leAt, List.drop_zero, List.take_left' (length_leBytes k n), leNat_leBytes]

/-- A later field of a layout is read past the first. -/
theorem leAt_leBytes_append_of_le {k o : Nat} (h : k ≤ o) (n m : Nat) (bs : List Byte) :
    leAt (leBytes k n ++ bs) o m = leAt bs (o - k) m := by
  have hpast : (leBytes k n).drop o = [] := List.drop_eq_nil_of_le (by rwa [length_leBytes])
  rw [leAt, List.drop_append, hpast, List.nil_append, length_leBytes, leAt]

/-- A field's value fits its width. -/
theorem State.get_lt (s : State) (f : FRef) : s.get f < 2 ^ f.w := Nat.mod_lt _ (Nat.two_pow_pos f.w)

/-! ## Registers that a host write leaves -/

section HostWrite

variable {j : Nat} (hj : j ≠ HST_ATCSTAT_VALID.off)
include hj

theorem State.reg_atcShow (h : regsWf s = true) : s.atcShow.reg j = s.reg j := by
  have hvalid := regsWf_put h HST_ATCSTAT_VALID s.hst.atc.length
  unfold atcShow
  dsimp only
  exact (reg_put_other (regsWf_put hvalid _ _) HST_ATCSTAT_PRI _ _ hj).trans
    ((reg_put_other hvalid HST_ATCSTAT_INVAL _ _ hj).trans (reg_put_other h HST_ATCSTAT_VALID _ _ hj))

/-- A translation changes no register but HST_ATCSTAT (R210). -/
theorem State.reg_translate (h : regsWf s = true) (w : Who) (a : Nat) (write : Bool) :
    (s.translate w a write).reg j = s.reg j := by
  have hevict (u : State) : u.atcEvict.regs = u.regs := by
    unfold atcEvict
    split <;> rfl
  unfold translate
  dsimp only
  split
  case isTrue =>
    split
    case h_1 => rfl
    case h_2 =>
      rw [reg_atcShow hj]
      · simp only [reg, emit_regs, hevict]
      · simpa only [regsWf, emit_regs, hevict] using h
  case isFalse => rfl

/-- A host write changes no register but HST_ATCSTAT. -/
theorem State.reg_hostWr (h : regsWf s = true) (w : Who) (a : Nat) (bytes : List Byte) :
    (s.hostWr w a bytes).reg j = s.reg j := by
  have hinv : regsWf (s.hostWr w a bytes) = true ∧ (s.hostWr w a bytes).reg j = s.reg j :=
    List.foldlRecOn (motive := fun t : State => regsWf t = true ∧ t.reg j = s.reg j) _ _ ⟨h, rfl⟩
      fun t ⟨hwf, hreg⟩ c _ =>
        ⟨(translate_keeps w (a + c.1) true (Keeps.refl t)).regs hwf, (reg_translate hj hwf w (a + c.1) true).trans hreg⟩
  exact hinv.2

end HostWrite

/-- No register of a ring's block is HST_ATCSTAT. -/
theorem ringKey_add_ne_atcstat (r : RingId) {o : Nat} (ho : o < 0x40) : ringKey r + o ≠ HST_ATCSTAT_VALID.off := by
  cases r <;> simp only [ringKey, ownSubRing, ownAdmRing, vfBase] <;> omega

/-! ## A posted completion -/

/-- The host address of a ring's completion entry at its write index (R225). -/
def State.cplAddr (s : State) (r : RingId) : Nat :=
  base64 (s.get (RNG_CQBASE_LO_BASE (ringKey r))) (s.get (RNG_CQBASE_HI_BASE (ringKey r))) + 16 * s.get (RNG_CQTAIL_WR (ringKey r))

/-- The completion entry of Table 9-4, with the ring's phase. -/
def State.cplBytes (s : State) (r : RingId) (c : Cpl) : List Byte :=
  leBytes 4 c.result ++ leBytes 4 c.aux ++ leBytes 2 c.cid ++ leBytes 2 (s.get (RNG_SQHEAD_HEAD (ringKey r))) ++
    leBytes 1 c.status ++ leBytes 1 (if r = .adm then 1 else 0) ++ leBytes 1 0 ++
    leBytes 1 (s.get (RNG_CQTAIL_PHASE (ringKey r)))

theorem State.length_cplBytes (s : State) (r : RingId) (c : Cpl) : (s.cplBytes r c).length = 16 := by
  simp only [cplBytes, List.length_append, length_leBytes]

/-- The fields of Table 9-4 in their places: each is read past the ones before it. -/
theorem State.cplBytes_layout (s : State) (r : RingId) (c : Cpl) :
    leAt (s.cplBytes r c) 0 4 = c.result % 2 ^ 32 ∧ leAt (s.cplBytes r c) 4 4 = c.aux % 2 ^ 32 ∧
      leAt (s.cplBytes r c) 8 2 = c.cid % 2 ^ 16 ∧
      leAt (s.cplBytes r c) 10 2 = s.get (RNG_SQHEAD_HEAD (ringKey r)) ∧ leAt (s.cplBytes r c) 12 1 = c.status % 2 ^ 8 ∧
      leAt (s.cplBytes r c) 13 1 = (if r = .adm then 1 else 0) ∧ leAt (s.cplBytes r c) 14 1 = 0 ∧
      leAt (s.cplBytes r c) 15 1 = s.get (RNG_CQTAIL_PHASE (ringKey r)) := by
  have hhead : s.get (RNG_SQHEAD_HEAD (ringKey r)) < 65536 := s.get_lt _
  have hphase : s.get (RNG_CQTAIL_PHASE (ringKey r)) < 256 :=
    Nat.lt_trans (s.get_lt (RNG_CQTAIL_PHASE (ringKey r))) (by decide : 2 ^ 1 < 256)
  have hsqid : (if r = .adm then 1 else 0) < 256 := by split <;> decide
  simp [cplBytes, List.append_assoc, leAt_leBytes_append, leAt_leBytes_append_of_le, leAt_leBytes, hhead, hphase, hsqid]

/-- The state once a completion entry has been written. -/
def State.cplSent (s : State) (r : RingId) (c : Cpl) : State := s.hostWr (whoOf r) (s.cplAddr r) (s.cplBytes r c)

theorem State.regsWf_cplSent (h : regsWf s = true) (r : RingId) (c : Cpl) : regsWf (s.cplSent r c) = true :=
  (hostWr_keeps _ _ _ (Keeps.refl s)).regs h

/-- The write of an entry leaves the ring's registers. -/
theorem State.get_cplSent (h : regsWf s = true) (r : RingId) (c : Cpl) {o : Nat} (ho : o < 0x40) (lo n : Nat) :
    (s.cplSent r c).get ⟨ringKey r + o, lo, n⟩ = s.get ⟨ringKey r + o, lo, n⟩ := by
  simp only [get, cplSent, reg_hostWr (ringKey_add_ne_atcstat r ho) h]

/-- The write index after the entry at `wr`: the next, or 0 at the ring's end with the phase `ph` inverted (R231). -/
def State.cqAdvance (s : State) (k wr ph : Nat) : State :=
  if wr + 1 < ringSize (s.get (RNG_CQSIZE_LOG2 k)) then s.put (RNG_CQTAIL_WR k) (wr + 1)
  else (s.put (RNG_CQTAIL_WR k) 0).put (RNG_CQTAIL_PHASE k) (1 - ph)

/-- A completion is posted by one host write of its entry, and then the write index advances. -/
theorem State.writeCpl_eq (s : State) (r : RingId) (c : Cpl) :
    s.writeCpl r c = (s.cplSent r c).cqAdvance (ringKey r) (s.get (RNG_CQTAIL_WR (ringKey r)))
      (s.get (RNG_CQTAIL_PHASE (ringKey r))) := rfl

@[simp] theorem State.cqAdvance_out (s : State) (k wr ph : Nat) : (s.cqAdvance k wr ph).out = s.out := by
  unfold cqAdvance
  split <;> rfl

section Advance

variable {k wr ph : Nat} (h : regsWf s = true)
include h

theorem State.cqAdvance_of_room (hroom : wr + 1 < ringSize (s.get (RNG_CQSIZE_LOG2 k))) :
    (s.cqAdvance k wr ph).get (RNG_CQTAIL_PHASE k) = s.get (RNG_CQTAIL_PHASE k) ∧
      (s.cqAdvance k wr ph).get (RNG_CQTAIL_WR k) = wr + 1 := by
  have hlog : s.get (RNG_CQSIZE_LOG2 k) ≤ 15 := Nat.le_of_lt_succ (s.get_lt _)
  have hsize : ringSize (s.get (RNG_CQSIZE_LOG2 k)) ≤ 2 ^ 15 := Nat.pow_le_pow_right (by decide) hlog
  rw [cqAdvance, if_pos hroom, get_put_other h _ _ _ (by simp) (by simp), get_put_same h _ _ (by simp)]
  exact ⟨rfl, Nat.mod_eq_of_lt (by dsimp only; omega)⟩

theorem State.cqAdvance_of_end (hend : ringSize (s.get (RNG_CQSIZE_LOG2 k)) ≤ wr + 1) :
    (s.cqAdvance k wr ph).get (RNG_CQTAIL_PHASE k) = (1 - ph) % 2 ∧ (s.cqAdvance k wr ph).get (RNG_CQTAIL_WR k) = 0 := by
  have hzero := regsWf_put h (RNG_CQTAIL_WR k) 0
  rw [cqAdvance, if_neg (Nat.not_lt.2 hend), get_put_same hzero _ _ (by simp),
    get_put_other hzero _ _ _ (by simp) (by simp), get_put_same h _ _ (by simp)]
  exact ⟨rfl, rfl⟩

end Advance

section Posted

variable (h : regsWf s = true) (r : RingId) (c : Cpl)
include h

theorem State.writeCpl_of_room
    (hroom : s.get (RNG_CQTAIL_WR (ringKey r)) + 1 < ringSize (s.get (RNG_CQSIZE_LOG2 (ringKey r)))) :
    (s.writeCpl r c).get (RNG_CQTAIL_PHASE (ringKey r)) = s.get (RNG_CQTAIL_PHASE (ringKey r)) ∧
      (s.writeCpl r c).get (RNG_CQTAIL_WR (ringKey r)) = s.get (RNG_CQTAIL_WR (ringKey r)) + 1 := by
  rw [← get_cplSent h r c (by decide) 0 4] at hroom
  obtain ⟨hph, hwr⟩ := cqAdvance_of_room (ph := s.get (RNG_CQTAIL_PHASE (ringKey r))) (regsWf_cplSent h r c) hroom
  rw [writeCpl_eq, hph, hwr, get_cplSent h r c (by decide)]
  exact ⟨rfl, rfl⟩

theorem State.writeCpl_of_end
    (hend : ringSize (s.get (RNG_CQSIZE_LOG2 (ringKey r))) ≤ s.get (RNG_CQTAIL_WR (ringKey r)) + 1) :
    (s.writeCpl r c).get (RNG_CQTAIL_PHASE (ringKey r)) = 1 - s.get (RNG_CQTAIL_PHASE (ringKey r)) ∧
      (s.writeCpl r c).get (RNG_CQTAIL_WR (ringKey r)) = 0 := by
  rw [← get_cplSent h r c (by decide) 0 4] at hend
  obtain ⟨hph, hwr⟩ := cqAdvance_of_end (ph := s.get (RNG_CQTAIL_PHASE (ringKey r))) (regsWf_cplSent h r c) hend
  rw [writeCpl_eq, hph, hwr, Nat.mod_eq_of_lt (by omega)]
  exact ⟨rfl, rfl⟩

end Posted

/-- Settles O51: by `State.writeCpl_eq` the one host write carries `State.cplBytes`, laid out by `State.cplBytes_layout`;
`State.writeCpl_of_room` and `State.writeCpl_of_end` say where the write index and the phase go. -/
theorem completionEntry : Obligations.CompletionEntry := by
  intro s r c h
  obtain ⟨hresult, haux, hcid, hhead, hstatus, hsqid, hrsv, hphase⟩ := s.cplBytes_layout r c
  exact ⟨s.cplBytes r c, by rw [State.writeCpl_eq, State.cqAdvance_out, State.cplSent, State.cplAddr], s.length_cplBytes r c, hresult, haux,
    hcid, hhead, hstatus, hsqid, hrsv, hphase, State.writeCpl_of_room h r c, State.writeCpl_of_end h r c⟩

end Sys2Proof.Machine
end

section
/-!
PROOF. A ring's command that fails a check of the opcode table at its start (R156, R239): every meaning of one goes through the
same start, which answers the check's status.
-/

namespace Sys2Proof.Machine

variable {s : State} {t : Tag} {op st : Nat} {d : Cmd}

/-- The command found by a tag has it. -/
theorem State.tag_of_cmd (h : s.cmd t = some d) : d.tag = t := by
  simpa using List.find?_some h

/-- A command that may start is not running. -/
theorem State.not_running_of_mayRun (h : s.mayRun d = true) : d.st ≠ .running := by
  intro hrun
  simp [mayRun, hrun] at h

/-- A long command that does not run starts as any other (R244). -/
theorem State.runLong_of_not_running (hcmd : s.cmd t = some d) (hst : d.st ≠ .running) (f : State → Cmd → Bool → State) :
    s.runLong t op f = s.run t op fun s c => f s c true := by
  simp only [runLong, hcmd, if_neg hst]

/-- A start that fails a check answers its status, after Sentinel's note of the refusal where Sentinel serves the opcode. -/
theorem State.run_of_failing_check (hcmd : s.cmd t = some d) (hop : d.entry.op.toNat = op) (hmay : s.mayRun d = true)
    (hpri : (s.hst.pri.any fun q => q.tgt == .buf t) = false) (hcheck : s.cmdCheck d.ring d.entry = some st)
    (f : State → Cmd → State) :
    s.run t op f = answered (if opFwd op then s.refuseNote d d.entry st else s) t st 0 0 := by
  simp only [run, hcmd, hop, hmay, hpri, hcheck, beq_self_eq_true, Bool.not_false, Bool.and_self, if_true, refuseCmd,
    tag_of_cmd hcmd, answered]

/-- Every ring command's meaning starts its own tag as its own opcode; LOG_READ, FW_WRITE and FW_ERASE are long (R244). -/
theorem exec_ringCmd {i : Instr} (h : ringCmd i = some (t, op)) (s : State) :
    (∃ f, exec i s = .next (s.run t op f)) ∨ ∃ f, exec i s = .next (s.runLong t op f) := by
  cases i with
  | logRead | fwWrite | fwErase =>
    cases h
    exact .inr ⟨_, rfl⟩
  | nop | identify | getTime | abort | setEvmask | stageWrite | stageBulk | stageList | check | commit | discard | grantSet
  | powerOn | powerOff | railRetry | swarmCtl | quiesce | resume | hsClear | snapshot | stateReq
  | scStart | scHalt | scResumeAt | scSuspend | scResume | scStatus | cchInval | cchDrain
  | dcStart | dcAbort | dcSuspend | dcResume | dcStatus | bmvRestart
  | cardOpen | cardClose | cardApdu | cardExcl | cardActivate | cardDeactivate | cardGetAtr | cardSelftest
  | lampSet | lampPattern | lampStatus | thmRead | remotePost | alarmClear | diodeClear | adcConvert | ledgerRead
  | logBounds | fwVerify | fwPrefer | fwActivate | fwCommit | patchLoad | authOpen | authClose | authStatus | keySet | keyRevoke
  | measure | echo | adcCal | mramBist =>
    cases h
    exact .inl ⟨_, rfl⟩
  | _ => cases h

/-- Settles O45: the command's meaning is a start by `exec_ringCmd`, a long one's also, since a command that may start does not
run yet, and `State.run_of_failing_check` is its answer. -/
theorem failingCheckCarriesOutNothing : Obligations.FailingCheckCarriesOutNothing := by
  intro i s t op d st hi hcmd hop hmay hpri hcheck
  obtain ⟨f, hexec⟩ | ⟨f, hexec⟩ := exec_ringCmd hi s
  · rw [hexec, State.run_of_failing_check hcmd hop hmay hpri hcheck]
  · rw [hexec, State.runLong_of_not_running hcmd (State.not_running_of_mayRun hmay),
      State.run_of_failing_check hcmd hop hmay hpri hcheck]

end Sys2Proof.Machine
end

section
/-!
PROOF. The invalidation of the Chain Cache: which lines a scope of Table 11-1 removes and how many RESULT counts (R285).
-/

namespace Sys2Proof.Machine

variable {s u : State} {scope o a : Nat}

/-! ## The scopes of Table 11-1 -/

/-- The model's test of a line against a scope decides `InScope`. -/
theorem inScope_iff (scope o a : Nat) (l : Line) : inScope scope o a l.owner l.base = true ↔ InScope scope o a l := by
  match scope with
  | 0 | 1 | 2 | 3 | _ + 4 => simp [inScope, InScope]

/-- Dropping the lines of a scope keeps exactly the lines outside it. -/
theorem mem_filter_not_inScope (ls : List Line) (l : Line) :
    l ∈ ls.filter (fun l => !inScope scope o a l.owner l.base) ↔ l ∈ ls ∧ ¬ InScope scope o a l := by
  simp [← inScope_iff]

/-- Scope 0 of the Owner keeps no line, whoever owns it. -/
theorem filter_not_inScope_all (ls : List Line) : ls.filter (fun l => !inScope 0 16 a l.owner l.base) = [] := by
  simp [inScope]

/-! ## The walk -/

theorem State.cchInval_lines : (s.cchInval scope o a).1.cch.lines =
    s.cch.lines.filter fun l => !inScope scope o a l.owner l.base := rfl

theorem State.cchInval_victims : (s.cchInval scope o a).1.cch.victims =
    s.cch.victims.filter fun l => !inScope scope o a l.owner l.base := rfl

/-- The walk counts the lines of its scope with a valid sector, in the cache and in the victim buffer alike. -/
theorem State.cchInval_count : (s.cchInval scope o a).2 =
    (s.cch.lines ++ s.cch.victims).countP fun l => inScope scope o a l.owner l.base && l.live := rfl

/-! ## The commands -/

/-- CCH_INVAL that starts walks its scope, and its RESULT is the walk's number. -/
theorem exec_cchInval_of_starts {t : Tag} {c : Cmd} (h : Starts s t 0x36 c u) :
    exec (.cchInval t) s = .next (answered (u.cchInval (c.p 0) (whoCode c.who) (paramAddr c.entry 1)).1 t 0x00
      (u.cchInval (c.p 0) (whoCode c.who) (paramAddr c.entry 1)).2 0) :=
  congrArg Host.Outcome.next (h.run _)

/-- A scope above 3 fails check 7 of CCH_INVAL. -/
theorem State.valueCheck_cchInval {e : SqEntry} (ring : RingId) (hop : e.op.toNat = 0x36) (hscope : 3 < SqEntry_param e 0) :
    s.valueCheck ring e = some 0x13 := by
  simp [valueCheck, hop, hscope]

/-- CCH_CTL's INVAL_ALL, where the Owner reaches it, is scope 0 of the Owner. -/
theorem exec_cchInvalAll_of_reach (hreach : s.ownerReach = true) : exec .cchInvalAll s = .next (s.cchInval 0 16 0).1 :=
  congrArg Host.Outcome.next (if_pos hreach)

/-- CCH_CTL's DRAIN, where the Owner reaches it, drains the store buffer as CCH_DRAIN does. -/
theorem exec_cchCtlDrain_of_reach (hreach : s.ownerReach = true) : exec .cchCtlDrain s = .next s.storeDrainAll :=
  congrArg Host.Outcome.next (if_pos hreach)

/-- Settles O50: the walk filters both lists by the model's scope test, which decides `InScope` by `inScope_iff`, and counts by
the same test; scope 0 of the Owner filters everything out. -/
theorem cacheInvalidationScopes : Obligations.CacheInvalidationScopes := by
  refine ⟨?inval, ?scopeAbove, ?invalAll, fun s hreach => exec_cchCtlDrain_of_reach hreach⟩
  case inval =>
    rintro s t c u _ _ _ hstart rfl rfl rfl
    exact ⟨_, _, exec_cchInval_of_starts hstart, mem_filter_not_inScope u.cch.lines, mem_filter_not_inScope u.cch.victims,
      _, inScope_iff _ _ _, State.cchInval_count⟩
  case scopeAbove =>
    intro s ring e hop hperm hscope
    rw [State.cmdCheck, hperm]
    exact State.valueCheck_cchInval ring hop hscope
  case invalAll =>
    intro s hreach
    exact ⟨_, exec_cchInvalAll_of_reach hreach, State.cchInval_lines.trans (filter_not_inScope_all _),
      State.cchInval_victims.trans (filter_not_inScope_all _)⟩

end Sys2Proof.Machine
end

section
/-!
PROOF. The length of a burst (R298): it is the least of the distances to the points at which a burst may end.
-/

namespace Sys2Proof.Machine

variable {d : Desc} {p : Nat}

/-- The distances from stream byte `p` to the points of R298; those to a 4 KiB boundary count on a host side only. -/
inductive Desc.EndPoint (d : Desc) (p : Nat) : Nat → Prop where
  | size : EndPoint d p 256
  | total : EndPoint d p (d.total - p)
  | srcLine : EndPoint d p (d.srcLine - p % d.srcLine)
  | dstLine : EndPoint d p (d.dstLine - p % d.dstLine)
  | srcPage (h : d.srcX = false) : EndPoint d p (4096 - d.srcAt p % 4096)
  | dstPage (h : d.dstX = false) : EndPoint d p (4096 - d.dstAt p % 4096)

/-- The nearer of two points is a point. -/
theorem Desc.EndPoint.min {m n : Nat} (hm : d.EndPoint p m) (hn : d.EndPoint p n) : d.EndPoint p (min m n) := by
  rcases Nat.le_total m n with h | h
  · rwa [Nat.min_eq_left h]
  · rwa [Nat.min_eq_right h]

/-- A burst ends at one of the points. -/
theorem Desc.endPoint_burstLen (d : Desc) (p : Nat) : d.EndPoint p (d.burstLen p) := by
  have lines : d.EndPoint p (min (min (min 256 (d.total - p)) (d.srcLine - p % d.srcLine)) (d.dstLine - p % d.dstLine)) :=
    ((EndPoint.size.min .total).min .srcLine).min .dstLine
  unfold Desc.burstLen
  cases hs : d.srcX <;> cases hd : d.dstX
  · exact (lines.min (.srcPage hs)).min (.dstPage hd)
  · exact lines.min (.srcPage hs)
  · exact lines.min (.dstPage hd)
  · exact lines

/-- A burst passes none of the points. -/
theorem Desc.EndPoint.burstLen_le {n : Nat} (h : d.EndPoint p n) : d.burstLen p ≤ n := by
  unfold Desc.burstLen
  cases h with
  | size | total | srcLine | dstLine => dsimp only; split <;> split <;> omega
  | srcPage h => simp only [h, Bool.false_eq_true, if_false]; split <;> omega
  | dstPage h => simp only [h, Bool.false_eq_true, if_false]; split <;> omega

/-- Inside a descriptor with lines of positive length every point lies ahead. -/
theorem Desc.EndPoint.pos {n : Nat} (h : d.EndPoint p n) (hsrc : 0 < d.srcLine) (hdst : 0 < d.dstLine) (hp : p < d.total) :
    0 < n := by
  have hs := Nat.mod_lt p hsrc
  have hd := Nat.mod_lt p hdst
  cases h <;> omega

/-- An address of a side whose address, line length and stride are multiples of 8 is one where the stream byte is. -/
theorem dvd_sideAt {k addr line stride p : Nat} (haddr : k ∣ addr) (hline : k ∣ line) (hstride : k ∣ stride) (hp : k ∣ p) :
    k ∣ sideAt addr line stride p :=
  Nat.dvd_add (Nat.dvd_add haddr (Nat.dvd_mul_left_of_dvd hstride _)) ((Nat.dvd_mod_iff hline).2 hp)

/-- In a descriptor of multiples of 8 every point lies a multiple of 8 bytes ahead. -/
theorem Desc.EndPoint.dvd {n : Nat} (h : d.EndPoint p n) (hp : 8 ∣ p) (hsl : 8 ∣ d.srcLine) (hdl : 8 ∣ d.dstLine)
    (hsrc : 8 ∣ d.src) (hdst : 8 ∣ d.dst) (hss : 8 ∣ d.srcStride) (hds : 8 ∣ d.dstStride) : 8 ∣ n := by
  have page : 8 ∣ 4096 := by decide
  cases h with
  | size => decide
  | total => exact Nat.dvd_sub (Nat.dvd_mul_right_of_dvd hsl _) hp
  | srcLine => exact Nat.dvd_sub hsl ((Nat.dvd_mod_iff hsl).2 hp)
  | dstLine => exact Nat.dvd_sub hdl ((Nat.dvd_mod_iff hdl).2 hp)
  | srcPage => exact Nat.dvd_sub page ((Nat.dvd_mod_iff page).2 (dvd_sideAt hsrc hsl hss hp))
  | dstPage => exact Nat.dvd_sub page ((Nat.dvd_mod_iff page).2 (dvd_sideAt hdst hdl hds hp))

/-- Settles O58: the length is one of the distances to R298's points, so it is positive and a multiple of 8 as they are, and
it is at most each of them. -/
theorem burstLengths : Obligations.BurstLengths := by
  intro d p hsrc hdst hp
  have ends := d.endPoint_burstLen p
  have hs := Nat.mod_lt p hsrc
  have hd := Nat.mod_lt p hdst
  have hsp := Nat.mod_lt (d.srcAt p) (show 0 < 4096 by decide)
  have hdp := Nat.mod_lt (d.dstAt p) (show 0 < 4096 by decide)
  have toTotal := (Desc.EndPoint.total (d := d) (p := p)).burstLen_le
  have toSrcLine := (Desc.EndPoint.srcLine (d := d) (p := p)).burstLen_le
  have toDstLine := (Desc.EndPoint.dstLine (d := d) (p := p)).burstLen_le
  refine ⟨ends.pos hsrc hdst hp, Desc.EndPoint.size.burstLen_le, by omega, by omega, by omega, fun h => ?_, fun h => ?_,
    ends.dvd, ?_⟩
  · have toSrcPage := (Desc.EndPoint.srcPage (p := p) h).burstLen_le
    omega
  · have toDstPage := (Desc.EndPoint.dstPage (p := p) h).burstLen_le
    omega
  · generalize d.burstLen p = n at *
    cases ends with
    | size | total | srcLine | dstLine => omega
    | srcPage h | dstPage h => simp only [h, true_and]; omega

end Sys2Proof.Machine
end

section
/-!
PROOF. Exchange memory (R292): an offset of an owner's partition names one byte, no byte is named twice, so a write is read back
and nothing else changes.
-/

namespace Sys2Proof.Machine

variable {s : State} {o q i j a : Nat}

/-! ## The byte an offset names -/

/-- A block of a partition has the partition's owner. -/
theorem State.xowner_of_mem_partition {b : Nat} (h : b ∈ s.partition o) : s.xowner b = o :=
  eq_of_beq (List.mem_filter.1 h).2

theorem State.nodup_partition (s : State) (o : Nat) : (s.partition o).Nodup := List.nodup_range.filter _

/-- An offset inside the partition names a byte. -/
theorem State.exists_xaddr (h : i < 1024 * (s.partition o).length) : ∃ a, s.xaddr o i = some a := by
  have hblock : i / 1024 < (s.partition o).length := Nat.div_lt_of_lt_mul h
  exact ⟨_, by rw [State.xaddr, List.getElem?_eq_getElem hblock]; rfl⟩

/-- Where the block and the byte in it stand. -/
theorem State.xaddr_eq_some (h : s.xaddr o i = some a) :
    (s.partition o)[i / 1024]? = some (a / 1024) ∧ i % 1024 = a % 1024 := by
  obtain ⟨b, hb, rfl⟩ := Option.map_eq_some_iff.1 h
  have hr := Nat.mod_lt i (show 0 < 1024 by decide)
  exact ⟨by rw [hb]; congr 1; omega, by omega⟩

/-- No byte has two names: offsets that name one byte are of one owner and equal (R292). -/
theorem State.xaddr_inj (hq : s.xaddr q i = some a) (ho : s.xaddr o j = some a) : q = o ∧ i = j := by
  obtain ⟨hqb, hqr⟩ := xaddr_eq_some hq
  obtain ⟨hob, hor⟩ := xaddr_eq_some ho
  have owners : q = o :=
    (xowner_of_mem_partition (List.mem_of_getElem? hqb)).symm.trans (xowner_of_mem_partition (List.mem_of_getElem? hob))
  subst owners
  obtain ⟨hlt, -⟩ := List.getElem?_eq_some_iff.1 hqb
  have blocks : i / 1024 = j / 1024 := (List.getElem?_inj hlt (s.nodup_partition q)).1 (hqb.trans hob.symm)
  exact ⟨rfl, by omega⟩

/-! ## Reading and writing byte by byte -/

/-- The byte at a partition offset, 0 where the offset names none. -/
def State.xbyte (s : State) (o i : Nat) : Byte := (s.xaddr o i).elim 0 (xget s.bmv.xmem)

theorem State.xread_eq_map (s : State) (o off n : Nat) :
    s.xread o off n = (upTo n).map fun i => s.xbyte o (off + i) := by
  refine List.map_congr_left fun i _ => ?_
  rw [State.xbyte]
  cases s.xaddr o (off + i) <;> rfl

/-- Reads of one range agree where their bytes do. -/
theorem State.xread_congr {t : State} {off n : Nat} (h : ∀ i < n, t.xbyte o (off + i) = s.xbyte o (off + i)) :
    t.xread o off n = s.xread o off n := by
  rw [xread_eq_map, xread_eq_map]
  exact List.map_congr_left fun i hi => h i ((mem_upTo i n).1 hi)

theorem State.xwrite_cons (s : State) (o off : Nat) (b : Byte) (l : List Byte) :
    s.xwrite o off (b :: l) = (s.xwrite o off [b]).xwrite o (off + 1) l := rfl

/-- A byte written at an offset that names one is set in the memory. -/
theorem State.xwrite_singleton {off : Nat} (h : s.xaddr o off = some a) (b : Byte) :
    s.xwrite o off [b] = { s with bmv := { s.bmv with xmem := cellSet (fun _ => 0) s.bmv.xmem a b } } := by
  simp only [State.xwrite, h]

/-- A byte written at an offset that names none is lost. -/
theorem State.xwrite_singleton_of_none {off : Nat} (h : s.xaddr o off = none) (b : Byte) : s.xwrite o off [b] = s := by
  simp only [State.xwrite, h]

theorem State.xmemWf_xwrite (h : xmemWf s = true) (o off : Nat) (l : List Byte) : xmemWf (s.xwrite o off l) = true :=
  (State.xwrite_keeps o off l (Keeps.refl s)).xmem h

/-- A write moves no block to another owner. -/
theorem State.xwrite_regs (o off : Nat) (l : List Byte) : (s.xwrite o off l).regs = s.regs := by
  induction l generalizing s off with
  | nil => rfl
  | cons b l ih =>
    rw [xwrite_cons, ih]
    cases h : s.xaddr o off with
    | none => rw [xwrite_singleton_of_none h]
    | some a => rw [xwrite_singleton h]

/-- The partitions rest on the register file alone. -/
theorem State.partition_congr {t : State} (h : t.regs = s.regs) (o : Nat) : t.partition o = s.partition o := by
  simp only [State.partition, State.xowner, State.reg, h]

@[simp] theorem State.xwrite_partition (off : Nat) (l : List Byte) (q : Nat) :
    (s.xwrite o off l).partition q = s.partition q := partition_congr (xwrite_regs o off l) q

theorem State.xwrite_xaddr (off : Nat) (l : List Byte) (q i : Nat) : (s.xwrite o off l).xaddr q i = s.xaddr q i := by
  simp only [State.xaddr, xwrite_partition]

/-! ## What a write makes of each byte -/

theorem State.xbyte_xwrite_singleton_same (hwf : xmemWf s = true) (h : i < 1024 * (s.partition o).length) (b : Byte) :
    (s.xwrite o i [b]).xbyte o i = b := by
  obtain ⟨a, ha⟩ := exists_xaddr h
  rw [State.xbyte, xwrite_xaddr, ha, xwrite_singleton ha]
  exact cellGet_set_same _ ((cellWf_iff _ _).1 hwf).1 a b

theorem State.xbyte_xwrite_singleton_other (hwf : xmemWf s = true) (h : ¬ (q = o ∧ i = j)) (b : Byte) :
    (s.xwrite o j [b]).xbyte q i = s.xbyte q i := by
  cases ho : s.xaddr o j with
  | none => rw [xwrite_singleton_of_none ho]
  | some a =>
    rw [State.xbyte, xwrite_xaddr, State.xbyte, xwrite_singleton ho]
    cases hq : s.xaddr q i with
    | none => rfl
    | some c =>
      have apart : c ≠ a := by
        rintro rfl
        exact h (xaddr_inj hq ho)
      exact cellGet_set_other _ ((cellWf_iff _ _).1 hwf).1 apart b

/-- A write leaves every byte outside its range, and every byte of another owner. -/
theorem State.xbyte_xwrite_outside (hwf : xmemWf s = true) {off : Nat} (l : List Byte)
    (h : q ≠ o ∨ i < off ∨ off + l.length ≤ i) : (s.xwrite o off l).xbyte q i = s.xbyte q i := by
  induction l generalizing s off with
  | nil => rfl
  | cons b l ih =>
    rw [List.length_cons] at h
    rw [xwrite_cons, ih (xmemWf_xwrite hwf o off [b]) (by omega), xbyte_xwrite_singleton_other hwf (by omega)]

/-- A write inside the partition leaves its own bytes at its range. -/
theorem State.xbyte_xwrite_inside (hwf : xmemWf s = true) {off : Nat} (l : List Byte)
    (hin : off + l.length ≤ 1024 * (s.partition o).length) (k : Nat) (hk : k < l.length) :
    (s.xwrite o off l).xbyte o (off + k) = l[k] := by
  induction l generalizing s off k with
  | nil => contradiction
  | cons b l ih =>
    rw [List.length_cons] at hin
    have hwf' := xmemWf_xwrite hwf o off [b]
    rw [xwrite_cons]
    cases k with
    | zero =>
      rw [xbyte_xwrite_outside hwf' l (by omega)]
      exact xbyte_xwrite_singleton_same hwf (by omega) b
    | succ k =>
      rw [← Nat.add_assoc, Nat.add_right_comm]
      exact ih hwf' (by rw [xwrite_partition]; omega) k (Nat.lt_of_succ_lt_succ hk)

/-- Settles O59: each byte of the range holds what was written to it, and every other byte, of whatever owner, what it held. -/
theorem partitionsAreSeparate : Obligations.PartitionsAreSeparate := by
  intro s o a b hwf hin
  refine ⟨?readBack, fun q off n hq => ?others, fun off n h => ?rest⟩
  case readBack =>
    rw [State.xread_eq_map]
    refine List.ext_getElem (by simp only [upTo, List.length_map, List.length_range]) fun k _ hk => ?_
    simp only [upTo, List.getElem_map, List.getElem_range]
    exact State.xbyte_xwrite_inside hwf b (of_decide_eq_true hin) k hk
  case others => exact State.xread_congr fun i _ => State.xbyte_xwrite_outside hwf b (.inl hq)
  case rest => exact State.xread_congr fun i hi => State.xbyte_xwrite_outside hwf b (by omega)

end Sys2Proof.Machine
end

section
/-!
PROOF. A read of a pair's low word (R433): it replaces the capture of that function and pair, and no other.
-/

namespace Sys2Proof.Machine

variable {fn : ReadFn} {pr : CapPair}

/-- The captures of one pair for one reading function. -/
def capsFor (fn : ReadFn) (pr : CapPair) (l : List (ReadFn × CapPair × Nat)) : List (ReadFn × CapPair × Nat) :=
  l.filter fun c => decide (c.1 = fn) && decide (c.2.1 = pr)

/-- Captures with the one of a pair for a reading function replaced. -/
def pairCapPut (fn : ReadFn) (pr : CapPair) (v : Nat) (l : List (ReadFn × CapPair × Nat)) : List (ReadFn × CapPair × Nat) :=
  l.filter (fun c => !(decide (c.1 = fn) && decide (c.2.1 = pr))) ++ [(fn, pr, v)]

/-- The new capture is the only one of its pair for its function. -/
theorem capsFor_pairCapPut_same (v : Nat) (l : List (ReadFn × CapPair × Nat)) :
    capsFor fn pr (pairCapPut fn pr v l) = [(fn, pr, v)] := by
  have hdropped : capsFor fn pr (l.filter fun c => !(decide (c.1 = fn) && decide (c.2.1 = pr))) = [] := by
    simp [capsFor]
  rw [pairCapPut, capsFor, List.filter_append, ← capsFor, hdropped]
  simp

/-- Another function's captures, and those of another pair, stay. -/
theorem capsFor_pairCapPut_other {g : ReadFn} {q : CapPair} (hother : g ≠ fn ∨ q ≠ pr) (v : Nat)
    (l : List (ReadFn × CapPair × Nat)) : capsFor g q (pairCapPut fn pr v l) = capsFor g q l := by
  have hnew : [(fn, pr, v)].filter (fun c => decide (c.1 = g) && decide (c.2.1 = q)) = [] := by
    rcases hother with h | h <;> simp [h.symm]
  rw [pairCapPut, capsFor, List.filter_append, List.filter_filter, hnew, List.append_nil, capsFor]
  refine List.filter_congr fun c _ => ?_
  rcases hother with h | h
  · by_cases hg : c.1 = g <;> simp [hg, h]
  · by_cases hq : c.2.1 = q <;> simp [hq, h]

/-- CAPTURE_READ captures the high word of its pair and returns the low word. -/
theorem exec_captureRead (s : State) (fn : ReadFn) (pr : CapPair) :
    exec (.captureRead fn pr) s = .next (({ s with tb := { s.tb with
      pairCaps := pairCapPut fn pr (s.reg (pairRegs pr).2).toNat s.tb.pairCaps } } : State).emit
        (.value fn (s.reg (pairRegs pr).1).toNat)) := rfl

/-- Settles O48: the model's table of pairs is R433's, and the read is one `pairCapPut` and one answer. -/
theorem pairCapture : Obligations.PairCapture := by
  intro s fn pr lo hi hpair
  have hregs : pairRegs pr = (lo, hi) := by
    simp only [List.mem_cons, Prod.mk.injEq, List.not_mem_nil, or_false] at hpair
    rcases hpair with ⟨rfl, rfl, rfl⟩ | ⟨rfl, rfl, rfl⟩ | ⟨rfl, rfl, rfl⟩ | ⟨rfl, rfl, rfl⟩ <;> rfl
  have hread := exec_captureRead s fn pr
  rw [hregs] at hread
  exact ⟨_, hread, rfl, rfl, capsFor_pairCapPut_same _ _, fun g q hother => capsFor_pairCapPut_other hother _ _⟩

end Sys2Proof.Machine
end

section
/-!
PROOF. Counters (R430): a count changes its own field only.
-/

namespace Sys2Proof.Machine

variable {s : State}

/-- A field elsewhere keeps its value when a counter counts. -/
theorem State.get_count_other (h : regsWf s = true) (f g : FRef) (hg : g.lo + g.w ≤ 32)
    (d : f.off ≠ g.off ∨ f.lo + f.w ≤ g.lo ∨ g.lo + g.w ≤ f.lo) : (s.count f).get g = s.get g :=
  get_put_other h f g _ hg d

/-- Settles O53: `State.get_count_same` gives the counter's own field, `State.get_count_other` every other. -/
theorem countersSaturate : Obligations.CountersSaturate :=
  fun _ f h hf _ => ⟨State.get_count_same h f hf, State.get_count_other h f⟩

end Sys2Proof.Machine
end

section
/-!
PROOF. One step: it runs the front command, every command answers, and the canonical forms and the numbers of units stay.
-/

namespace Sys2Proof.Machine

variable {s t : State}

/-! ## Every command answers -/

/-- Every command answers a state that carries the old one: FRAME_TICK and COLD_RESET by their own lemmas, every other inside
the frame. -/
theorem exec_carries (c : Instr) (s : State) : ∃ t, exec c s = .next t ∧ Carries s t := by
  by_cases htick : ∃ f, c = .frameTick f
  · obtain ⟨f, rfl⟩ := htick
    exact execFrameTick_carries f s
  · by_cases hcold : ∃ i, c = .coldReset i
    · obtain ⟨i, rfl⟩ := hcold
      exact execColdReset_carries i s
    · obtain ⟨t, ht, hkeeps⟩ := exec_keeps c s (not_exists.1 htick) (not_exists.1 hcold)
      exact ⟨t, ht, hkeeps.carries⟩

/-- What a command answers carries the old state. -/
theorem Carries.of_exec {c : Instr} (h : exec c s = .next t) : Carries s t := by
  obtain ⟨u, hu, hcarries⟩ := exec_carries c s
  obtain rfl : u = t := Host.Outcome.next.inj (hu.symm.trans h)
  exact hcarries

/-- Settles O42: by `exec_carries`. -/
theorem everyCommandAnswers : Obligations.EveryCommandAnswers := by
  intro c s
  obtain ⟨t, ht, hcarries⟩ := exec_carries c s
  exact ⟨t, ht, hcarries.pending, hcarries.out, hcarries.free⟩

/-! ## A step -/

/-- A step with a command in front runs it on the state with the queue's rest. -/
theorem step_of_pending {c : Instr} {rest : List Instr} (h : s.pending = c :: rest) :
    step s = exec c { s with pending := rest } := by
  simp only [step, h]

/-- A step on an empty queue leaves the state. -/
theorem step_of_empty (h : s.pending = []) : step s = .next s := by
  simp only [step, h]

/-- A step idles, or it is one command on the state with the queue's rest, and what it answers carries that state. -/
theorem step_cases (h : step s = .next t) : t = s ∨ ∃ rest, Carries { s with pending := rest } t := by
  cases hqueue : s.pending with
  | nil => exact .inl (Host.Outcome.next.inj ((step_of_empty hqueue).symm.trans h)).symm
  | cons c rest => exact .inr ⟨rest, .of_exec ((step_of_pending hqueue).symm.trans h)⟩

/-- Settles O37: the front of a pushed queue is the pushed command, its rest the old queue. -/
theorem stepRunsTheFrontCommand : Obligations.StepRunsTheFrontCommand :=
  ⟨fun _ _ => step_of_pending rfl, fun _ _ _ => step_of_pending⟩

/-- Settles O38: by `step_of_empty`. -/
theorem emptyQueueIdles : Obligations.EmptyQueueIdles := fun _ => step_of_empty

/-- The numbers of units are those of `State.blank` exactly where every block has its units. -/
theorem whole_iff_units (s : State) : Whole s ↔ s.units = State.blank.units := by
  simp [Whole, State.units, State.blank]

/-- Settles O40: the queue is no part of the canonical forms, and what the front command answers keeps them. -/
theorem stepKeepsCanonicalForm : Obligations.StepKeepsCanonicalForm := by
  rintro s t ⟨hregs, hxmem, hmram⟩ h
  obtain rfl | ⟨rest, hcarries⟩ := step_cases h
  · exact ⟨hregs, hxmem, hmram⟩
  · exact ⟨hcarries.regs hregs, hcarries.xmem hxmem, hcarries.mram hmram⟩

/-- Settles O41: the queue is no unit, and what the front command answers keeps the numbers of units. -/
theorem stepKeepsUnits : Obligations.StepKeepsUnits := by
  intro s t hwhole h
  obtain rfl | ⟨rest, hcarries⟩ := step_cases h
  · exact hwhole
  · exact (whole_iff_units t).2 (hcarries.units ((whole_iff_units s).1 hwhole))

/-! ## Reset -/

/-- Every ring of the reset state is STOPPED and not enabled. -/
theorem reset_ring (r : RingId) :
    State.reset.get (RNG_STAT_STATE (ringKey r)) = 0 ∧ State.reset.on (RNG_CTL_EN (ringKey r)) = false := by
  cases r with
  | sub => decide
  | adm => decide
  | vi v => revert v; decide

/-- Settles O39: the reset state is a constant, and each part of the statement is read off it. -/
theorem resetState : Obligations.ResetState := by
  refine ⟨by unfold Sound; decide, by unfold Whole; decide, rfl, rfl, rfl, reset_ring, by decide, by decide, by decide,
    by decide, by decide, by decide, by decide, rfl, rfl⟩

/-! ## A ring's command without its entry -/

variable {tag : Tag} {op : Nat}

/-- A start of an opcode that the tag's entry does not hold leaves the state. -/
theorem State.run_of_other_op (h : ∀ d, s.cmd tag = some d → d.entry.op.toNat ≠ op) (f : State → Cmd → State) :
    s.run tag op f = s := by
  unfold State.run
  split
  case h_1 d hcmd => simp [h d hcmd]
  case h_2 => rfl

/-- So does a start or a continuation of a long command. -/
theorem State.runLong_of_other_op (h : ∀ d, s.cmd tag = some d → d.entry.op.toNat ≠ op) (f : State → Cmd → Bool → State) :
    s.runLong tag op f = s := by
  unfold State.runLong
  split
  case h_1 d hcmd => simp [h d hcmd, State.run_of_other_op h]
  case h_2 => rfl

/-- Settles O46: every ring command's meaning starts, or goes on, under its own opcode, by `exec_ringCmd`. -/
theorem wrongOpcodeDoesNothing : Obligations.WrongOpcodeDoesNothing := by
  intro i s tag op hi hop
  obtain ⟨f, hexec⟩ | ⟨f, hexec⟩ := exec_ringCmd hi s
  · rw [hexec, State.run_of_other_op hop]
  · rw [hexec, State.runLong_of_other_op hop]

end Sys2Proof.Machine
end

section
/-!
PROOF. The ring commands, first part (Table 9-6): a command that starts answers what its meaning makes of the state it starts
in; the general commands, IDENTIFY and ABORT, staging, power, Swarm, Snapshot and power states.
-/

namespace Sys2Proof.Machine

variable {s u v : State} {t : Tag} {c : Cmd} {op status result aux : Nat} {i : Instr}

/-! ## Starts -/

/-- A ring's command that starts answers what its meaning makes of the command and of the state it starts in. -/
theorem exec_of_starts {f : State → Cmd → State} (h : Starts s t op c u) (hexec : exec i s = .next (s.run t op f))
    (hv : f u c = v) : exec i s = .next v.mbxShow := by
  rw [hexec, h.run, hv]

/-- It is answered where its meaning ends in its completion. -/
theorem exec_answered {f : State → Cmd → State} (h : Starts s t op c u) (hexec : exec i s = .next (s.run t op f))
    (hv : f u c = v.complete t status result aux) : exec i s = .next (answered v t status result aux) :=
  exec_of_starts h hexec hv

/-! ## General commands -/

/-- Settles O1: each meaning is one completion. -/
theorem generalCommandsComplete : Obligations.GeneralCommandsComplete :=
  ⟨fun _ _ _ _ h => exec_answered h rfl rfl, fun _ _ _ _ h => exec_answered h rfl rfl,
    fun _ _ _ _ h => exec_answered h rfl rfl, fun _ _ _ _ h => exec_answered h rfl rfl⟩

/-! ## IDENTIFY (R242) -/

/-- A flag fits a byte. -/
theorem b2n_lt (b : Bool) : b2n b < 256 := by
  cases b <;> decide

/-- A port's number fits a byte. -/
theorem port_num_lt (p : Port) : p.num < 256 := by
  cases p <;> decide

/-- The IDENTIFY structure has 256 bytes (Table 9-8). -/
theorem State.length_identity (u : State) (c : Cmd) : (u.identity c).length = 256 := by
  unfold identity
  simp only [List.length_append, length_leBytes]
  rw [zeros, List.length_replicate]

/-- The fields of Table 9-8 in their places: each is read past the ones before it. -/
theorem State.identity_layout (u : State) (c : Cmd) :
    leAt (u.identity c) 0x00 4 = (u.reg 0x0).toNat ∧ leAt (u.identity c) 0x1C 4 = 1 ∧
      leAt (u.identity c) 0x33 1 = (match c.who with
        | none => 3
        | some v => b2n (bitOf (u.get CRD_VIPERM_VIS) v.val)) ∧
      leAt (u.identity c) 0x34 1 = c.origin.code % 256 ∧ leAt (u.identity c) 0x35 1 = (u.portOf c.who).num := by
  have hword : (u.reg 0x0).toNat < 4294967296 := (u.reg 0x0).isLt
  have hport := port_num_lt (u.portOf c.who)
  unfold identity
  simp only [List.append_assoc]
  refine ⟨?devid, ?version, ?cards, ?origin, ?port⟩
  all_goals simp [leAt_leBytes_append, leAt_leBytes_append_of_le, Nat.mod_eq_of_lt, hword, hport]
  case cards =>
    cases c.who with
    | none => simp
    | some v => simp [b2n_lt, Nat.mod_eq_of_lt]

/-! ## ABORT (R244) -/

/-- The command that an ABORT of a ring and an identifier names. -/
def State.abortTarget (u : State) (r : RingId) (cid : Nat) : Option Cmd :=
  u.rng.cmds.find? fun x => x.ring == r && x.entry.cid.toNat == cid

/-- Where no command of the ring has the identifier, none is named. -/
theorem State.abortTarget_eq_none {r : RingId} {cid : Nat}
    (h : ∀ d ∈ u.rng.cmds, d.ring = r → d.entry.cid.toNat ≠ cid) : u.abortTarget r cid = none := by
  rw [abortTarget, List.find?_eq_none]
  intro d hd
  simpa using h d hd

/-- QUIESCE, LOG_READ, FW_WRITE, FW_ERASE and a waiting POWER_OFF can be stopped, and leave their residue. -/
theorem State.abortRun_of_abortable {d : Cmd}
    (h : d.entry.op.toNat ∈ [0x24, 0x80, 0x90, 0x91] ∨ (d.entry.op.toNat = 0x21 ∧ bitOf (d.p 0) 0 = true)) :
    u.abortRun d = some (u.cmdResidue d) := by
  simp only [List.mem_cons, List.not_mem_nil, or_false] at h
  rcases h with (h | h | h | h) | ⟨h, hwait⟩
  · simp [abortRun, h]
  · simp [abortRun, h]
  · simp [abortRun, h]
  · simp [abortRun, h]
  · simp [abortRun, h, hwait]

/-- A command of any opcode but the abortable ones cannot be stopped. -/
theorem State.abortRun_of_not_abortable {d : Cmd}
    (h : d.entry.op.toNat ∉ [0x20, 0x21, 0x24, 0x52, 0x80, 0x90, 0x91, 0xF1]) : u.abortRun d = none := by
  simp only [List.mem_cons, List.not_mem_nil, or_false, not_or] at h
  unfold abortRun
  split <;> simp_all

/-- Settles O60: IDENTIFY writes `State.identity`, laid out by `State.identity_layout`; what an ABORT names and whether that can
be stopped decide its answer. -/
theorem identifyAndAbortComplete : Obligations.IdentifyAndAbortComplete := by
  refine ⟨?identify, ?unknown, ?notStarted, ?stopped, ?left⟩
  case identify =>
    intro s t c u h
    exact ⟨exec_of_starts h rfl rfl, u.length_identity c, u.identity_layout c⟩
  case unknown =>
    intro s t c u h hnone
    refine exec_answered h rfl ?_
    cases hring : abortRing c.ring (c.p 0) with
    | none => simp
    | some r =>
      have htarget := State.abortTarget_eq_none (hnone r hring)
      rw [State.abortTarget] at htarget
      simp [htarget]
  case notStarted =>
    intro s t c u r d h hring hfound htag hst
    exact exec_answered h rfl (by simp [hring, hfound, htag, hst, State.done])
  case stopped =>
    intro s t c u r d v k h hring hfound htag hst hop hresidue
    exact exec_answered h rfl
      (by simp [hring, hfound, htag, hst, State.abortRun_of_abortable hop, hresidue, State.done])
  case left =>
    intro s t c u r d h hring hfound htag hst hop
    exact exec_answered h rfl (by simp [hring, hfound, htag, hst, State.abortRun_of_not_abortable hop])

/-! ## Staging -/

/-- Settles O2: the triples go through `State.stageRun`, the verdict decides CHECK's answer, and COMMIT and GRANT_SET wait. -/
theorem stagingCommandsComplete : Obligations.StagingCommandsComplete := by
  refine ⟨?stageWrite, ?stageBulk, fun _ _ _ _ h => exec_of_starts h rfl rfl, ?checkPass, ?checkFail,
    fun _ _ _ _ h => exec_of_starts h rfl rfl, ?discard, fun _ _ _ _ h => exec_of_starts h rfl rfl⟩
  case stageWrite =>
    intro s t c u v n st h hrun
    exact exec_answered h rfl (by simp only [hrun])
  case stageBulk =>
    intro s t data c u v n st h hlen hrun
    exact exec_answered h rfl (by simp only [Nat.not_lt.2 hlen, if_false, hrun])
  case checkPass =>
    intro s t c u h hcheck
    exact exec_answered h rfl (by simp only [hcheck, State.done])
  case checkFail =>
    intro s t c u r h hcheck
    exact exec_answered h rfl (by simp only [hcheck])
  case discard =>
    intro s t c u v n st h hdiscard
    exact exec_answered h rfl (by simp only [hdiscard])

/-! ## Power, Swarm, Snapshot and power states -/

/-- Settles O3: each clause's conditions choose one branch of its command's meaning. -/
theorem powerCommandsComplete : Obligations.PowerCommandsComplete := by
  refine ⟨?powerOnBusy, ?powerOn, ?powerOff, fun _ _ _ _ h => exec_answered h rfl rfl, ?resync, ?rejoin,
    fun _ _ _ _ h => exec_answered h rfl rfl, ?snapshot, ?stateRun, ?stateHold, ?quiesce, ?resume,
    fun _ _ _ _ h => exec_answered h rfl rfl⟩
  case powerOnBusy =>
    intro s t c u h hbusy
    have hst : (u.get PSQ_SEQSTAT_STATE == seqDOWN || u.get PSQ_SEQSTAT_STATE == seqCOOL) = true := by simpa using hbusy
    exact exec_answered h rfl (if_pos hst)
  case powerOn =>
    intro s t c u h hsound hoff hsrc hheld
    have hhs : (u.put PSQ_SEQSTAT_RETRY 0).get SUP_HSSTAT_STATE = u.get SUP_HSSTAT_STATE :=
      State.get_put_other hsound.1 _ _ _ (by decide) (.inl (by decide))
    have hcfg : (u.put PSQ_SEQSTAT_RETRY 0).on PSQ_SEQCFG_SRC = u.on PSQ_SEQCFG_SRC :=
      congrArg (· == 1) (State.get_put_other hsound.1 _ _ _ (by decide) (.inl (by decide)))
    exact exec_of_starts h rfl (by simp [hoff, hhs, hheld, hcfg, hsrc])
  case powerOff =>
    intro s t c u h hon
    exact exec_of_starts h rfl (by simp [hon, seqON, seqLOCKOUT, seqDOWN])
  case resync =>
    intro s t c u h hp
    exact exec_answered h rfl (by simp only [hp, if_true, State.done])
  case rejoin =>
    intro s t c u h hp
    exact exec_answered h rfl (by simp only [hp, if_false, State.done])
  case snapshot =>
    intro s t c u h htrig hbusy
    exact exec_of_starts h rfl (by simp [htrig, hbusy])
  case stateRun =>
    intro s t c u h hp
    exact exec_answered h rfl (if_pos hp)
  case stateHold =>
    intro s t c u h hp hdown hvi
    exact exec_of_starts h rfl (by simp [hp, hdown, hvi])
  case quiesce =>
    rintro s t c u _ h rfl
    exact exec_of_starts h rfl rfl
  case resume =>
    rintro s t c u _ h rfl
    exact exec_answered h rfl rfl

end Sys2Proof.Machine
end

section
/-!
PROOF. The ring commands, second part (Table 9-6): subchannels, the Chain Cache, the Block Mover's channels and the card ports.
-/

namespace Sys2Proof.Machine

variable {s u v : State} {t w : Tag} {c d : Cmd} {n : Nat}

/-! ## The start that a halt overrides (R243) -/

/-- A start command of the resource that may start and fails no check is overridden: it completes with 0x61. -/
theorem State.startLost_of_start {ops : List Nat} (head : State → Word → State) (hcmd : u.cmd w = some d)
    (hop : d.entry.op.toNat ∈ ops) (hp : d.p 0 = n) (hmay : u.mayRun d = true) (hcheck : u.cmdCheck d.ring d.entry = none) :
    u.startLost t n ops head (some (.cmd w)) = u.complete w 0x61 0 0 := by
  simp [startLost, hcmd, hop, hp, hmay, hcheck]

/-! ## Subchannels and the Chain Cache -/

/-- Settles O4: each clause's conditions choose one branch of its command's meaning. -/
theorem chainCommandsComplete : Obligations.ChainCommandsComplete := by
  refine ⟨?startDisabled, ?start, ?halt, ?overridden, ?resumeAt, ?suspend, ?resume, fun _ _ _ _ h => exec_answered h rfl rfl,
    ?inval, fun _ _ _ _ h => exec_answered h rfl rfl⟩
  case startDisabled =>
    intro s t c u h hen
    exact exec_answered h rfl (by simp [hen])
  case start =>
    intro s t c u h hen hquiet hst
    have hfree : (u.scSt (c.p 0) != scIDLE && u.scSt (c.p 0) != scSTOPPED) = false := by
      rcases hst with hst | hst <;> simp [hst]
    exact exec_answered h rfl (by simp [hen, hquiet, hfree, State.done])
  case halt =>
    rintro s t same c u _ h rfl
    exact exec_answered h rfl rfl
  case overridden =>
    intro u t n w d hcmd hop hp hmay hcheck
    exact State.startLost_of_start _ hcmd hop hp hmay hcheck
  case resumeAt =>
    intro s t c u h hen hfail hidle hbusy hholds
    exact exec_answered h rfl (by simp [hen, hfail, hidle, hbusy, hholds, State.done])
  case suspend =>
    rintro s t same c u _ bit st h rfl hhold
    exact exec_answered h rfl (by simp only [hhold, State.done])
  case resume =>
    intro s t c u h hen hfail hst hfreed
    exact exec_answered h rfl (by simp [hen, hfail, hst, hfreed, scBusy, State.done, scSUSPENDED, scSTOPPED, scACTIVE, scBUDGET,
      scWAITING, scPAGE])
  case inval =>
    intro s t c u v k h hinval
    exact exec_answered h rfl (by simp only [hinval, State.done])

/-! ## Channels -/

/-- Settles O5: each clause's conditions choose one branch of its command's meaning. -/
theorem moverCommandsComplete : Obligations.MoverCommandsComplete := by
  refine ⟨?start, ?startDisabled, ?abortIdle, ?abort, ?suspend, ?overridden, ?resumeTail, ?resumeStopped,
    fun _ _ _ _ h => exec_answered h rfl rfl, ?restart⟩
  case start =>
    intro s t c u h hen hestop hquiet hst
    have hfree : (u.dcSt (c.p 0) != dcIDLE && u.dcSt (c.p 0) != dcSTOPPED) = false := by
      rcases hst with hst | hst <;> simp [hst]
    exact exec_answered h rfl (by simp [hen, hestop, hquiet, hfree, State.done])
  case startDisabled =>
    intro s t c u h hen
    exact exec_answered h rfl (by simp [hen])
  case abortIdle =>
    rintro s t same c u _ h rfl hidle
    exact exec_answered h rfl (by simp [hidle, State.done])
  case abort =>
    rintro s t same c u _ h rfl hidle
    exact exec_of_starts h rfl (by simp [hidle])
  case suspend =>
    rintro s t same c u _ bit v h rfl hhold hidle hstopped hsuspended
    exact exec_of_starts h rfl (by simp [hhold, hidle, hstopped, hsuspended])
  case overridden =>
    intro u t n w d hcmd hop hp hmay hcheck
    unfold State.dcLost
    exact State.startLost_of_start _ hcmd hop hp hmay hcheck
  case resumeTail =>
    intro s t c u h hen hestop hfail hst
    exact exec_answered h rfl (by simp [hen, hestop, hfail, hst, dcBusy, State.done, dcTAIL, dcACTIVE, dcBUDGET, dcPAGE])
  case resumeStopped =>
    intro s t c u h hen hestop hfail hst
    exact exec_answered h rfl (by
      simp [hen, hestop, hfail, hst, dcBusy, State.done, dcSTOPPED, dcACTIVE, dcBUDGET, dcRECORD, dcTAIL])
  case restart =>
    rintro s t c u _ _ h rfl rfl
    exact exec_answered h rfl rfl

/-! ## Card ports -/

/-- A command of a session that stands runs on it. -/
theorem State.withSess_of_sessOf {h : Nat} {x : Sess} (hx : u.sessOf h = some x) (f : State → Sess → State) :
    u.withSess t h f = f u x := by
  simp only [withSess, hx]

/-- Settles O6: each clause's conditions choose one branch of its command's meaning, those of a session through
`State.withSess_of_sessOf`. -/
theorem cardCommandsComplete : Obligations.CardCommandsComplete := by
  refine ⟨?openOwner, ?openVi, ?close, ?apdu, ?exclBegin, ?exclEnd, ?activate, ?deactivate, ?atr, ?noCard, ?selftest⟩
  case openOwner =>
    intro s t c u v h hs hen hup hsess hwho hmake
    rw [hwho] at hsess
    exact exec_answered hs rfl (by simp [hen, hup, hsess, hwho, hmake, State.done])
  case openVi =>
    intro s t c u w hs hen hup hsess hwho hchans
    rw [hwho] at hsess
    exact exec_of_starts hs rfl (by simp [hen, hup, hsess, hwho, Nat.not_le.2 hchans])
  case close =>
    intro s t c u x hs hx
    exact exec_of_starts hs rfl (State.withSess_of_sessOf hx _)
  case apdu =>
    intro s t data c u x a hs hx hexp hout hquiet hfor
    exact exec_of_starts hs rfl
      ((State.withSess_of_sessOf hx _).trans (by simp [hexp, hout, hquiet, hfor]))
  case exclBegin =>
    intro s t c u x hs hx hp hholds hwaits
    exact exec_of_starts hs rfl ((State.withSess_of_sessOf hx _).trans (by simp [hp, hholds, hwaits]))
  case exclEnd =>
    intro s t c u x hs hx hp hexp hexcl hhandle
    exact exec_of_starts hs rfl
      ((State.withSess_of_sessOf hx _).trans (by simp [hp, hexp, hexcl, hhandle, State.done]))
  case activate =>
    intro s t c u hs hen hpresent hup hst
    exact exec_of_starts hs rfl (by simp [hen, hpresent, hup, hst])
  case deactivate =>
    intro s t c u hs hst hup hexch hph
    exact exec_of_starts hs rfl (by simp [hst, hup, hexch, hph])
  case atr =>
    intro s t c u hs hpresent
    exact exec_of_starts hs rfl (by simp [hpresent])
  case noCard =>
    intro s t c u hs hpresent
    exact exec_answered hs rfl (by simp [hpresent])
  case selftest =>
    rintro s t res c u _ hs hsess hst rfl
    exact exec_answered hs rfl (by simp [hsess, hst, State.done])

end Sys2Proof.Machine
end

section
/-!
PROOF. The ring commands, last part (Table 9-6): lamps, temperature, readings, records, firmware, authorisation, keys and
measurements.
-/

namespace Sys2Proof.Machine

variable {s u v : State} {t : Tag} {c : Cmd} {op status result aux : Nat} {i : Instr}

/-! ## Lamps, temperature and readings -/

/-- Settles O7: each clause's conditions choose one branch of its command's meaning. -/
theorem sensorAndLampCommandsComplete : Obligations.SensorAndLampCommandsComplete := by
  refine ⟨?lampStore, ?lampRaise, ?lampPattern, ?lampUnver, ?lampStatus, fun _ _ _ _ h => exec_answered h rfl rfl,
    fun _ _ _ _ h => exec_answered h rfl rfl, ?alarmClear, fun _ _ _ _ h => exec_answered h rfl rfl,
    fun _ _ _ _ h => exec_of_starts h rfl rfl, ?adcCal, ?adcCalBusy, fun _ _ _ _ h => exec_of_starts h rfl rfl⟩
  case lampStore =>
    intro s t c u h hen hlevel
    exact exec_answered h rfl (by simp [hen, hlevel, State.done])
  case lampRaise =>
    intro s t c u h hen hlevel hwaiting
    exact exec_of_starts h rfl (by simp [hen, Nat.not_le.2 hlevel, hwaiting])
  case lampPattern =>
    intro s t c u h hen
    exact exec_answered h rfl (by simp [hen, State.done])
  case lampUnver =>
    intro s t c u h hdiag
    exact exec_answered h rfl (by simp [hdiag])
  case lampStatus =>
    intro s t c u h hdiag
    exact exec_answered h rfl (by simp [hdiag])
  case alarmClear =>
    rintro s t c u _ h rfl
    exact exec_answered h rfl rfl
  case adcCal =>
    intro s t c u h hcal
    exact exec_of_starts h rfl (by simp [hcal])
  case adcCalBusy =>
    intro s t c u h hcal
    exact exec_answered h rfl (by simp [Option.isSome_iff_ne_none.2 hcal])

/-! ## Records and firmware -/

/-- A long command that starts answers as any other, and is told that it starts (R244). -/
theorem exec_of_starts_long {f : State → Cmd → Bool → State} (h : Starts s t op c u)
    (hexec : exec i s = .next (s.runLong t op f)) (hv : f u c true = v) : exec i s = .next v.mbxShow := by
  have hstart := h
  obtain ⟨d, hcmd, -, hmay, -⟩ := h
  exact exec_of_starts hstart (hexec.trans (congrArg _
    (State.runLong_of_not_running hcmd (State.not_running_of_mayRun hmay) f))) hv

/-- What is left of a stream from `first` on, where the asked records all lie before its next SEQ (R179). -/
theorem left_of_stream {first k next : Nat} (hk : first + k ≤ next) (hnext : next < first + 2 ^ 31) (_ : next < 2 ^ 32) :
    min k (if (next + 2 ^ 32 - first) % 2 ^ 32 < 2 ^ 31 then (next + 2 ^ 32 - first) % 2 ^ 32 else 0) = k := by
  have hleft : (next + 2 ^ 32 - first) % 2 ^ 32 = next - first := by omega
  rw [hleft, if_pos (by omega)]
  omega

/-- Settles O8: each clause's conditions choose one branch of its command's meaning; LOG_READ's counts are those of
`left_of_stream`. -/
theorem storeAndFirmwareCommandsComplete : Obligations.StoreAndFirmwareCommandsComplete := by
  refine ⟨?logRead, fun _ _ _ _ h => exec_answered h rfl rfl, ?fwWrite, ?fwErase, ?fwVerify,
    fun _ _ _ _ h => exec_of_starts h rfl rfl, fun _ _ _ _ h => exec_of_starts h rfl rfl, ?fwActivate, ?fwCommit, ?patchLoad⟩
  case logRead =>
    rintro s t c u _ _ h rfl hhead rfl hfull hskipped hlast hnext
    have hleft := left_of_stream hlast hnext (BitVec.isLt _)
    refine exec_of_starts_long h rfl ?_
    cases hfirst : (u.st.stream (streamOf (c.p 0))).recs.head? with
    | none => simp only [hfirst, hfull, hskipped, hleft, Option.getD_none, Option.isSome_none, Bool.false_eq_true, if_false]
    | some r =>
      simp only [hfirst, hhead r hfirst, Bool.false_and, hfull, hskipped, hleft, Option.getD_none, Option.isSome_none,
        Bool.false_eq_true, if_false]
  case fwWrite =>
    intro s t data c u h hruns hcount
    exact exec_of_starts_long h rfl (by simp [hruns, hcount, State.done])
  case fwErase =>
    intro s t c u h hruns
    exact exec_of_starts_long h rfl (by simp [hruns, State.done])
  case fwVerify =>
    intro s t b c u h hcode
    exact exec_of_starts h rfl (by simp [hcode, State.done])
  case fwActivate =>
    rintro s t c u _ h hdown rfl
    exact exec_of_starts h rfl (by simp [hdown, State.done])
  case fwCommit =>
    intro s t c u x h hsvc hpatch hpatch'
    exact exec_answered h rfl (by simp [hsvc, hpatch', State.done])
  case patchLoad =>
    rintro s t img c u _ h hcode hlen rfl
    exact exec_answered h rfl (by simp [hcode, Nat.not_lt.2 hlen, State.done])

/-! ## Authorisation, keys and measurements -/

/-- Settles O9: each clause's conditions choose one branch of its command's meaning. -/
theorem trustCommandsComplete : Obligations.TrustCommandsComplete := by
  refine ⟨?openRefused, ?opened, ?close, ?closeNone, fun _ _ _ _ h => exec_answered h rfl rfl,
    fun _ _ _ _ _ h => exec_answered h rfl rfl, fun _ _ _ _ h => exec_answered h rfl rfl,
    fun _ _ _ _ h => exec_of_starts h rfl rfl⟩
  case openRefused =>
    intro s t c u h hrefused
    exact exec_answered h rfl (if_pos (by simpa using hrefused))
  case opened =>
    intro s t c u h hlocked htamper hopen hnonce
    exact exec_of_starts h rfl (by simp [hlocked, htamper, hopen, hnonce])
  case close =>
    intro s t c u h hopen
    exact exec_answered h rfl (if_pos hopen)
  case closeNone =>
    intro s t c u h hopen
    exact exec_answered h rfl (by simp [hopen])

end Sys2Proof.Machine
end

section
/-!
PROOF. The events and register commands of the timebase, the power sequence, the Swarm line, supervision, the front end and the
thermal block (chapters 02 to 05): each clause's conditions choose one branch of its command's meaning.
-/

namespace Sys2Proof.Machine

variable {s t u v : State} {i : Instr} {n : Nat}

/-- A command answers the state that its meaning makes. -/
theorem exec_next (hexec : exec i s = .next u) (h : u = v) : exec i s = .next v :=
  hexec.trans (congrArg _ h)

/-! ## Timebase -/

section PhaseRecords

variable {p : Nat} (l : List Nat)

/-- The phase records as PHMAX_CLR clears them. -/
def State.phasesClear (s : State) (l : List Nat) : State := l.foldl (fun t q => t.put (FRM_PHASEMAX_CYCLES q) 0) s

/-- A phase record that is 0 stays 0. -/
theorem State.phasesClear_of_zero (h : regsWf s = true) (hp : s.get (FRM_PHASEMAX_CYCLES p) = 0) :
    (s.phasesClear l).get (FRM_PHASEMAX_CYCLES p) = 0 := by
  refine (List.foldlRecOn (motive := fun t : State => regsWf t = true ∧ t.get (FRM_PHASEMAX_CYCLES p) = 0) _ _ ⟨h, hp⟩
    fun t ⟨hwf, ht⟩ q _ => ⟨State.regsWf_put hwf _ _, ?_⟩).2
  by_cases hq : q = p
  · exact hq ▸ State.get_put_same hwf _ _ (Nat.le_of_ble_eq_true rfl)
  · rw [State.get_put_other hwf _ _ _ (Nat.le_of_ble_eq_true rfl) (.inl (by simp only [FRM_PHASEMAX_CYCLES]; omega)), ht]

/-- A phase record that is cleared is 0. -/
theorem State.phasesClear_of_mem (h : regsWf s = true) (hp : p ∈ l) :
    (s.phasesClear l).get (FRM_PHASEMAX_CYCLES p) = 0 := by
  induction l generalizing s with
  | nil => cases hp
  | cons q l ih =>
    have hwf := State.regsWf_put h (FRM_PHASEMAX_CYCLES q) 0
    rcases List.mem_cons.1 hp with rfl | hl
    · exact State.phasesClear_of_zero l hwf (State.get_put_same h _ _ (Nat.le_of_ble_eq_true rfl))
    · exact ih hwf hl

end PhaseRecords

/-- Settles O10: the reads' own states answer their clauses, and every phase record is cleared. -/
theorem timebaseCommandsComplete : Obligations.TimebaseCommandsComplete := by
  refine ⟨?window, ?fail, ?restored, ?wrap, ?tsRead, ?capture, fun _ => rfl, ?phases⟩
  case window =>
    rintro s n _ hxtal hasleep hvault hlow hslot hlo hhi hrlo hrhi rfl
    exact exec_next rfl (by simp [hxtal, hasleep, hvault, hlow, hslot, hlo, hhi, hrlo, hrhi])
  case fail =>
    intro s hxtal
    exact exec_next rfl (by simp [hxtal])
  case restored =>
    intro s hxtal
    exact exec_next rfl (if_pos hxtal)
  case wrap =>
    intro s ts hwrap
    exact exec_next rfl (by simp only [hwrap])
  case tsRead =>
    intro s fn
    have hcapture (u : State) (hu : u.tb.tsCaps = capPut fn (s.touch.now / 2 ^ 32) s.tb.tsCaps) :
        u.tsHi fn = s.touch.now / 2 ^ 32 := State.tsHi_of_find (hu ▸ find_capPut_same fn _ _)
    exact ⟨_, rfl, rfl, hcapture _ rfl⟩
  case capture =>
    intro s fn pr
    exact ⟨_, exec_captureRead s fn pr, rfl, rfl, by simp [pairCapPut]⟩
  case phases =>
    intro s hwf
    exact ⟨_, rfl, fun p hp => State.phasesClear_of_mem (upTo 6) hwf ((mem_upTo p 6).2 hp)⟩

/-! ## Power sequence -/

/-- Some number below `n` is accepted. -/
theorem any_upTo {p : Nat → Bool} : (upTo n).any p = true ↔ ∃ k < n, p k = true := by
  simp [List.any_eq_true]

/-- A critical rail whose rise failed is found. -/
theorem any_critical (h : ∃ n < 24, s.riseFailed n = true ∧ s.tolerant n = false) :
    ((upTo 24).any fun n => s.riseFailed n && !s.tolerant n) = true := by
  obtain ⟨n, hn, hfailed, htolerant⟩ := h
  exact any_upTo.2 ⟨n, hn, by simp [hfailed, htolerant]⟩

/-- None is where every failed rail is tolerant. -/
theorem any_critical_of_tolerant (h : ∀ n < 24, s.riseFailed n = true → s.tolerant n = true) :
    ((upTo 24).any fun n => s.riseFailed n && !s.tolerant n) = false := by
  simpa using h

/-- Settles O11: each clause's conditions choose one branch of its command's meaning. -/
theorem sequenceCommandsComplete : Obligations.SequenceCommandsComplete := by
  refine ⟨?start, ?enable, ?teardown, ?flagged, ?coolDown, ?deassert, ?fall, fun _ _ => rfl⟩
  case start =>
    intro s hphase hready
    exact exec_next rfl (by simp [hphase, hready])
  case enable =>
    intro s hphase
    exact exec_next rfl (if_pos hphase)
  case teardown =>
    rintro s _ hphase hcritical rfl
    have hany : (upTo 24).any s.riseFailed = true := by
      obtain ⟨n, hn, hfailed, -⟩ := hcritical
      exact any_upTo.2 ⟨n, hn, hfailed⟩
    exact exec_next rfl (by simp only [hphase, hany, any_critical hcritical, Bool.and_self, if_true])
  case flagged =>
    rintro s _ hphase hfailed htolerant rfl
    exact exec_next rfl (by
      simp only [hphase, any_upTo.2 hfailed, any_critical_of_tolerant htolerant, Bool.and_self, if_true, Bool.false_eq_true,
        if_false])
  case coolDown =>
    rintro s _ hphase hcool hdue rfl
    exact exec_next rfl (by simp [hphase, hcool, hdue])
  case deassert =>
    intro s hphase
    exact exec_next rfl (if_pos hphase)
  case fall =>
    intro s hphase hlate
    exact exec_next rfl (by simp only [hphase, any_upTo.2 hlate, Bool.and_self, if_true])

/-! ## Swarm line -/

/-- What a device does with a beacon of value `v` that is not its own: it ends a fallback for which a rejoin is armed, compares
the value, or, a follower, joins on it (R79, R81, R83, R84). -/
def State.hearBeacon (s : State) (v : Nat) : State :=
  if s.sw.fellBack then if s.sw.rejoin then (s.put PSQ_SWSTAT_STATE v).swRejoin else s
  else if s.on PSQ_SWSTAT_JOINED then s.swCompare v
  else if s.swLeader then s
  else ((s.put PSQ_SWSTAT_STATE v).put PSQ_SWSTAT_JOINED 1).swJoinStarts v

/-- A follower hears another's beacon. -/
theorem exec_swarmBeacon_of_follower {v : BitVec 8} (hrole : s.swRole = true) (hleader : s.swLeader = false)
    (hu : u = { s with sw := { s.sw with receiving := false, lastBeacon := s.tb.ticks, noBeaconDone := false } }) :
    exec (.swarmBeacon v false) s = .next (u.hearBeacon v.toNat) := by
  subst hu
  have hnone (a b : State) : (if s.swLeader then a else b).hearBeacon v.toNat = b.hearBeacon v.toNat := by
    rw [if_neg (ne_true_of_eq_false hleader)]
  exact exec_next rfl ((if_neg (by simp [hrole])).trans ((if_neg (by simp)).trans (hnone _ _)))

/-- Settles O12: each clause's conditions choose one branch of its command's meaning. -/
theorem swarmLineCommandsComplete : Obligations.SwarmLineCommandsComplete := by
  refine ⟨?saturated, ?advance, ?catchup, ?resync, ?ownResync, ?rejoin, ?fallenBack, ?glitch, ?gap, ?compare, ?join, ?own,
    ?joinTimeout, ?nobeacon, ?release⟩
  case saturated =>
    rintro s _ hcounts hstate rfl
    exact exec_next rfl (by simp [hcounts, hstate])
  case advance =>
    rintro s k _ hcounts rfl hstate rfl
    exact exec_next rfl (by simp [hcounts, hstate])
  case catchup =>
    intro s hmiss hcounts hpresent hon hlost hdown
    exact exec_next rfl (if_pos (by simp [hmiss, hcounts, hpresent, hon, hlost, Decidable.not_and_iff_not_or_not.1 hdown]))
  case resync =>
    rintro s _ hrole rfl hfell hpulse
    exact exec_next rfl (by simp only [hrole, if_true, State.put_sw, hfell, Bool.false_eq_true, if_false])
  case ownResync =>
    rintro s _ e hrole rfl hfell hpulse
    exact exec_next rfl (by simp [hrole, hfell, hpulse])
  case rejoin =>
    rintro s _ hrole rfl hfell hrejoin
    exact exec_next rfl ((if_pos hrole).trans ((if_pos hfell).trans (if_pos hrejoin)))
  case fallenBack =>
    rintro s _ hrole rfl hfell hrejoin
    exact exec_next rfl ((if_pos hrole).trans ((if_pos hfell).trans (if_neg (ne_true_of_eq_false hrejoin))))
  case glitch =>
    intro s hrole
    exact exec_next rfl (if_pos hrole)
  case gap =>
    intro s hrole
    exact exec_next rfl (if_pos hrole)
  case compare =>
    rintro s v u hrole hleader hfell hjoined hu
    refine exec_next (exec_swarmBeacon_of_follower hrole hleader hu) ?_
    subst hu
    exact (if_neg (ne_true_of_eq_false hfell)).trans (if_pos hjoined)
  case join =>
    rintro s v u hrole hleader hfell hjoined hu
    refine exec_next (exec_swarmBeacon_of_follower hrole hleader hu) ?_
    subst hu
    exact (if_neg (ne_true_of_eq_false hfell)).trans
      ((if_neg (ne_true_of_eq_false hjoined)).trans (if_neg (ne_true_of_eq_false hleader)))
  case own =>
    intro s v hrole hleader
    exact exec_next rfl ((if_neg (by simp [hrole])).trans (if_pos (Bool.and_eq_true_iff.2 ⟨hleader, rfl⟩)))
  case joinTimeout =>
    intro s hrole hleader hjoined hfell hlate
    exact exec_next rfl (by simp [hrole, hleader, hjoined, hfell, hlate])
  case nobeacon =>
    intro s hrole hjoined hdone hlate
    exact exec_next rfl (by simp [hrole, hjoined, hdone, hlate])
  case release =>
    intro s hclaimed hphase hdue hsettled
    exact exec_next rfl (by simp [hclaimed, hphase, hdue, hsettled])

/-- Settles O13: each clause's conditions choose one branch of its command's meaning. -/
theorem swarmLeaderCommandsComplete : Obligations.SwarmLeaderCommandsComplete := by
  refine ⟨?advance, ?resync, ?beacon, ?stuck, fun _ => rfl, fun _ => rfl⟩
  case advance =>
    intro s hpaces hhigh hbelow
    exact exec_next rfl (by simp [hpaces, hhigh, hbelow])
  case resync =>
    intro s hleader hconflict hreq hpulse hhigh
    exact exec_next rfl (by simp [hleader, hconflict, hreq, hpulse, hhigh])
  case beacon =>
    intro s hpaces hhigh hdue
    exact exec_next rfl (by simp [hpaces, hhigh, hdue])
  case stuck =>
    rintro s _ t hleader hhigh hdone hhold hdue rfl
    have hlong : s.holdLong = true := by simp [State.holdLong, hhold, hhigh, hdue]
    exact exec_next rfl (by simp only [hleader, hdone, hlong, Bool.not_false, Bool.and_self, if_true]; rfl)

end Sys2Proof.Machine
end

section
/-!
PROOF. The events of supervision, the front end and the thermal block (chapters 03 to 05): each clause's conditions choose one
branch of its command's meaning.
-/

namespace Sys2Proof.Machine

variable {s t u v : State} {e : Int} {l : List Fast}

/-- Settles O14: each clause's conditions choose one branch of its command's meaning. -/
theorem supervisionCommandsComplete : Obligations.SupervisionCommandsComplete := by
  refine ⟨?fault, ?leadEnd, ?present, ?absent, ?shelf, ?rideThrough, ?onCocoon, ?collapse, ?overcap⟩
  case fault =>
    intro s n x hwatched hheld harmed
    exact exec_next rfl (by simp [hwatched, hheld, harmed])
  case leadEnd =>
    intro s e hend hdue hphase hstop
    refine exec_next rfl ?_
    simp only [hend, hdue, hphase, Bool.and_self, if_true]
    exact if_pos hstop
  case present =>
    intro s hrun hlow hvault hon hstop
    exact exec_next rfl (by simp [hrun, hlow, hvault, hon, hstop])
  case absent =>
    intro s hon hrun
    exact exec_next rfl (by simp [hon, hrun])
  case shelf =>
    intro s hoff hrun
    exact exec_next rfl (by simp [hoff, hrun, State.putB, b2n])
  case rideThrough =>
    intro s hrt hon hrun hwarn
    exact exec_next rfl (by simp [hrt, hon, hrun, hwarn])
  case onCocoon =>
    intro s hphase hbelow hon hlow hvault
    exact exec_next rfl (by simp [hphase, hbelow, hon, hlow, hvault])
  case collapse =>
    rintro s mv _ hcocoon hbelow hcollapsed rfl
    exact exec_next rfl (if_pos (by simp [hcocoon, hbelow, hcollapsed]))
  case overcap =>
    intro s mv hcap hheld
    exact exec_next rfl (by simp [hcap, hheld])

/-! ## Front end -/

/-- The FET energy of a sample over its limit trips a switch that conducts and is not fully enhanced. -/
theorem exec_soaTrip_of_hit (hhit : (s.fastRun l).sup.fast.soaHit = some e)
    (hv : v = { s.fastRun l with sup := { (s.fastRun l).sup with fast := { (s.fastRun l).sup.fast with soaHit := none } } }) :
    exec (.soaTrip l) s =
      .next (if v.conducts && v.get SUP_HSSTAT_STATE != hsON then v.hsFault 5 (some (v.rawUj e / 1000).toNat) else v) := by
  subst hv
  exact exec_next rfl (by simp only [hhit])

/-- A window sum over the interlock's limit trips a switch that conducts. -/
theorem exec_interlockTrip_of_hit (hhit : (s.fastRun l).sup.fast.ilkHit = some e)
    (hv : v = { s.fastRun l with sup := { (s.fastRun l).sup with fast := { (s.fastRun l).sup.fast with ilkHit := none } } }) :
    exec (.interlockTrip l) s =
      .next (if v.conducts then (v.snapAsk 1 0x3006 0).hsFault 1 (some (v.rawUj e / 1000).toNat) else v) := by
  subst hv
  exact exec_next rfl (by simp only [hhit])

/-- Settles O15: each clause's conditions choose one branch of its command's meaning. -/
theorem frontEndCommandsComplete : Obligations.FrontEndCommandsComplete := by
  refine ⟨?charge, ?enhanced, ?inrush, ?overcurrent, ?short, ?soa, ?reverse, ?reverseOff, fun _ => rfl, ?interlock, ?discharge,
    ?failed, ?unverified⟩
  case charge =>
    intro s hphase hready
    exact exec_next rfl (if_pos (by simp [hphase, hready]))
  case enhanced =>
    intro s hcharging hrun hdrop
    exact exec_next rfl (if_pos (by simp [hcharging, hrun, hdrop]))
  case inrush =>
    intro s hcharging hdue
    exact exec_next rfl (if_pos (by simp [hcharging, hdue]))
  case overcurrent =>
    intro s hon hrun
    exact exec_next rfl (if_pos (by simp [hon, hrun]))
  case short =>
    intro s uv hconducts hover
    exact exec_next rfl (if_pos (by simp [hconducts, hover]))
  case soa =>
    rintro s l _ e v rfl hhit hconducts hon rfl
    exact exec_next (exec_soaTrip_of_hit hhit rfl) (if_pos (Bool.and_eq_true_iff.2 ⟨hconducts, bne_iff_ne.2 hon⟩))
  case reverse =>
    intro s uv hconducts hon hover
    exact exec_next rfl (by simp [hconducts, hon, hover])
  case reverseOff =>
    intro s uv hconducts hon hover
    exact exec_next rfl (by simp [hconducts, hon, hover])
  case interlock =>
    rintro s l _ e v rfl hhit hconducts rfl
    exact exec_next (exec_interlockTrip_of_hit hhit rfl) (if_pos hconducts)
  case discharge =>
    intro s hphase hdue
    exact exec_next rfl (if_pos (by simp [hphase, hdue]))
  case failed =>
    rintro s _ hrunning hdue hok rfl
    exact exec_next rfl (by simp [hrunning, hdue, hok])
  case unverified =>
    intro s hrunning hdue hok
    exact exec_next rfl (by simp [hrunning, hdue, hok])

/-! ## Thermal block -/

/-- Settles O16: each clause's conditions choose one branch of its command's meaning. -/
theorem thermalCommandsComplete : Obligations.ThermalCommandsComplete := by
  refine ⟨?good, ?opened, fun _ => rfl, fun _ _ _ _ => rfl, ?stale, fun _ _ => rfl, fun _ => rfl⟩
  case good =>
    intro s uv temp cal hlo hhi hratio
    exact exec_next rfl (if_neg (by simp [hlo, hhi, hratio]))
  case opened =>
    rintro s uv temp cal _ hopen hratio hknown rfl
    have hlong : ¬ uv < 150 := by omega
    have hnotFirst : (!(s.on THM_DIODESTAT_OPEN || s.on THM_DIODESTAT_SHORT || s.on THM_DIODESTAT_RATIO)) = false := by
      rcases hknown with h | h | h <;> simp [h]
    exact exec_next rfl (by simp [hopen, hlong, Nat.not_lt.2 hratio, hnotFirst])
  case stale =>
    intro s r hrec
    exact exec_next rfl (if_pos hrec)

end Sys2Proof.Machine
end

section
/-!
PROOF. Sentinel's mailbox and heartbeat, and the service authorisation (chapter 06): each clause's conditions choose one branch of
its command's meaning.
-/

namespace Sys2Proof.Machine

variable {s t u v : State} {r : MbxReq} {c : Cmd} {e : SqEntry}

/-! ## Mailbox and heartbeat -/

/-- With every slot occupied the mailbox refuses a request. -/
theorem State.mbxAsk_of_full (h : 8 ≤ s.snt.mbx.length) : s.mbxAsk r = s.count SNT_MBXSTAT_REFUSED := if_pos h

/-- A fetched command that is forwarded as it stands takes a slot. -/
theorem State.mbxAsk_cmd {k : Tag} (h : s.snt.mbx.length < 8) (hcmd : s.cmd k = some c)
    (hquoted : (s.snt.mbx.any fun m => quotes k m.req) = false) (hst : c.st = .fetched) :
    s.mbxAsk (.cmd k c.entry) = (s.modCmd k fun c => { c with st := .asked }).mbxPut (.cmd k c.entry) := by
  simp [State.mbxAsk, Nat.not_le.2 h, hcmd, hquoted, hst]

/-- In a housekeeping slot Sentinel serves a command's request by the checks of the command that it quotes. -/
theorem exec_mailboxServe_cmd {k : Tag} (hruns : s.sentinelRuns = true) (hslot : s.slot = true) (hcore : s.rst.core = true)
    (hpick : s.mbxPick = some (.cmd k e)) (hcmd : s.cmd k = some c) : exec .mailboxServe s = .next (s.serveCmd c e) :=
  exec_next rfl (by simp [hruns, hslot, hcore, hpick, hcmd])

/-- A heartbeat that is lost: its record, no request waits, and CORE powers down (R160). -/
def State.heartbeatGone (s : State) : State :=
  let s := s.log 0x5003 0 []
  let s := ({ s with snt := { s.snt with hbEnd := none, mbx := [] } }).mbxShow
  { s with rst := { s.rst with downFor := some .heartbeat } }

/-- Settles O17: each clause's conditions choose one branch of its command's meaning. -/
theorem sentinelCommandsComplete : Obligations.SentinelCommandsComplete := by
  refine ⟨?full, ?forward, ?granted, ?refused, ?serveHeartbeat, ?accepted, ?wrong, ?post, ?postFull, ?lost, ?clear⟩
  case full =>
    intro s r hruns hfull
    exact exec_next rfl ((if_pos hruns).trans (State.mbxAsk_of_full hfull))
  case forward =>
    intro s t c hruns hroom hcmd hquoted hst
    exact exec_next rfl ((if_pos hruns).trans (State.mbxAsk_cmd hroom hcmd hquoted hst))
  case granted =>
    intro s t c e hruns hslot hcore hpick hcmd hcheck
    exact exec_next (exec_mailboxServe_cmd hruns hslot hcore hpick hcmd) (by simp [State.serveCmd, hcheck])
  case refused =>
    intro s t c e st hruns hslot hcore hpick hcmd hcheck hst hasked
    exact exec_next (exec_mailboxServe_cmd hruns hslot hcore hpick hcmd)
      (by simp [State.serveCmd, State.refuseNote, answered, hcheck, hst, hasked])
  case serveHeartbeat =>
    intro s v hruns hslot hcore hpick
    exact exec_next rfl (by simp [hruns, hslot, hcore, hpick, State.serveOwn])
  case accepted =>
    rintro s _ _ rfl rfl
    exact if_pos rfl
  case wrong =>
    intro s v h
    exact if_neg h
  case post =>
    intro s v hruns hroom
    exact exec_next rfl ((if_pos hruns).trans (if_neg (Nat.not_le.2 hroom)))
  case postFull =>
    intro s v hruns hfull
    exact exec_next rfl ((if_pos hruns).trans (State.mbxAsk_of_full hfull))
  case lost =>
    intro s e hend hdue hruns hdown
    have hlost : exec .heartbeatLost s = .next s.heartbeatGone := exec_next rfl (by
      simp only [hend, hdue, hruns, hdown, Option.isNone_none, Bool.and_self, if_true]
      rfl)
    exact ⟨_, hlost, by simp [State.heartbeatGone, State.mbxShow], by simp [State.heartbeatGone, State.mbxShow],
      by simp [State.heartbeatGone, State.mbxShow], by simp [State.heartbeatGone, State.mbxShow]⟩
  case clear =>
    intro s hruns hdue hrestarts
    exact exec_next rfl (if_pos (by simp [hruns, hdue, hrestarts]))

/-! ## Service authorisation -/

/-- Settles O18: each clause's conditions choose one branch of its command's meaning. -/
theorem authorisationCommandsComplete : Obligations.AuthorisationCommandsComplete := by
  refine ⟨?verify, ?invalid, ?late, ?expire, ?lockEnd⟩
  case verify =>
    intro s x a k e t hsig hnonce hruns hslot hvalid hdue
    exact exec_next rfl (by simp [hsig, hnonce, hruns, hslot, hvalid, hdue])
  case invalid =>
    intro s x a k e t hsig hnonce hruns hslot hvalid
    exact exec_next rfl (by simp [hsig, hnonce, hruns, hslot, hvalid, State.authDrop])
  case late =>
    intro s a k e t hnonce hdue hsig
    exact exec_next rfl (by simp [hnonce, hdue, hsig, State.authDrop])
  case expire =>
    intro s hopen hdue
    exact exec_next rfl (if_pos (by simp [hopen, hdue]))
  case lockEnd =>
    intro s hlocked hdue
    exact exec_next rfl (if_pos (by simp [hlocked, hdue]))

end Sys2Proof.Machine
end

section
/-!
PROOF. Chrysalis and the persistent streams (chapter 07): each clause's conditions choose one branch of its command's meaning.
-/

namespace Sys2Proof.Machine

variable {s t u v : State} {c : Commit}

/-- Sentinel takes the chosen COMMIT: its rules choose between the refusal and the commit tick. -/
theorem exec_commitTake_of_pick (hmay : s.mayTake = true) (hpick : s.commitPick = some c)
    (hu : u = { s with chr := { s.chr with waiting := s.chr.waiting.erase c, lastTake := s.tb.ticks + 1 } }) :
    exec .commitTake s =
      .next ((checkRules (c.own.isNone && (u.stage c.who).full) (u.commitSlots c) (u.propose (u.commitSlots c))).elim
        { u with chr := { u.chr with taken := some { c with tick := s.tb.ticks + 1 } } } (u.commitRefuse c 0x15)) := by
  subst hu
  refine exec_next rfl ?_
  simp only [hmay, hpick, if_true]
  cases checkRules _ _ _ <;> rfl

/-- Settles O19: each clause's conditions choose one branch of its command's meaning. -/
theorem chrysalisCommandsComplete : Obligations.ChrysalisCommandsComplete := by
  refine ⟨?write, ?check, ?commit, ?discard, ?take, ?refused, ?apply⟩
  case write =>
    intro s p off v hoff
    exact exec_next rfl (if_pos (by simp [hoff]))
  case check =>
    intro s who hreach
    exact exec_next rfl (if_pos hreach)
  case commit =>
    intro s who hreach hwho hoff
    exact exec_next rfl (if_neg (by simp [hreach, hwho, hoff]))
  case discard =>
    intro s who hreach hfrozen
    exact exec_chrCtlDiscard_of_not_frozen hreach hfrozen
  case take =>
    intro s c u hmay hpick hu hpass
    exact exec_next (exec_commitTake_of_pick hmay hpick hu) (by rw [hpass]; rfl)
  case refused =>
    intro s c u r hmay hpick hu hfail
    exact exec_next (exec_commitTake_of_pick hmay hpick hu) (by rw [hfail]; rfl)
  case apply =>
    intro s c htaken hdue
    exact exec_next rfl (by simp [htaken, hdue])

/-! ## Persistent streams -/

/-- Settles O20: each clause's conditions choose one branch of its command's meaning. -/
theorem streamCommandsComplete : Obligations.StreamCommandsComplete := by
  refine ⟨?journal, ?log, ?snapshot, ?again, ?window, ?beyond, fun _ _ => rfl⟩
  case journal =>
    intro s bad hcan
    exact exec_next rfl (if_pos hcan)
  case log =>
    intro s bad hcan
    exact exec_next rfl (if_pos hcan)
  case snapshot =>
    intro s sn v q k hcan hsnap htag hwrite
    exact exec_next rfl (by simp only [hcan, if_true, State.writeSnap, hsnap, hwrite, htag]; rfl)
  case again =>
    intro s sn bits v q k hcan hsnap hwrite
    exact exec_next rfl (by simp only [hcan, if_true, State.writeSnap, hsnap, hwrite]; rfl)
  case window =>
    intro s v hin
    exact exec_next rfl (by simp [hin])
  case beyond =>
    intro s v hout
    exact exec_next rfl (by simp [Nat.not_le.2 hout])

end Sys2Proof.Machine
end

section
/-!
PROOF. The sideband (chapter 08): the status set of the management bus, MCTP control and the SPDM responder. A transport that works
answers, and each clause's conditions choose the answer.
-/

namespace Sys2Proof.Machine

variable {s t u v : State} {b req : List Byte} {c : Fin 3} {need : Nat} {f : State → State}

/-! ## The status set -/

/-- A read's reply where the SMBus target answers. -/
theorem State.smbReply_of_runs (h : s.smbRuns = true) (cmd : Nat) (b : List Byte) :
    s.smbReply cmd b = s.emit (.smb (b ++ [BitVec.ofNat 8 (crc8 ([BitVec.ofNat 8 (2 * s.get HST_SMBCFG_ADDR),
      BitVec.ofNat 8 cmd, BitVec.ofNat 8 (2 * s.get HST_SMBCFG_ADDR + 1)] ++ b))])) := if_pos h

/-- Settles O21: each command answers through the block read, whose reply carries the PEC. -/
theorem managementBusCommandsComplete : Obligations.ManagementBusCommandsComplete := by
  intro s reply block hruns hreply hblock
  have hsmbReply (cmd : Nat) (b : List Byte) : s.smbReply cmd b = reply cmd b :=
    (State.smbReply_of_runs hruns cmd b).trans (hreply cmd b).symm
  have hsmbBlock (cmd : Nat) (b : List Byte) : s.smbBlock cmd b = block cmd b :=
    (hsmbReply cmd _).trans (hblock cmd b).symm
  refine ⟨exec_next rfl (hsmbBlock _ _), exec_next rfl (hsmbReply _ _), exec_next rfl (hsmbReply _ _),
    exec_next rfl (hsmbBlock _ _), exec_next rfl (hsmbBlock _ _), ?timestamp, exec_next rfl (hsmbBlock _ _), ?noEvent, ?event,
    fun _ => exec_next rfl (if_pos hruns)⟩
  case timestamp =>
    have htouch : s.touch.smbRuns = true := by simpa [State.smbRuns] using hruns
    exact ⟨_, exec_next rfl ((if_pos hruns).trans (State.smbReply_of_runs htouch _ _)), by simp, by simp, _, by simp; rfl⟩
  case noEvent =>
    intro hnone
    exact exec_next rfl (by simp only [hnone, List.getLast?_nil]; exact hsmbBlock _ _)
  case event =>
    intro r hlast
    exact exec_next rfl (by simp only [hlast]; exact hsmbBlock _ _)

/-! ## MCTP control -/

/-- A message of one transmission unit is one packet. -/
theorem State.mctpSend_of_short (h : b.length ≤ 64) : s.mctpSend b = s.emit (.mctp true true b) := by
  simp [State.mctpSend, mctpCut, h]

/-- An MCTP control request with a right PEC is answered where its transport and Service firmware work. -/
theorem State.mctp_of_runs {code : Nat} (hruns : s.smbRuns = true) (hauto : s.on GLB_STATUS_AUTONOMOUS = false)
    (hcmd : s.cmdRuns = true) (hshort : b.length ≤ 61) :
    s.mctp true code b = s.emit (.mctp true true ([0, 0, BitVec.ofNat 8 code] ++ b)) := by
  simp only [State.mctp, hruns, hauto, hcmd, Bool.not_true, Bool.or_self, Bool.false_eq_true, if_false]
  exact State.mctpSend_of_short (by simpa using by omega)

/-- Settles O22: each request is answered, and its clause's conditions choose the answer. -/
theorem mctpCommandsComplete : Obligations.MctpCommandsComplete := by
  intro s hruns hauto hcmd
  have hmctp {b : List Byte} (code : Nat) (hshort : b.length ≤ 61) :
      s.mctp true code b = s.emit (.mctp true true ([0, 0, BitVec.ofNat 8 code] ++ b)) :=
    State.mctp_of_runs hruns hauto hcmd hshort
  refine ⟨?set, ?badId, exec_next rfl (hmctp 2 (by simp)), ?noVersion, ?version, exec_next rfl (hmctp 5 (by simp))⟩
  case set =>
    intro eid hzero hall
    exact exec_next rfl ((if_neg (not_or.2 ⟨hzero, hall⟩)).trans (by simp [hruns, hauto, hcmd, hmctp]))
  case badId =>
    intro eid hbad
    exact exec_next rfl ((if_pos hbad).trans (hmctp 1 (by simp)))
  case noVersion =>
    intro ty hzero hfive hall
    exact exec_next rfl ((if_neg (not_or.2 ⟨hall, not_or.2 ⟨hzero, hfive⟩⟩)).trans (hmctp 4 (by simp)))
  case version =>
    intro ty hty
    exact exec_next rfl ((if_pos (or_rotate.2 hty)).trans (hmctp 4 (by simp)))

/-! ## SPDM -/

/-- A response leaves through its port's DOE mailbox. -/
theorem State.spdmSend_of_doe (h : c ≠ 2) : s.spdmSend c b = s.emit (.reply c.val b) := if_neg h

/-- A context answers a request: its transport works, Service firmware runs and the message fits. -/
def State.spdmAnswers (s : State) (c : Fin 3) (req : List Byte) : Prop :=
  c ≠ 2 ∧ s.spdmThere c = true ∧ s.on GLB_STATUS_SVC_RUN = true ∧ req.length ≤ spdmMax c

/-- A request of another version than 1.2 is answered with an ERROR. -/
theorem State.spdm_of_version (h : s.spdmAnswers c req) (hversion : leAt req 0 1 ≠ 0x12) :
    s.spdm c req need f = s.emit (.reply c.val (spdmError 7 (leAt req 1 1))) := by
  obtain ⟨hdoe, hthere, hruns, hfits⟩ := h
  simp [State.spdm, hdoe, hthere, hruns, Nat.not_lt.2 hfits, hversion, State.spdmSend]

/-- A request of version 1.2 in a context that has come far enough takes its effect. -/
theorem State.spdm_of_reached (h : s.spdmAnswers c req) (hversion : leAt req 0 1 = 0x12) (hneed : need ≤ s.get (spdmF c)) :
    s.spdm c req need f = f s := by
  obtain ⟨hdoe, hthere, hruns, hfits⟩ := h
  simp [State.spdm, hdoe, hthere, hruns, Nat.not_lt.2 hfits, hversion, Nat.not_lt.2 hneed]

/-- A signing request takes a mailbox slot while one is free. -/
theorem State.signAsk_of_room (hcmd : s.cmdRuns = true) (hroom : s.snt.mbx.length < 8) :
    s.signAsk c b = s.mbxPut (.sign c b) := by
  simp [State.signAsk, hcmd, hroom, State.mbxAsk, Nat.not_le.2 hroom]

/-- Settles O23: each request is answered, and its clause's conditions choose the answer. -/
theorem spdmCommandsComplete : Obligations.SpdmCommandsComplete := by
  intro s c req hdoe hthere hsvc hfits
  have hanswers : s.spdmAnswers c req := ⟨hdoe, hthere, hsvc, hfits⟩
  have hfew (q : List Byte) (hq : q.length ≤ 4088) : s.spdmAnswers c q := ⟨hdoe, hthere, hsvc, by simpa [spdmMax, hdoe] using hq⟩
  have hsend (t : State) (b : List Byte) : t.spdmSend c b = t.emit (.reply c.val b) := State.spdmSend_of_doe hdoe
  refine ⟨?version, ?unsupported, ?other, fun hversion => ⟨?capabilities, ?algorithms, fun hneed =>
    ⟨?digests, ?certificate, fun hcmd hroom => ⟨?challenge, ?signedMeasurements⟩, ?measurements⟩⟩, ?served⟩
  case version =>
    exact exec_next rfl ((State.spdm_of_reached (hfew _ (by simp)) rfl (Nat.zero_le _)).trans (hsend _ _))
  case unsupported =>
    have hlen : (0x12 :: req.drop 1).length ≤ 4088 := by
      have : req.length ≤ 4088 := by simpa [spdmMax, hdoe] using hfits
      simp; omega
    exact exec_next rfl ((State.spdm_of_reached (hfew _ hlen) (by simp [leAt, leNat]) (Nat.zero_le _)).trans (hsend _ _))
  case other =>
    intro hversion i hi
    simp only [List.mem_cons, List.not_mem_nil, or_false] at hi
    rcases hi with rfl | rfl | rfl | rfl | rfl | rfl <;> exact exec_next rfl (State.spdm_of_version hanswers hversion)
  case capabilities =>
    intro hneed
    exact exec_next rfl ((State.spdm_of_reached hanswers hversion hneed).trans (hsend _ _))
  case algorithms =>
    intro hneed hspec hasym hhash
    exact exec_next rfl ((State.spdm_of_reached hanswers hversion hneed).trans (by simp [hsend, hspec, hasym, hhash, b2n]))
  case digests => exact exec_next rfl ((State.spdm_of_reached hanswers hversion hneed).trans (hsend _ _))
  case certificate =>
    rintro b hslot rfl
    refine exec_next rfl ((State.spdm_of_reached hanswers hversion hneed).trans ?_)
    rw [hsend]
    by_cases hin : leAt req 4 2 < Config.certChain.length
    · simp [hslot, hin, Nat.not_le.2 hin]
    · simp [hin, Nat.not_lt.1 hin]
  case challenge =>
    intro hslot
    exact exec_next rfl ((State.spdm_of_reached hanswers hversion hneed).trans
      (by simp [hslot, State.signAsk_of_room hcmd hroom]))
  case signedMeasurements =>
    intro hindex hsign
    have hok : ¬ (5 < leAt req 3 1 && leAt req 3 1 != 0xFF) = true := by simp; omega
    exact exec_next rfl ((State.spdm_of_reached hanswers hversion hneed).trans
      ((if_neg hok).trans ((if_pos hsign).trans (State.signAsk_of_room hcmd hroom))))
  case measurements =>
    intro u b hindex hplain hmeasured
    have hok : ¬ (5 < leAt req 3 1 && leAt req 3 1 != 0xFF) = true := by simp; omega
    exact exec_next rfl ((State.spdm_of_reached hanswers hversion hneed).trans
      ((if_neg hok).trans ((if_neg (ne_true_of_eq_false hplain)).trans (by rw [hmeasured]; exact hsend _ _))))
  case served =>
    intro q u b hruns hslot hcore hpick hanswer hstill
    refine exec_next rfl ?_
    simp only [hruns, hslot, hcore, hpick, Bool.not_true, Bool.or_self, Bool.false_eq_true, if_false, State.serveOwn,
      State.signReply, hstill, if_true, hanswer]
    exact hsend _ _

end Sys2Proof.Machine
end

section
/-!
PROOF. The rings, the links and the functions of the host (chapters 08 and 09): each clause's conditions choose one branch of its
command's meaning.
-/

namespace Sys2Proof.Machine

variable {s t u v : State}

/-! ## Rings -/

/-- Settles O24: each clause's conditions choose one branch of its command's meaning. -/
theorem ringInterfaceCommandsComplete : Obligations.RingInterfaceCommandsComplete := by
  refine ⟨?enable, ?disable, ?drained, ?sq, ?sqBad, ?cq, ?cqBad, ?fetch, ?busError, ?coalesce, ?ev, ?evBad, ?resize, ?restart⟩
  case enable =>
    intro s r hreach hoff hstopped
    exact exec_next rfl (by simp [hreach, hoff, hstopped])
  case disable =>
    intro s r hreach hon
    exact exec_next rfl (by simp [hreach, hon])
  case drained =>
    intro s r hdraining hcmds hheld hreen
    exact exec_next rfl ((if_pos (by simp [hdraining, hcmds, hheld])).trans (if_neg (ne_true_of_eq_false hreen)))
  case sq =>
    rintro s r v _ _ _ rfl rfl rfl hreach hnew hin hroom
    exact exec_next rfl (by simp [hreach, hnew, Nat.not_le.2 hin, Nat.not_lt.2 hroom])
  case sqBad =>
    rintro s r v _ rfl hreach hnew hout
    exact exec_next rfl (by simp [hreach, hnew, hout])
  case cq =>
    rintro s r v _ _ rfl rfl hreach hin hroom
    exact exec_next rfl (by simp [hreach, Nat.not_le.2 hin, Nat.not_lt.2 hroom])
  case cqBad =>
    rintro s r v _ rfl hreach hout
    exact exec_next rfl (by simp [hreach, hout])
  case fetch =>
    intro s r bytes hpick
    exact exec_next rfl (by simp only [hpick])
  case busError =>
    intro s r hpick
    exact exec_next rfl (by simp only [hpick])
  case coalesce =>
    intro s r hunsig htime hdue
    exact exec_next rfl (if_pos (by simp [hunsig, htime, hdue]))
  case ev =>
    rintro s v _ _ hreach rfl rfl hin hroom
    exact exec_next rfl (by simp [hreach, Nat.not_le.2 hin, Nat.not_lt.2 hroom])
  case evBad =>
    intro s v hreach hout
    exact exec_next rfl (by simp [hreach, hout])
  case resize =>
    intro s v hreach hlo hhi hold
    exact exec_next rfl (by simp [hreach, Nat.not_lt.2 hlo, Nat.not_lt.2 hhi, hold])
  case restart =>
    rintro s v _ hreach hlo hhi hold rfl
    have hnew : v.toNat % 16 ≠ 0 := by omega
    exact exec_next rfl (by simp [hreach, Nat.not_lt.2 hlo, Nat.not_lt.2 hhi, hold, hnew])

/-! ## Links and functions -/

/-- A VF's FLR on a port whose other link owes no failover: the function's configuration reverts, and a VI bound to the port is
reset once no request of it stands outstanding. -/
theorem exec_vfFlr_of_bound {p : Port} {k : Fin 16} (hup : s.linkUp p = true) (hdown : s.downOf p.other = none)
    (hu : u = (((s.setFn p (fnOf (some k)) false).setCfg p (fnOf (some k)) FnCfg.reset).msixReset (some k) p).servedShow)
    (hen : u.viEn (some k) = true) (hport : u.portOf (some k) = p) :
    exec (.vfFlr p k) s = .next (if u.ownerBusy (some k) then
      if u.hst.flr.contains (p, k) then u else { u with hst := { u.hst with flr := u.hst.flr ++ [(p, k)] } }
      else u.flrEnd k) := by
  subst hu
  refine exec_next rfl ?_
  simp only [hup, if_true, hdown, Option.isSome_none, Bool.false_and, Bool.false_eq_true, if_false, hen, hport, beq_self_eq_true,
    Bool.and_self]

/-- Settles O25: each clause's conditions choose one branch of its command's meaning. -/
theorem linkCommandsComplete : Obligations.LinkCommandsComplete := by
  refine ⟨?linkUp, ?hotReset, ?dlDown, ?failover, fun _ _ => rfl, ?pme, fun _ _ _ => rfl, ?d3, ?served, ?servedPf, ?flr, ?flrBusy,
    ?pfFlr, ?address⟩
  case linkUp =>
    rintro s p rate x2 _ _ hruns hidle hdown hnone rfl rfl
    exact exec_next rfl (if_pos (by simp [hruns, hidle, hdown, hnone]))
  case hotReset =>
    intro s p hup
    exact exec_next rfl (if_pos hup)
  case dlDown =>
    intro s p hup
    exact exec_next rfl (if_pos hup)
  case failover =>
    intro s p k hdown hlate
    exact exec_next rfl (by simp [hdown, hlate])
  case pme =>
    intro s p hup
    exact exec_next rfl (if_pos hup)
  case d3 =>
    rintro s p _ rfl hup
    exact exec_next rfl (congrArg State.servedShow (if_pos hup))
  case served =>
    intro s p fn cfg hup hfn
    have hval : (fn.val == 0) = false := beq_eq_false_iff_ne.2 (Fin.val_ne_of_ne hfn)
    exact exec_next rfl (by simp [hup, hval])
  case servedPf =>
    intro s p cfg hup
    exact exec_next rfl (if_pos hup)
  case flr =>
    intro s p v u hup hdown hu hen hport hidle
    exact exec_next (exec_vfFlr_of_bound hup hdown hu hen hport) (by simp [hidle])
  case flrBusy =>
    intro s p v u hup hdown hu hen hport hbusy hnew
    exact exec_next (exec_vfFlr_of_bound hup hdown hu hen hport) (by simp only [hbusy, hnew, if_true, Bool.false_eq_true, if_false])
  case pfFlr =>
    rintro s p _ _ hup rfl rfl
    exact exec_next rfl (if_pos hup)
  case address =>
    rintro s p v _ rfl hchanged
    exact exec_next rfl (if_neg hchanged)

/-! ## Accesses and translations -/

/-- A failed translation of a subchannel's access: its page is dropped, and the host is asked for it, or it is refused. -/
theorem exec_translationFault_sub {n : Fin 32} {addr : Nat} {w : Bool} (hruns : s.coreRuns = true)
    (hbusy : s.pgBusy (.sub n) = true) (hats : s.atsOn (s.pgWho (.sub n)) = true)
    (hnew : (s.hst.pri.any fun q => q.tgt == .sub n) = false) (hu : u = s.atcDrop (s.pgWho (.sub n)) addr) :
    exec (.translationFault (.sub n) addr w) s = .next (if (u.fnCfg (u.portOf (u.pgWho (.sub n))) 0).pri.isSome then
      (({ u with hst := { u.hst with pri := u.hst.pri ++ [⟨u.pgWho (.sub n), .sub n, addr, w, 0, false⟩] } } : State).pgSuspend
        (.sub n)).atcShow.priSend
      else u.pgRefuse (.sub n) addr) := by
  subst hu
  exact exec_next rfl (if_neg (by simp [hruns, hbusy, hats, hnew]))

/-- Settles O26: each clause's conditions choose one branch of its command's meaning. -/
theorem hostAccessCommandsComplete : Obligations.HostAccessCommandsComplete := by
  refine ⟨?bad, ?atomic, ?unbound, ?invalidate, ?invalidated, ?refused, ?asked, ?response, ?late, ?timeout, ?operation⟩
  case bad =>
    rintro s p fn bar2 off _ hup rfl
    exact ⟨exec_next rfl (if_pos hup), exec_next rfl (if_pos hup)⟩
  case atomic =>
    intro s p fn bar2 off hup
    exact exec_next rfl (if_pos hup)
  case unbound =>
    intro s p v hup hforeign
    have hcond : (s.linkUp p && !(s.viEn (some v) && s.portOf (some v) == p)) = true := by
      rcases hforeign with h | h <;> simp [hup, h]
    exact ⟨exec_next rfl (if_pos hcond), exec_next rfl (if_pos hcond)⟩
  case invalidate =>
    intro s p fn a lo hi hup hroom
    exact exec_next rfl (if_pos (by simp [hup, hroom]))
  case invalidated =>
    intro s p fn e hfind hidle
    exact exec_next rfl (by simp only [hfind, hidle, Bool.and_false, Bool.false_eq_true, if_false])
  case refused =>
    intro s n addr w u hruns hbusy hats hnew hu hpri
    exact exec_next (exec_translationFault_sub hruns hbusy hats hnew hu) (if_neg (by simp [hpri]))
  case asked =>
    rintro s n addr w u _ hruns hbusy hats hnew hu hpri rfl
    exact exec_next (exec_translationFault_sub hruns hbusy hats hnew hu) (if_pos (Option.isSome_iff_ne_none.2 hpri))
  case response =>
    intro s g ok q hout
    exact exec_next rfl (by simp only [hout])
  case late =>
    intro s g q hout hdue
    exact exec_next rfl (by simp only [hout, hdue, if_true])
  case timeout =>
    rintro s g addr _ rfl hcto hout
    exact exec_next rfl (if_neg (by simp [hcto, hout]))
  case operation =>
    intro s n addr hruns hmiss hactive hop
    simp [State.complTimeout, hruns, hmiss, hactive, hop]

end Sys2Proof.Machine
end

section
/-!
PROOF. The engines of the CORE domain (chapters 10 to 12): the chain walker, the Chain Cache and the Bulk Mover. Each clause's
conditions choose one branch of its command's meaning.
-/

namespace Sys2Proof.Machine

variable {s t u v : State} {p : Port}

/-! ## Chain walker -/

/-- The Owner's doorbell on a subchannel. -/
theorem exec_scDoorbell_of_owner {n : Fin 32} (hreach : s.reaches (.owner p) = true) (hruns : s.coreRuns = true) :
    exec (.scDoorbell (.owner p) n) s = .next (if s.scSt n == scTAIL then
        if s.on (CPE_SCSTAT0_SSR_FAIL n) || !s.on (CPE_SCCFG_EN n) then s else s.scReread n
      else if s.scSt n == scIDLE || s.scSt n == scSTOPPED then s
      else s.put (CPE_SCSTAT0_DB_PEND n) 1) :=
  exec_next rfl ((if_neg (by simp [hreach, hruns])).trans (if_neg (by simp [senderWho])))

/-- A fetch of an entry that has not yet come, and is not forced, looks the cache up. -/
theorem exec_cceFetch_of_look {n : Fin 32} {k : Look} (hfetch : s.scFetching n.val = true) (hgot : (s.sub n.val).got = none)
    (hforce : (s.sub n.val).force = false) (hlook : s.cchLook (s.scCode n.val) (s.scAddr n.val) = (v, k)) :
    exec (.cceFetch n) s = .next (match k with
      | .hit b buf => (v.missEnd n).scJudge n b buf
      | .miss => v.scIssue n
      | .wait => if v.cch.miss.isSome then v.missWait n else v) := by
  refine exec_next rfl ?_
  simp only [hfetch, hgot, hforce, hlook, if_true, Bool.false_eq_true, if_false]
  cases k <;> rfl

/-- Settles O27: each clause's conditions choose one branch of its command's meaning. -/
theorem walkerCommandsComplete : Obligations.WalkerCommandsComplete := by
  refine ⟨?tail, ?pend, ?foreign, ?got, ?hit, ?miss, ?nop, ?wait, ?waitEnd, ?post, ?jump, ?write, ?read, ?control, ?sense,
    ?senseAdmitted⟩
  case tail =>
    intro s p n hreach hruns htail hssr hen
    exact exec_next (exec_scDoorbell_of_owner hreach hruns) (by simp [htail, hssr, hen])
  case pend =>
    intro s p n hreach hruns htail hidle hstopped
    exact exec_next (exec_scDoorbell_of_owner hreach hruns) (by simp [htail, hidle, hstopped])
  case foreign =>
    intro s v n hreach hruns howner
    exact exec_next rfl ((if_neg (by simp [hreach, hruns])).trans (if_pos (by simp [senderWho, howner])))
  case got =>
    intro s n b m hfetch hgot
    exact exec_next rfl (by simp only [hfetch, hgot, if_true])
  case hit =>
    intro s n v b buf hfetch hgot hforce hlook
    exact exec_cceFetch_of_look hfetch hgot hforce hlook
  case miss =>
    intro s n v hfetch hgot hforce hlook
    exact exec_cceFetch_of_look hfetch hgot hforce hlook
  case nop =>
    intro s n hready
    exact exec_next rfl (if_pos hready)
  case wait =>
    rintro s n ph1 _ hready rfl
    exact exec_next rfl (if_pos hready)
  case waitEnd =>
    rintro s n _ hruns hwaiting hdue rfl
    exact exec_next rfl (if_pos (by simp [hruns, hwaiting, hdue]))
  case post =>
    rintro s n _ _ _ hready hroom rfl rfl rfl
    exact exec_next rfl (if_pos (by simp [hready, hroom]))
  case jump =>
    rintro s n _ _ hready rfl hfew rfl
    refine exec_next rfl ?_
    simp only [hready, if_true, beq_iff_eq]
    exact if_pos hfew
  case write =>
    intro s n hready
    exact exec_next rfl (if_pos hready)
  case read =>
    intro s n hready
    exact exec_next rfl (if_pos hready)
  case control =>
    intro s n hready
    exact exec_next rfl (if_pos hready)
  case sense =>
    intro s n lv hserved hbound hready hclass
    exact exec_next rfl (by simp [hserved, hbound, hready, hclass])
  case senseAdmitted =>
    intro s n lv hserved hbound hready hclass
    exact exec_next rfl (by simp [hserved, hbound, hready, hclass])

/-! ## Chain Cache -/

/-- The state once the outstanding miss has returned. -/
def State.missOver (s : State) : State := s.modCch fun c => { c with miss := none }

/-- Does a returned miss serve the fetch that a subchannel waits with? -/
def State.fillMine (s : State) (m : Miss) : Bool :=
  s.scFetching m.sub && s.scAddr m.sub == m.addr && s.scCode m.sub == m.owner

/-- A fill's bytes are installed where it may be, and its subchannel has its entry. -/
theorem exec_chainCacheFill_ok {m : Miss} {bytes b : List Byte} (hmiss : s.cch.miss = some m)
    (hb : b = fitTo (64 - m.addr % 64) bytes) (hmine : s.missOver.fillMine m = true) (hinstall : m.install = true)
    (hen : s.missOver.on CCH_CFG_EN = true) :
    exec (.chainCacheFill bytes false) s =
      .next ((s.missOver.modCch fun c => c.install m.owner m.addr b).modSub m.sub fun x => { x with got := some (b.take 16, true) }) := by
  subst hb
  refine exec_next rfl ?_
  simp only [hmiss, Bool.false_eq_true, if_false]
  have hinstalled (a b : State) : (if (m.install && s.missOver.on CCH_CFG_EN) = true then a else b) = a :=
    if_pos (Bool.and_eq_true_iff.2 ⟨hinstall, hen⟩)
  exact (if_pos hmine).trans (congrArg (fun t : State => t.modSub m.sub _) (hinstalled _ _))

/-- Settles O28: each clause's conditions choose one branch of its command's meaning. -/
theorem cacheCommandsComplete : Obligations.CacheCommandsComplete := by
  refine ⟨?fill, ?failed, ?drain, fun _ => exec_cchInvalAll_of_reach, fun _ => exec_cchCtlDrain_of_reach, ?clear⟩
  case fill =>
    rintro s bytes m _ hmiss hfetch haddr hcode hinstall hen rfl
    exact exec_chainCacheFill_ok hmiss rfl (by simp [State.fillMine, State.missOver, hfetch, haddr, hcode]) hinstall hen
  case failed =>
    rintro s bytes m _ hmiss rfl hfetch haddr hcode
    refine exec_next rfl ?_
    simp only [hmiss, if_true]
    exact if_pos (by simp [hfetch, haddr, hcode])
  case drain =>
    intro s e l hstores
    exact exec_next rfl (by simp only [State.storeDrain1, hstores])
  case clear =>
    intro s hreach
    exact exec_next rfl (if_pos hreach)

/-! ## Bulk Mover -/

/-- The Owner's doorbell on a channel returns its records, and counts as a start. -/
theorem exec_dcDoorbell_of_owner {n : Fin 16} {w : Word} (hreach : s.reaches (.owner p) = true) (hruns : s.coreRuns = true)
    (hu : s.dcHead none (0xE300 + 4 * n.val) n (w.toNat % 65536) = u) :
    exec (.dcDoorbell (.owner p) n w) s = .next (if u.on BMV_STAT_ESTOP then u
      else if u.dcSt n == dcTAIL then if u.on (BMV_DCCFG_EN n) then u.dcReread n else u
      else if u.dcSt n == dcIDLE || u.dcSt n == dcSTOPPED then u
      else (u.put (BMV_DCSTAT_DB_PEND n) 1).dcKick n) := by
  subst hu
  exact exec_next rfl ((if_neg (by simp [hreach, hruns])).trans (if_neg (by simp [senderWho])))

/-- The last confirmation of a channel is answered. -/
theorem exec_writeResponse_of_resp {n : Fin 16} {ok : Bool} {k : Nat} {d : Desc} (hresp : (s.chan n.val).resp = some k)
    (hdesc : (s.chan n.val).desc = some d) (hu : s.modChan n.val (fun c => { c with resp := none }) = u) :
    exec (.writeResponse n ok) s = .next (if ok then ((u.modChan n.val fun c => { c with conf := k }).dcShow n.val).dcProgress n.val
      else u.dcDataError n.val 2 (d.dstAt (k - 1) / 4 * 4)) := by
  subst hu
  exact exec_next rfl (by simp only [hresp, hdesc])

/-- The burst of a grant: its read issues, unless it leaves its owner's partition (R298, R313). -/
def State.dcBurst (s : State) (n : Nat) (d : Desc) : State :=
  let p := (s.chan n).issued
  let len := d.burstLen p
  let o := s.dcCode n
  if d.srcX && !s.inPartition o (d.srcAt p) len then s.dcBegin n (.bad 0x57 4 (d.srcAt p))
  else if d.dstX && !s.inPartition o (d.dstAt p) len then s.dcBegin n (.bad 0x57 4 (d.dstAt p))
  else
    let s := s.modChan n fun c => { c with issued := p + len, flight := c.flight ++ [⟨p, len⟩] }
    (if d.srcX then s else s.hostRd (s.dcOwner n) (d.srcAt p) len).dcPrefetch n

/-- Settles O29: each clause's conditions choose one branch of its command's meaning. -/
theorem bulkMoverCommandsComplete : Obligations.BulkMoverCommandsComplete := by
  refine ⟨?foreign, ?returned, ?bad, ?fetched, ?prefetched, ?grant, fun _ _ _ _ => rfl, ?confirmed, ?refused, fun _ _ _ => rfl⟩
  case foreign =>
    intro s v n h hreach hruns howner
    exact exec_next rfl ((if_neg (by simp [hreach, hruns])).trans (if_pos (by simp [senderWho, howner])))
  case returned =>
    intro s p n v u hreach hruns hin hunread hu hstop htail hen
    have hhead : s.dcHead none (0xE300 + 4 * n.val) n (v.toNat % 65536) = u := by simp [State.dcHead, hin, hunread, hu]
    exact exec_next (exec_dcDoorbell_of_owner hreach hruns hhead) (by simp [hstop, htail, hen])
  case bad =>
    intro s p n v u hreach hruns hout hu hstop htail hidle hstopped
    have hhead : s.dcHead none (0xE300 + 4 * n.val) n (v.toNat % 65536) = u := by
      simp [State.dcHead, Nat.not_lt.2 hout, hu]
    exact exec_next (exec_dcDoorbell_of_owner hreach hruns hhead) (by simp [hstop, htail, hidle, hstopped])
  case fetched =>
    intro s n bytes hruns hfetching hactive
    exact exec_next rfl (if_pos (by simp [hruns, hfetching, hactive]))
  case prefetched =>
    intro s n bytes hfetching hasked
    exact exec_next rfl ((if_neg (by simp [hfetching])).trans (if_pos hasked))
  case grant =>
    rintro s n d _ _ hruns hstop hfew hpick hdesc hph hsrc hdst rfl rfl
    have hadmitted (a b : State) : (if (s.chan n).ph = .adm then a else b).dcBurst n d = b.dcBurst n d := by
      rw [if_neg (by simp [hph])]
    refine exec_next rfl ((if_neg (by simp [hruns, hstop, hfew])).trans ?_)
    simp only [hpick, hdesc]
    exact (hadmitted _ _).trans (by simp [State.dcBurst, hsrc, hdst])
  case confirmed =>
    intro s n k d hresp hdesc
    exact exec_writeResponse_of_resp hresp hdesc rfl
  case refused =>
    intro s n k d hresp hdesc
    exact exec_writeResponse_of_resp hresp hdesc rfl

end Sys2Proof.Machine
end

section
/-!
PROOF. The device ports (chapter 15): a burst's conditions choose its operation, and each event's conditions choose one branch of its
command's meaning.
-/

namespace Sys2Proof.Machine

variable {s t u : State} {b : BurstIn} {n : Nat}

/-- The operation of a burst that has begun (R248, R347): a short end, GPIO, a CONTROL, what is sent again, a flash program, a read of
a serial port, or data. -/
def State.burstRun (t : State) (x n : Nat) (b : BurstIn) : State :=
  if (t.sub n).ended then t.opShort n
  else if x == 12 then t.gpioOp n b
  else if (t.sub n).cce.code == 0x22 then
    match t.burstErr x n b with
    | some e => t.devFail x n e
    | none => t.controlOp x n b
  else if !(t.sub n).opAgain.isEmpty then t.sendAgain x n b
  else if t.flashWrite x n then t.flashProgram x n b
  else if (x == 10 || x == 11) && (t.sub n).cce.code == 0x21 then t.asRead x n b
  else if (x == 10 || x == 11) && bitOf (t.portCfg x) 5 && (t.dport x).ctsHigh then t
  else t.dataOp x n b

/-- A burst that does not wait for the store buffer runs. -/
theorem exec_portBurst_of_begun {x : Fin 13} (hidle : (s.dport x.val).waitIdle = false) (hpick : s.burstPick x.val = some n)
    (ht : t = s.burstBegin x.val n b) (hwait : t.burstWaits x.val n b = false) :
    exec (.portBurst x b) s = .next (t.burstRun x.val n b) := by
  subst ht
  refine exec_next rfl ((if_neg (ne_true_of_eq_false hidle)).trans ?_)
  simp only [hpick]
  refine (if_neg (ne_true_of_eq_false hwait)).trans ?_
  rfl

/-- Settles O30: each clause's conditions choose one branch of its command's meaning. -/
theorem portCommandsComplete : Obligations.PortCommandsComplete := by
  refine ⟨?burst, ?flash, ?character, ?overrun, ?idleEnd, ?ibi, ?hotjoin, ?edge, ?sfdpFailed, ?sfdp, fun _ _ => rfl, fun _ _ _ => rfl⟩
  case burst =>
    intro s x n b t hidle hpick ht hwait
    have hrun {v : State} (hv : t.burstRun x.val n b = v) : exec (.portBurst x b) s = .next v :=
      exec_next (exec_portBurst_of_begun hidle hpick ht hwait) hv
    refine ⟨fun hended => hrun (if_pos hended), fun hended => ⟨?gpio, ?control, ?controlFailed, ?again, ?program, ?asRead, ?data⟩⟩
    case gpio =>
      intro hx
      exact hrun (by simp [State.burstRun, hended, hx])
    case control =>
      intro hx hcode herr
      exact hrun (by simp [State.burstRun, hended, Nat.ne_of_lt hx, hcode, herr])
    case controlFailed =>
      intro e hx hcode herr
      exact hrun (by simp [State.burstRun, hended, Nat.ne_of_lt hx, hcode, herr])
    case again =>
      intro hx hcode hagain
      exact hrun (by simp [State.burstRun, hended, Nat.ne_of_lt hx, hcode, hagain])
    case program =>
      intro hx hcode hagain hflash
      exact hrun (by simp [State.burstRun, hended, Nat.ne_of_lt hx, hcode, hagain, hflash])
    case asRead =>
      intro hlo hhi hcode hagain hflash
      have hserial : x.val = 10 ∨ x.val = 11 := by omega
      exact hrun (by simp [State.burstRun, hended, Nat.ne_of_lt hhi, hcode, hagain, hflash, hserial])
    case data =>
      intro hx hcode hagain hflash
      have hten : x.val ≠ 10 := by omega
      have heleven : x.val ≠ 11 := by omega
      have htwelve : x.val ≠ 12 := by omega
      exact hrun (by simp [State.burstRun, hended, hten, heleven, htwelve, hcode, hagain, hflash])
  case flash =>
    rintro s x k _ rfl hbusy hruns hdue hopen
    exact exec_next rfl (by simp only [hbusy, hruns, hdue, hopen, Bool.and_self, if_true])
  case character =>
    rintro s x c bad brk _ hruns hen rfl hroom
    exact exec_next rfl ((if_pos (by simp [hruns, hen])).trans (if_pos hroom))
  case overrun =>
    rintro s x c bad brk _ hruns hen rfl hfull hfirst
    exact exec_next rfl ((if_pos (by simp [hruns, hen])).trans ((if_neg (Nat.not_lt.2 hfull)).trans
      (if_neg (ne_true_of_eq_false hfirst))))
  case idleEnd =>
    rintro s x _ rfl hruns hopen hcode hop hactive hempty hdue
    exact exec_next rfl (if_pos (by simp [hruns, hopen, hcode, hop, hactive, hempty, hdue]))
  case ibi =>
    intro s x a b hruns hen
    exact exec_next rfl (if_pos (by simp [hruns, hen]))
  case hotjoin =>
    intro s x a hruns hen
    exact exec_next rfl (if_pos (by simp [hruns, hen]))
  case edge =>
    intro s g hcore hlow hedge
    exact ⟨_, exec_next rfl (if_pos (by simp [hcore, hlow, hedge])), rfl, rfl, rfl⟩
  case sfdpFailed =>
    intro s c w hruns hen hcs
    exact exec_next rfl (if_pos (by simp [hruns, hen, hcs]))
  case sfdp =>
    intro s c l w hruns hen hcs
    exact exec_next rfl (if_pos (by simp [hruns, hen, hcs]))

end Sys2Proof.Machine
end

section
/-!
PROOF. The card ports and the lamps (chapters 16 and 17): each clause's conditions choose one branch of its command's meaning.
-/

namespace Sys2Proof.Machine

variable {s t u : State}

/-! ## Cards -/

/-- A port's state once an ATR is captured. -/
def State.atrTaken (s : State) (p : Nat) (chars : List Byte) : State :=
  (((upTo 9).foldl (fun s i => s.setReg (0x9050 + 4 * (9 * p + i)) (BitVec.ofNat 32 (leAt (chars.take 33) (4 * i) 4))) s).put
    (CRD_PSTAT_ATRLEN p) (chars.take 33).length).modCard p fun c => { c with atr := chars.take 33 }

/-- What a captured ATR brings: the next class, or, accepted, the port goes on (R373, R374). -/
def State.atrJudge (u : State) (p : Nat) (chars : List Byte) (bad : Bool) : State :=
  if !(readAtr chars).ok || bad then u.classFail p 0x82
  else
    match (readAtr chars).t15 with
    | some x =>
      if bitOf x (u.card p).cls then (u.atrAccept p (readAtr chars)).cdGo p
      else u.classFail p (if (x &&& u.get (CRD_PCFG0_CLASSMASK p)) % 8 == 0 then 0x8A else 0x82)
    | none => (u.atrAccept p (readAtr chars)).cdGo p

/-- In the ATR window an ATR is captured and judged. -/
theorem exec_cardAtr_of_window {p : Fin 2} {chars : List Byte} {parity gap : Bool} (hwindow : (s.card p.val).ph = .window) :
    exec (.cardAtr p chars parity gap) s = .next ((s.atrTaken p.val chars).atrJudge p.val chars (parity || gap)) := by
  refine exec_next rfl ((if_pos hwindow).trans ?_)
  simp only [State.atrJudge, ← Bool.or_assoc]
  rfl

/-- Settles O31: each clause's conditions choose one branch of its command's meaning. -/
theorem cardEventCommandsComplete : Obligations.CardEventCommandsComplete := by
  refine ⟨?insert, ?emergency, ?short, ?supply, ?settled, ?release, ?badAtr, ?goodAtr, ?windowEnd, ?nextClass, ?pps, ?noPps, ?waitT1,
    ?waitT0, ?block, ?chars, ?clockStop, ?expired⟩
  case insert =>
    intro s p habsent hlow
    exact exec_next rfl (if_neg (by simp [habsent, hlow]))
  case emergency =>
    intro s p hpresent
    exact exec_next rfl (if_pos hpresent)
  case short =>
    intro s p hvcc hsettled
    exact exec_next rfl (if_pos (by simp [hvcc, hsettled]))
  case supply =>
    intro s p hvcc
    exact exec_next rfl (if_pos (by simp [hvcc]))
  case settled =>
    intro s p hph
    exact exec_next rfl (if_pos hph)
  case release =>
    intro s p hph
    exact exec_next rfl (if_pos hph)
  case badAtr =>
    rintro s p chars gap _ hwindow rfl
    exact exec_next (exec_cardAtr_of_window hwindow) (if_pos (by simp))
  case goodAtr =>
    rintro s p chars _ hwindow hok hany rfl
    exact exec_next (exec_cardAtr_of_window hwindow) (by simp only [State.atrJudge, hok, hany]; rfl)
  case windowEnd =>
    intro s p hph
    exact exec_next rfl (if_pos hph)
  case nextClass =>
    intro s p k hph hclass
    exact exec_next rfl ((if_pos hph).trans (by rw [hclass]))
  case pps =>
    intro s p hph
    exact exec_next rfl ((if_pos hph).trans (if_pos rfl))
  case noPps =>
    intro s p hph hfallback hcold
    exact exec_next rfl (by simp [hph, hfallback, hcold])
  case waitT1 =>
    intro s p hph hexch hproto
    exact exec_next rfl (by simp [hph, hexch, hproto])
  case waitT0 =>
    intro s p hph hexch hproto
    exact exec_next rfl (by simp [hph, hexch, hproto])
  case block =>
    intro s p chars pcb inf hcore hph hexch hproto hblock
    exact exec_next rfl (by simp [hcore, hph, hexch, hproto, hblock])
  case chars =>
    intro s p chars hcore hph hexch hproto
    exact exec_next rfl (by simp [hcore, hph, hexch, hproto])
  case clockStop =>
    rintro s p _ rfl hactive hruns hen hind hexch hqueue hexclQ hexcl hdue
    exact exec_next rfl (if_pos (by simp [hactive, hruns, hen, hind, hexch, hqueue, hexclQ, hexcl, hdue]))
  case expired =>
    rintro s p _ hexcl hdue rfl
    exact exec_next rfl (if_pos (by simp [hexcl, hdue]))

/-! ## Lamps -/

/-- Settles O32: each clause's conditions choose one branch of its command's meaning. -/
theorem lampEventCommandsComplete : Obligations.LampEventCommandsComplete := by
  refine ⟨?period, ?short, ?opened, ?stale, fun _ _ => rfl⟩
  case period =>
    intro s hstart
    exact exec_next rfl (if_pos (by simp [hstart]))
  case short =>
    rintro s c ua mv _ _ hruns hlong hstart hfresh hfind hchange rfl rfl
    refine exec_next rfl ((if_pos (by simp [hruns, hlong, hstart, hfresh])).trans ?_)
    simp only [hfind]
    exact if_neg (by simp [hchange])
  case opened =>
    rintro s c ua mv _ hruns hlong hstart hfresh hfind hchange hlast hrun rfl
    refine exec_next rfl ((if_pos (by simp [hruns, hlong, hstart, hfresh])).trans ?_)
    simp only [hfind, hlast, hrun, if_true]
    exact if_pos (by simp [hchange])
  case stale =>
    intro s c hruns hok hold
    exact exec_next rfl (if_pos (by simp [hruns, hok, hold]))

end Sys2Proof.Machine
end

section
/-!
PROOF. The CORE domain, the resets, the vault, the frame tick and direct writes (chapters 02, 06, 14 and 18): each clause's
conditions choose one branch of its command's meaning.
-/

namespace Sys2Proof.Machine

variable {s t u v w : State} {n : Nat}

/-! ## CORE domain -/

/-- A running CORE that loses its power: the stores lost are recorded, and CORE must start again. -/
theorem exec_corePowerLoss_of_core (hcore : s.rst.core = true) (hlost : s.coreLost 0x64 = (v, n)) :
    exec .corePowerLoss s =
      .next (if n = 0 then v else v.log 0x8005 0xFF [some n, some (s.get CCH_SBMIRROR_OWNERS)]).coreStart :=
  exec_next rfl ((if_pos hcore).trans (by rw [hlost]))

/-- A Service image that arrives in time is locked and judged. -/
theorem exec_serviceSlotVerify_of_image {b : List Byte} (hboot : s.snt.boot = 6) (hcore : s.rst.core = true)
    (hdue : s.due s.snt.bootEnd = false)
    (hu : u = { s with snt := { s.snt with locked := 256 + (imageOf b).body.length } }) :
    exec (.serviceSlotVerify (some b)) s =
      .next (if u.serviceCode (imageOf b) != 0 then u.slotFail (u.serviceCode (imageOf b)) else u.slotRun (imageOf b)) := by
  subst hu
  exact exec_next rfl ((if_pos (by simp [hboot, hcore])).trans (if_neg (ne_true_of_eq_false hdue)))

/-- Settles O33: each clause's conditions choose one branch of its command's meaning. -/
theorem domainCommandsComplete : Obligations.DomainCommandsComplete := by
  refine ⟨?powerDown, ?deadline, ?lossless, ?loss, ?wake, ?adopt, ?core, ?startTimeout, ?started, ?supplies, ?verified, ?rejected,
    ?readError, ?slotTimeout⟩
  case powerDown =>
    rintro s _ hready hfor rfl
    exact exec_next rfl (by simp only [hready, if_true, hfor])
  case deadline =>
    intro s t d hend hfor hdue hidle
    exact exec_next rfl (by simp [hend, hfor, hdue, hidle])
  case lossless =>
    intro s v hcore hlost
    exact exec_next (exec_corePowerLoss_of_core hcore hlost) rfl
  case loss =>
    intro s v n hcore hlost hn
    exact exec_next (exec_corePowerLoss_of_core hcore hlost) (by rw [if_neg hn])
  case wake =>
    intro s src hlow hvault hselected hstate hcond
    exact exec_next rfl ((if_neg (by simp [hlow, hvault, hselected])).trans ((if_pos (by simpa using hstate)).trans (if_pos hcond)))
  case adopt =>
    rintro s _ v row hadopt hlow hvault hphase hdue rfl hseq
    exact exec_next rfl ((if_pos (by simp [hadopt, hlow, hvault, hphase, hdue])).trans (by simp only [hseq]))
  case core =>
    intro s v n hcore hlost
    exact exec_next rfl ((if_pos hcore).trans (by rw [hlost]))
  case startTimeout =>
    intro s hboot hen hcore hdue
    exact exec_next rfl (if_pos (by simp [hboot, hen, hcore, hdue]))
  case started =>
    rintro s a b c _ _ _ hboot hen hcore hlow hok rfl rfl rfl
    exact exec_next rfl (if_pos (by simp [hboot, hen, hcore, hlow, hok]))
  case supplies =>
    intro s x y a b c hbad
    exact exec_next rfl (if_neg (by simp [hbad]))
  case verified =>
    intro s b u hboot hcore hdue hu hcode
    exact exec_next (exec_serviceSlotVerify_of_image hboot hcore hdue hu) (if_neg (by simp [hcode]))
  case rejected =>
    intro s b u hboot hcore hdue hu hcode
    exact exec_next (exec_serviceSlotVerify_of_image hboot hcore hdue hu) (if_pos (by simp [hcode]))
  case readError =>
    intro s hboot hcore hdue
    exact exec_next rfl ((if_pos (by simp [hboot, hcore])).trans (if_neg (ne_true_of_eq_false hdue)))
  case slotTimeout =>
    intro s hboot hcore hdue
    exact exec_next rfl (if_pos (by simp [hboot, hcore, hdue]))

/-! ## Resets -/

/-- Settles O34: each clause's conditions choose one branch of its command's meaning. -/
theorem resetCommandsComplete : Obligations.ResetCommandsComplete := by
  refine ⟨?cold, ?low, ?long, ?release, ?warm, ?watchdog, ?lockstep⟩
  case cold =>
    rintro s i _ _ _ _ _ _ rfl rfl rfl rfl rfl rfl
    rfl
  case low =>
    rintro s _ hlow hvault rfl
    exact exec_next rfl (if_neg (by simp [hlow, hvault]))
  case long =>
    intro s hlow hdue
    exact exec_next rfl (if_pos (by simp [hlow, hdue]))
  case release =>
    intro s hlow
    exact exec_next rfl (if_pos hlow)
  case warm =>
    intro s hlow hvault
    exact exec_next rfl (if_neg (by simp [hlow, hvault]))
  case watchdog =>
    intro s hlow hvault hgated hrun
    exact exec_next rfl (if_neg (by simp [hlow, hvault, hgated, hrun]))
  case lockstep =>
    intro s hlow hvault hgated
    exact exec_next rfl (if_neg (by simp [hlow, hvault, hgated]))

/-! ## Vault -/

/-- A change of TAMPER_N sets both latches; the first one takes the real-time clock's count. -/
theorem exec_tamper_of_change {high : Bool} (hchange : s.rst.tamper ≠ high)
    (hu : u = { s with rst := { s.rst with tamper := high } }) :
    exec (.tamper high) s = .next (((if u.on RST_VAULTSTAT0_TAMPER then u else u.latchRtc 0).put RST_VAULTSTAT0_TAMPER 1).put
      SNT_AUTHSTAT0_TAMPER 1) := by
  subst hu
  exact exec_next rfl (if_neg (by simpa using hchange))

/-- Settles O35: each clause's conditions choose one branch of its command's meaning. -/
theorem vaultCommandsComplete : Obligations.VaultCommandsComplete := by
  refine ⟨?enter, ?again, ?first, ?wake, ?loss, ?lossInVault, ?fitted, ?crystal⟩
  case enter =>
    rintro s _ hvault hvbat rfl
    exact exec_next rfl (if_neg (by simp [hvault, hvbat]))
  case again =>
    intro s high u hchange hu hlatched
    exact exec_next (exec_tamper_of_change hchange hu) (by rw [if_pos hlatched])
  case first =>
    intro s high u hchange hu hlatched
    exact exec_next (exec_tamper_of_change hchange hu) (by rw [if_neg (ne_true_of_eq_false hlatched)])
  case wake =>
    intro s hvault hfirst
    exact exec_next rfl ((if_pos hvault).trans (by rw [if_neg (ne_true_of_eq_false hfirst)]))
  case loss =>
    intro s hvbat hvault
    exact exec_next rfl (by simp [hvbat, hvault])
  case lossInVault =>
    intro s hvbat hvault
    exact exec_next rfl (by simp [hvbat, hvault])
  case fitted =>
    intro s hvbat
    exact exec_next rfl (if_neg (ne_true_of_eq_false hvbat))
  case crystal =>
    intro s hvault
    exact exec_next rfl (if_pos hvault)

/-! ## Frame tick and direct writes -/

/-- Settles O36: each clause's conditions choose one branch of its command's meaning. -/
theorem tickAndWriteComplete : Obligations.TickAndWriteComplete := by
  refine ⟨?run, ?reset, ?sleep, ?write⟩
  case run =>
    rintro s f _ hvault hlow hawake rfl
    exact exec_next rfl ((if_neg (ne_true_of_eq_false hvault)).trans ((if_neg (ne_true_of_eq_false hlow)).trans
      (if_neg (ne_true_of_eq_false hawake))))
  case reset =>
    intro s f hvault hlow
    exact exec_next rfl ((if_neg (ne_true_of_eq_false hvault)).trans (if_pos hlow))
  case sleep =>
    intro s f hvault hlow hasleep
    exact exec_next rfl ((if_neg (ne_true_of_eq_false hvault)).trans ((if_neg (ne_true_of_eq_false hlow)).trans (if_pos hasleep)))
  case write =>
    intro s who off v k r hvault hlow hkey hreach hruns hcommand hlocked hfind
    exact exec_next rfl (by simp [hkey, hvault, hlow, hreach, hruns, hcommand, hlocked, hfind])

end Sys2Proof.Machine
end
